-- ==== Sys2Proof/Word.lean ====
section
/-!
DEFINITION. The words of the BX-20 and their plainest arithmetic.

Bit 0 of every field is its least significant bit and multi-byte fields are little-endian (R8).
-/

namespace Sys2Proof

/-- One byte of memory. -/
abbrev Byte := BitVec 8
/-- A 32-bit word. -/
abbrev W32 := BitVec 32
/-- A 64-bit register or flag word (R540, R181). -/
abbrev W64 := BitVec 64

/-- The field [hi:lo] of a number, both ends inclusive. -/
def fld (x hi lo : Nat) : Nat := (x / 2 ^ lo) % 2 ^ (hi + 1 - lo)

/-- Bit `i` of a number. -/
def bitOf (x i : Nat) : Bool := x / 2 ^ i % 2 == 1

/-- The number a list of bytes spells, little-endian (R8). -/
def leNat : List Byte → Nat
  | [] => 0
  | b :: bs => b.toNat + 256 * leNat bs

/-- The `n` little-endian bytes of a number (R8). -/
def leBytes : Nat → Nat → List Byte
  | 0, _ => []
  | n + 1, x => BitVec.ofNat 8 x :: leBytes n (x / 256)

/-- The smallest integer at least `a / b`. -/
def ceilDiv (a b : Nat) : Nat := (a + b - 1) / b

/-- The smallest `k` with `2 ^ k ≥ n` (0 for n ≤ 1). -/
def ceilLog2 (n : Nat) : Nat := if n ≤ 1 then 0 else Nat.log2 (n - 1) + 1

/-- Cut a list of bytes or a stack of settings to a range. -/
def sliceList {α : Type} (l : List α) (at' n : Nat) : List α := (l.drop at').take n

end Sys2Proof
end

