-- ==== Sys2Proof/Syntax.lean ====
section
/-!
DEFINITION. The commands of the BX-20: one constructor per row of the opcode table, with the row's operands.

The table gives no operands and no bits. An operand is what the spec's rule for the row takes from outside the
package: a written value, a received frame, a measured quantity, a time, or the descriptor an engine works on.
-/

namespace Sys2Proof

/-- Where a host access enters: the attachment it arrives on (R16) and the LD_ID it carries (R233). -/
structure Port where
  att : Nat
  ld : Nat
deriving DecidableEq, Repr

/-- A fetched descriptor: its partition, submission ring and number modulo 2^32 (R196). -/
structure DRef where
  part : Nat
  ring : Nat
  num : Nat
deriving DecidableEq, Repr

/-- Where a tile instruction runs (R128): the descriptor, the engine, the row group and the tile. -/
structure VecAt where
  ref : DRef
  cluster : Nat
  engine : Nat
  group : Nat
  tile : Nat
deriving DecidableEq, Repr

/-- The fields of a tile instruction other than its opcode (R134). `imm` and `half` are the immediate layout's. -/
structure VInst where
  typ : Nat
  md : Nat
  pm : Nat
  k : Nat
  a : Nat
  b : Nat
  c : Nat
  d : Nat
  fn : Nat
  imm : Nat
deriving DecidableEq, Repr

/-- Where an update instruction runs (R452): the binding whose chunk the engine holds. -/
structure UpdAt where
  part : Nat
  bind : Nat
  engine : Nat
deriving DecidableEq, Repr

/-- The fields of an update instruction other than its opcode (R454). -/
structure UInst where
  md : Nat
  d : Nat
  a : Nat
  b : Nat
  c : Nat
deriving DecidableEq, Repr

/-- A received frame as it stands at the MAC (R379, R381): the Ethernet fields, the 32-byte transport header as
little-endian bytes, the payload and the end-to-end check word. `size` is the frame's length in bytes, `fill` what the
MAC's receive buffer holds with it (R394). -/
structure RxFrame where
  mac : Nat
  size : Nat
  fill : Nat
  fcsOk : Bool
  etype : Nat
  vid : Nat
  hdr : List Byte
  payload : List Byte
  e2e : Nat
deriving DecidableEq, Repr

/-- Who writes a set-up register (R498, R545): management firmware, or a driver through BAR2. -/
inductive RegSrc where
  | mgmt
  | page (h : Port)
deriving DecidableEq, Repr

/-- The sample values an input decodes to (R293, R306, R308). -/
inductive Decoded where
  /-- Frames of planar codes in output order: bit depth, RGB flag, for each plane the shifts of its width and height against
  the frame's, and for each frame its planes. -/
  | frames (depth : Nat) (rgb : Bool) (shifts : List (Nat × Nat)) (planes : List (List (List Nat)))
  /-- Integer PCM of `bits` bits: for each channel its frames. -/
  | pcmInt (bits : Nat) (chans : List (List Int))
  /-- IEEE float PCM as FP32 words. -/
  | pcmFloat (chans : List (List Nat))
deriving DecidableEq, Repr, Inhabited

/-- What the board's sense network shows at one sampling instant (R500, R567): the 48 voltage monitors in mV, and the currents of the 24
rails in steps of 0.1 A. -/
structure RailSample where
  volts : List Nat
  amps : List Nat
deriving DecidableEq, Repr

/-- A received PTP frame as it stands at the MAC (R380, R396): the frame's length, its FCS, its VLAN identifier and the
message's domain number. -/
structure PtpFrame where
  mac : Nat
  size : Nat
  fcsOk : Bool
  vid : Nat
  domain : Nat
deriving DecidableEq, Repr

/-- A PTP Announce message's data set (R397). -/
structure Announce where
  priority1 : Nat
  clockClass : Nat
  accuracy : Nat
  variance : Nat
  priority2 : Nat
  identity : Nat
  steps : Nat
  sender : Nat
deriving DecidableEq, Repr

/-- What training found on one channel (R277): failed data or check lanes, failed command/address lanes, another
failure. -/
structure ChanFault where
  stack : Nat
  ch : Nat
  dataLanes : Nat
  caLanes : Nat
  other : Bool
deriving DecidableEq, Repr

/-- What the controller finds when it reads a sector (R281, R285): nothing, one wrong symbol on a lane, an uncorrectable
codeword, or nothing although the sector reads as other bytes (three or more wrong symbols). -/
inductive Ecc where
  | clean
  | corrected (lane : Nat)
  | uncorrectable
  | undetected (bytes : List Byte)
deriving DecidableEq, Repr

/-- What the device finds wrong while it reads: a sector of stacked memory (R281), or a word of on-chip storage, by its
WHERE code of R530 and its cluster (0xFF outside clusters), which its ECC corrects or not (R532). -/
inductive Found where
  | sector (addr : Nat) (ecc : Ecc)
  | word (store cluster : Nat) (corrected : Bool)
deriving DecidableEq, Repr

/-- A command of the platform at message level (R508): the SPDM session it came in, if any, its request identifier, its COMMAND byte,
its parameter bytes, and what the reads of carrying it out find wrong. -/
structure Msg where
  session : Option Nat
  req : Nat
  cmd : Nat
  params : List Byte
  found : List Found
deriving DecidableEq, Repr

/-- An act of a descriptor, and what its reads find wrong. -/
structure Reading where
  ref : DRef
  found : List Found
deriving DecidableEq, Repr

/-- A submission ring of a partition, and what reading its next entries finds wrong. -/
structure RingReading where
  ring : Nat
  found : List Found
deriving DecidableEq, Repr

/-- A received frame, and what the reads of taking it find wrong. -/
structure FrameReading where
  frame : RxFrame
  found : List Found
deriving DecidableEq, Repr

/-- A register write's value, and what the device's reads for it find wrong. -/
structure Written where
  value : W64
  found : List Found
deriving DecidableEq, Repr

/-- A completion ring of a partition, and what the read of a partial write of its next entry finds wrong. -/
structure CqReading where
  cq : Nat
  found : List Found
deriving DecidableEq, Repr

/-- A sequence of a partition, and what the reads of its swap find wrong. -/
structure SeqReading where
  seq : Nat
  found : List Found
deriving DecidableEq, Repr

/-- How writing flash ended, 0 or code 4 of R516's status, and what the reads find wrong. -/
structure UpdateEnd where
  code : Nat
  found : List Found
deriving DecidableEq, Repr

/-- What a tick boundary takes in: the rails' samples of the tick that ends, and what reading the sentry tables finds wrong. -/
structure TickInput where
  rails : List RailSample
  found : List Found
deriving DecidableEq, Repr

/-- A submission doorbell's value, and what the host has stored in its own memory since its last doorbell, as runs of
bytes: the entries of rings with LOC 1 (R254). -/
structure SqBell where
  value : W64
  stored : List (Nat × List Byte)
deriving DecidableEq, Repr

/-- One measured result of start-up self-test and verification (R513). `failStep` is the first boot ROM step that
fails, 1 to 7, or 0. `badSram` names an array that cannot be repaired as die and cluster (0xFF outside clusters).
`compOk` says that every other component's digest matches, `recordOk` that the persistent record's CRC does (R511). -/
structure BootResult where
  failStep : Nat
  badSram : Option (Nat × Nat)
  compOk : Bool
  recordOk : Bool
deriving DecidableEq, Repr

/-- An SPDM request: the requester's connection, the session if secured, and the request's bytes. -/
structure Spdm where
  conn : Nat
  session : Option Nat
  bytes : List Byte
deriving DecidableEq, Repr

/-- The commands of the BX-20. Every constructor's docstring names its row. -/
inductive Instr where
  -- registers and doorbells
  /-- REGISTER_WRITE -/
  | registerWrite (src : RegSrc) (addr size : Nat) (value : Written)
  /-- SQ_PRODUCER -/
  | sqProducer (h : Port) (ring : Nat) (value : SqBell)
  /-- CQ_CONSUMER -/
  | cqConsumer (h : Port) (ring : Nat) (value : W64)
  /-- RING_CTL_SUBMISSION -/
  | ringCtlSubmission (h : Port) (value : Written)
  /-- RING_CTL_COMPLETION -/
  | ringCtlCompletion (h : Port) (value : Written)
  /-- RESUME -/
  | resume (h : Port) (value : W64)
  /-- CANCEL_TAG -/
  | cancelTag (h : Port) (value : W64)
  /-- CANCEL_FROM_TAG -/
  | cancelFromTag (h : Port) (value : W64)
  /-- CANCEL_RING -/
  | cancelRing (h : Port) (value : W64)
  /-- CANCEL_PARTITION -/
  | cancelPartition (h : Port) (value : W64)
  -- the life of a descriptor
  /-- DESCRIPTOR_FETCH -/
  | descriptorFetch (part : Nat) (ring : RingReading)
  /-- DESCRIPTOR_ADMIT -/
  | descriptorAdmit (r : Reading)
  /-- SLICE_ISSUE at device time `t`; `r.found` is what the slice's reads find wrong -/
  | sliceIssue (r : Reading) (t : Nat)
  /-- SLICE_END at device time `t`; `stall` gives clusters with the starved part, in ns, of the slice's time on them since it
  began or since the last boundary (R439) -/
  | sliceEnd (r : DRef) (t : Nat) (stall : List (Nat × Nat))
  /-- DESCRIPTOR_COMPLETE -/
  | descriptorComplete (r : DRef)
  /-- COMPLETION_ENTRY_WRITE -/
  | completionEntryWrite (part : Nat) (cq : CqReading)
  /-- MSIX_TABLE_WRITE: 32-bit word `word` of entry `vec` -/
  | msixTableWrite (h : Port) (vec word : Nat) (value : W32)
  -- operations of descriptors
  /-- NOP -/
  | nop (r : DRef)
  /-- WAIT_GE -/
  | waitGe (r : Reading)
  /-- WAIT_EQ -/
  | waitEq (r : Reading)
  /-- SET -/
  | set (r : Reading)
  /-- ADD -/
  | add (r : Reading)
  /-- COPY -/
  | copy (r : DRef)
  /-- STATE_DUMP -/
  | stateDump (r : Reading)
  /-- ACC_SAVE -/
  | accSave (r : DRef)
  /-- ACC_RESTORE -/
  | accRestore (r : DRef)
  /-- MATMUL -/
  | matmul (r : DRef)
  /-- CONV_FWD -/
  | convFwd (r : DRef)
  /-- CONV_DGRAD -/
  | convDgrad (r : DRef)
  /-- CONV_WGRAD -/
  | convWgrad (r : DRef)
  /-- MAX -/
  | poolMax (r : DRef)
  /-- AVG_INCL -/
  | poolAvgIncl (r : DRef)
  /-- AVG_EXCL -/
  | poolAvgExcl (r : DRef)
  /-- MAX_BWD -/
  | poolMaxBwd (r : DRef)
  /-- AVG_INCL_BWD -/
  | poolAvgInclBwd (r : DRef)
  /-- AVG_EXCL_BWD -/
  | poolAvgExclBwd (r : DRef)
  /-- BOX_DECODE -/
  | boxDecode (r : DRef)
  /-- OVERLAP_SUPPRESS -/
  | overlapSuppress (r : DRef)
  /-- VEC -/
  | vec (r : DRef)
  /-- XC16_ENCODE -/
  | xc16Encode (r : DRef)
  /-- XC16_DECODE -/
  | xc16Decode (r : DRef)
  /-- ATTN_SCORE -/
  | attnScore (r : DRef)
  /-- ATTN_NORM -/
  | attnNorm (r : DRef)
  /-- ATTN_PV -/
  | attnPv (r : DRef)
  /-- ATTN_BWD -/
  | attnBwd (r : DRef)
  /-- DECODE_STEP -/
  | decodeStep (r : DRef)
  /-- SEQ_RESUME -/
  | seqResume (r : DRef)
  /-- GIVE -/
  | give (r : Reading)
  /-- TRUNCATE -/
  | truncate (r : Reading)
  /-- FREE -/
  | free (r : Reading)
  /-- MEDIA_SAMPLE -/
  | mediaSample (r : DRef)
  /-- STREAM_OPEN; `found` is what its reads find wrong -/
  | streamOpen (r : DRef) (found : List Found)
  /-- STREAM_CLOSE -/
  | streamClose (r : DRef)
  /-- SAMPLE_START: sample `i` begins on engine `engine` of its class -/
  | sampleStart (r : DRef) (i engine : Nat)
  /-- SAMPLE_DECODE_END; `found` is what its reads find wrong -/
  | sampleDecodeEnd (r : DRef) (i : Nat) (found : List Found)
  /-- SAMPLE_COMMIT -/
  | sampleCommit (r : Reading) (i : Nat)
  /-- GATHER -/
  | gather (r : Reading)
  /-- REDUCE_SCATTER -/
  | reduceScatter (r : Reading)
  /-- ALL_REDUCE -/
  | allReduce (r : Reading)
  /-- BROADCAST -/
  | broadcast (r : DRef)
  /-- BARRIER -/
  | barrier (r : DRef)
  /-- PERMUTE -/
  | permute (r : DRef)
  /-- CHUNK_SEND: the descriptor begins its next ready chunk -/
  | chunkSend (r : Reading)
  /-- PERMUTE_MOVE: round `round` -/
  | permuteMove (r : Reading) (round : Nat)
  /-- UPDATE_BIND -/
  | updateBind (r : DRef)
  /-- UPDATE_UNBIND -/
  | updateUnbind (r : DRef)
  /-- UPDATE_CHUNK: chunk `c` of the own shard -/
  | updateChunk (r : Reading) (c : Nat)
  /-- REGENERATE -/
  | regenerate (r : Reading)
  /-- COMPUTE -/
  | compute (r : Reading)
  /-- COMPARE -/
  | compare (r : Reading)
  /-- SAVE -/
  | save (r : Reading)
  /-- LOAD -/
  | load (r : Reading)
  -- tile instructions
  /-- VEC_NOP -/
  | vecNop (p : VecAt) (i : VInst)
  /-- VEC_LD -/
  | vecLd (p : VecAt) (i : VInst)
  /-- VEC_ST -/
  | vecSt (p : VecAt) (i : VInst)
  /-- VEC_MOV -/
  | vecMov (p : VecAt) (i : VInst)
  /-- VEC_CONST -/
  | vecConst (p : VecAt) (i : VInst)
  /-- VEC_IOTA -/
  | vecIota (p : VecAt) (i : VInst)
  /-- VEC_ADD -/
  | vecAdd (p : VecAt) (i : VInst)
  /-- VEC_SUB -/
  | vecSub (p : VecAt) (i : VInst)
  /-- VEC_MUL -/
  | vecMul (p : VecAt) (i : VInst)
  /-- VEC_FMA -/
  | vecFma (p : VecAt) (i : VInst)
  /-- VEC_MAX -/
  | vecMax (p : VecAt) (i : VInst)
  /-- VEC_MIN -/
  | vecMin (p : VecAt) (i : VInst)
  /-- VEC_ABS -/
  | vecAbs (p : VecAt) (i : VInst)
  /-- VEC_NEG -/
  | vecNeg (p : VecAt) (i : VInst)
  /-- VEC_DIV -/
  | vecDiv (p : VecAt) (i : VInst)
  /-- VEC_SQRT -/
  | vecSqrt (p : VecAt) (i : VInst)
  /-- VEC_RCP -/
  | vecRcp (p : VecAt) (i : VInst)
  /-- VEC_RSQRT -/
  | vecRsqrt (p : VecAt) (i : VInst)
  /-- VEC_EXP -/
  | vecExp (p : VecAt) (i : VInst)
  /-- VEC_EXP2 -/
  | vecExp2 (p : VecAt) (i : VInst)
  /-- VEC_LOG -/
  | vecLog (p : VecAt) (i : VInst)
  /-- VEC_LOG2 -/
  | vecLog2 (p : VecAt) (i : VInst)
  /-- VEC_SIN -/
  | vecSin (p : VecAt) (i : VInst)
  /-- VEC_COS -/
  | vecCos (p : VecAt) (i : VInst)
  /-- VEC_TANH -/
  | vecTanh (p : VecAt) (i : VInst)
  /-- VEC_SIGMOID -/
  | vecSigmoid (p : VecAt) (i : VInst)
  /-- VEC_ERF -/
  | vecErf (p : VecAt) (i : VInst)
  /-- VEC_CMP -/
  | vecCmp (p : VecAt) (i : VInst)
  /-- VEC_SEL -/
  | vecSel (p : VecAt) (i : VInst)
  /-- VEC_KOP -/
  | vecKop (p : VecAt) (i : VInst)
  /-- VEC_AND -/
  | vecAnd (p : VecAt) (i : VInst)
  /-- VEC_OR -/
  | vecOr (p : VecAt) (i : VInst)
  /-- VEC_XOR -/
  | vecXor (p : VecAt) (i : VInst)
  /-- VEC_SHL -/
  | vecShl (p : VecAt) (i : VInst)
  /-- VEC_SHR -/
  | vecShr (p : VecAt) (i : VInst)
  /-- VEC_SRA -/
  | vecSra (p : VecAt) (i : VInst)
  /-- VEC_CVT -/
  | vecCvt (p : VecAt) (i : VInst)
  /-- VEC_PACK -/
  | vecPack (p : VecAt) (i : VInst)
  /-- VEC_UNPK -/
  | vecUnpk (p : VecAt) (i : VInst)
  /-- VEC_TRN -/
  | vecTrn (p : VecAt) (i : VInst)
  /-- VEC_PERM -/
  | vecPerm (p : VecAt) (i : VInst)
  /-- VEC_SHUF -/
  | vecShuf (p : VecAt) (i : VInst)
  /-- VEC_BCST -/
  | vecBcst (p : VecAt) (i : VInst)
  /-- VEC_RSUM -/
  | vecRsum (p : VecAt) (i : VInst)
  /-- VEC_RMAX -/
  | vecRmax (p : VecAt) (i : VInst)
  /-- VEC_RMIN -/
  | vecRmin (p : VecAt) (i : VInst)
  /-- VEC_RARGMAX -/
  | vecRargmax (p : VecAt) (i : VInst)
  /-- VEC_RAND -/
  | vecRand (p : VecAt) (i : VInst)
  -- update instructions
  /-- UPD_NOP -/
  | updNop (p : UpdAt) (i : UInst)
  /-- UPD_MOV -/
  | updMov (p : UpdAt) (i : UInst)
  /-- UPD_ADD -/
  | updAdd (p : UpdAt) (i : UInst)
  /-- UPD_SUB -/
  | updSub (p : UpdAt) (i : UInst)
  /-- UPD_MUL -/
  | updMul (p : UpdAt) (i : UInst)
  /-- UPD_FMA -/
  | updFma (p : UpdAt) (i : UInst)
  /-- UPD_DIV -/
  | updDiv (p : UpdAt) (i : UInst)
  /-- UPD_SQRT -/
  | updSqrt (p : UpdAt) (i : UInst)
  /-- UPD_RSQRT -/
  | updRsqrt (p : UpdAt) (i : UInst)
  /-- UPD_RCP -/
  | updRcp (p : UpdAt) (i : UInst)
  /-- UPD_MAX -/
  | updMax (p : UpdAt) (i : UInst)
  /-- UPD_MIN -/
  | updMin (p : UpdAt) (i : UInst)
  /-- UPD_ABS -/
  | updAbs (p : UpdAt) (i : UInst)
  /-- UPD_NEG -/
  | updNeg (p : UpdAt) (i : UInst)
  /-- UPD_CMP -/
  | updCmp (p : UpdAt) (i : UInst)
  /-- UPD_SEL -/
  | updSel (p : UpdAt) (i : UInst)
  /-- UPD_MRD -/
  | updMrd (p : UpdAt) (i : UInst)
  /-- UPD_MADD -/
  | updMadd (p : UpdAt) (i : UInst)
  /-- UPD_EXP2 -/
  | updExp2 (p : UpdAt) (i : UInst)
  /-- UPD_LOG2 -/
  | updLog2 (p : UpdAt) (i : UInst)
  /-- UPD_BSUM -/
  | updBsum (p : UpdAt) (i : UInst)
  /-- UPD_BMAX -/
  | updBmax (p : UpdAt) (i : UInst)
  -- ticks and time
  /-- TICK_BOUNDARY: the samples of the rails give P of the tick that ends (R493, R567) -/
  | tickBoundary (input : TickInput)
  /-- LANE_REPAIR_END -/
  | laneRepairEnd (stack ch : Nat)
  /-- SNAPSHOT_PUBLISH -/
  | snapshotPublish
  /-- WAIT_CYCLE_REPORT -/
  | waitCycleReport (part : Nat)
  /-- LATE_REPORT -/
  | lateReport (r : DRef)
  /-- TICK_STAGE_AT -/
  | tickStageAt (value : W64)
  /-- TICK_EPOCH at device time `t` -/
  | tickEpoch (value : W64) (t : Nat)
  /-- SYNC received at device time `t`: `offset` is the measured offset from the grandmaster in ns, `gm` the
  grandmaster's time; `twoStep` waits for a Follow_Up -/
  | sync (f : PtpFrame) (t : Nat) (offset : Int) (gm : Nat) (twoStep : Bool) (seq : Nat)
  /-- FOLLOW_UP -/
  | followUp (f : PtpFrame) (t : Nat) (offset : Int) (gm : Nat) (seq : Nat)
  /-- ANNOUNCE -/
  | announce (f : PtpFrame) (a : Announce)
  /-- DELAY_REQ: the requesting port identity, the sequence number and the time of receipt -/
  | delayReq (f : PtpFrame) (requester seq : Nat) (rxTime : Nat)
  /-- DELAY_RESP -/
  | delayResp (f : PtpFrame) (seq : Nat) (delay : Nat)
  /-- PTP_IGNORED_MESSAGE: message type -/
  | ptpIgnoredMessage (f : PtpFrame) (typ : Nat)
  /-- SYNC_INTERVAL -/
  | syncInterval
  /-- ANNOUNCE_INTERVAL -/
  | announceInterval
  /-- DELAY_REQ_INTERVAL -/
  | delayReqInterval
  /-- ANNOUNCE_RECEIPT_TIMEOUT -/
  | announceReceiptTimeout (mac : Nat)
  -- fabric
  /-- DATA -/
  | data (f : FrameReading)
  /-- ACK -/
  | ack (f : RxFrame)
  /-- HELLO -/
  | hello (f : RxFrame)
  /-- CENSUS at device time `t` -/
  | census (f : RxFrame) (t : Nat)
  /-- CH_RESET -/
  | chReset (f : RxFrame)
  /-- CH_RESET_ACK -/
  | chResetAck (f : RxFrame)
  /-- TRAILER -/
  | trailer (f : FrameReading)
  /-- BASES -/
  | bases (f : RxFrame)
  /-- TOKEN -/
  | token (f : FrameReading)
  /-- GRANT -/
  | grant (f : RxFrame)
  /-- ACK_TIMER -/
  | ackTimer (ch : Nat)
  /-- RTO_EXPIRY -/
  | rtoExpiry (ch seq : Nat)
  /-- CHANNEL_FAIL_TIMEOUT -/
  | channelFailTimeout (ch : Nat)
  /-- CH_RESET_RETRY -/
  | chResetRetry (ch : Nat)
  /-- CH_RESET_TIMEOUT -/
  | chResetTimeout (ch : Nat)
  /-- HELLO_TIMER -/
  | helloTimer
  /-- HELLO_WAIT_EXPIRY -/
  | helloWaitExpiry (mac : Nat)
  /-- CENSUS_RESEND -/
  | censusResend (pkg : Nat)
  /-- CENSUS_PERIODIC -/
  | censusPeriodic
  /-- CENSUS_QUIET -/
  | censusQuiet
  /-- CENSUS_LIMIT -/
  | censusLimit
  /-- FABRIC_LINK_TIMEOUT -/
  | fabricLinkTimeout
  /-- MAC_LINK_CHANGE -/
  | macLinkChange (mac : Nat) (up : Bool)
  /-- PFC_FRAME: priorities paused (true) or released -/
  | pfcFrame (mac : Nat) (prio : List Nat) (pause : Bool)
  /-- PAUSE -/
  | pause (mac : Nat)
  /-- START -/
  | start
  /-- BIND: the written value of FAB_BIND -/
  | bind (value : Written) (t : Nat)
  /-- UNBIND -/
  | unbind (value : W64)
  -- hosts and partitions
  /-- CXL_MEM_READ -/
  | cxlMemRead (h : Port) (addr : Nat) (ecc : Ecc)
  /-- CXL_MEM_WRITE: one 64-byte line -/
  | cxlMemWrite (h : Port) (addr : Nat) (line : List Byte)
  /-- HDM_DECODER_COMMIT -/
  | hdmDecoderCommit (h : Port) (base : W64)
  /-- FUNCTION_LEVEL_RESET -/
  | functionLevelReset (h : Port)
  /-- FLR_WAIT_EXPIRY -/
  | flrWaitExpiry (part : Nat)
  /-- LINK_RESET -/
  | linkReset (att : Nat)
  /-- ATTACHMENT_LINK_CHANGE: `cxl` says that CXL 3.1 trained at an accepted rate, `mld` that the partner enabled
  multi-logical-device operation -/
  | attachmentLinkChange (att : Nat) (up cxl mld : Bool)
  /-- PERST_N of external port `q` -/
  | perstN (q : Nat)
  /-- PARTITION_CREATE: VALID of entry `p` goes to 1 -/
  | partitionCreate (p : Nat)
  /-- PARTITION_READY -/
  | partitionReady (p : Nat)
  /-- PARTITION_DESTROY -/
  | partitionDestroy (p : Nat)
  /-- PARTITION_DESTROY_EXPIRY -/
  | partitionDestroyExpiry (p : Nat)
  /-- MODE_WRITE -/
  | modeWrite (p : Nat) (mode : Nat)
  /-- PART_BUF_COMMIT -/
  | partBufCommit (h : Port) (value : Written)
  /-- PART_EXC_BASE -/
  | partExcBase (h : Port) (value : Written)
  /-- PART_DROWSE: the LO register (`hi` false) or the HI register -/
  | partDrowse (h : Port) (hi : Bool) (value : W64)
  /-- PART_FWU_CMD -/
  | partFwuCmd (h : Port) (value : Written)
  /-- FIRMWARE_UPDATE_COMPLETE: result CODE of PART_FWU_STATUS; `erased` says that flash erasure had begun -/
  | firmwareUpdateComplete (code : UpdateEnd) (erased : Bool)
  -- memory and package
  /-- TRAIN -/
  | train
  /-- TRAINING_COMPLETE with the channels at fault -/
  | trainingComplete (faults : List ChanFault)
  /-- PATROL_SCRUB of the sector at `addr` -/
  | patrolScrub (addr : Nat) (ecc : Ecc)
  /-- STACK_TEMP_SAMPLE -/
  | stackTempSample (stack temp : Nat)
  /-- DIE_SENSOR_SAMPLE: diode identifier and reading in quarter degrees -/
  | dieSensorSample (diode temp4 : Nat)
  /-- DIE_LINK_FAILURE -/
  | dieLinkFailure (link : Nat)
  /-- DIE_LINK_RETRAIN -/
  | dieLinkRetrain (link : Nat) (degraded : Bool)
  /-- SWAP_COMPLETE -/
  | swapComplete (part : Nat) (seq : SeqReading)
  /-- GO: the written value of PWR_CTL -/
  | go (value : W64)
  /-- PACKAGE_STATE_ENTERED -/
  | packageStateEntered
  /-- WAKE_ADDRESS_MATCH -/
  | wakeAddressMatch (addr : Nat)
  /-- THERMAL_ALERT: hottest readout in °C -/
  | thermalAlert (temp : Nat)
  /-- RELEASE: the written value of PWR_PAD_RELEASE -/
  | release (value : W64)
  /-- AON_RESET_N: `release` false while low, true when it rises -/
  | aonResetN (release : Bool)
  /-- BOOT_COMPLETE -/
  | bootComplete (b : BootResult)
  /-- COLD_RESET_N -/
  | coldResetN
  /-- WARM_RESET_N -/
  | warmResetN
  /-- COLD -/
  | cold
  /-- WARM -/
  | warm
  /-- MAIN_PWRGD -/
  | mainPwrgd (up : Bool)
  /-- REFCLK100_LOSS -/
  | refclk100Loss
  /-- REFCLK156_LOSS -/
  | refclk156Loss
  /-- REFCLK25_LOSS -/
  | refclk25Loss
  -- management and security
  /-- FREEZE -/
  | freeze
  /-- UNFREEZE -/
  | unfreeze
  /-- KICK -/
  | kick
  /-- WATCHDOG_EXPIRY at device time `t` -/
  | watchdogExpiry (t : Nat)
  /-- LOCK -/
  | lock
  /-- NONCE_EXPIRY -/
  | nonceExpiry
  /-- GET_INFO -/
  | getInfo (m : Msg)
  /-- RECORDER_READ -/
  | recorderRead (m : Msg)
  /-- RECORDER_FREEZE -/
  | recorderFreeze (m : Msg)
  /-- RECORDER_UNFREEZE -/
  | recorderUnfreeze (m : Msg)
  /-- LOG_READ -/
  | logRead (m : Msg)
  /-- PARTITION_SET -/
  | partitionSet (m : Msg)
  /-- PARTITION_MODE -/
  | partitionMode (m : Msg)
  /-- PARTITION_CLEAR -/
  | partitionClear (m : Msg)
  /-- POLICY_SET -/
  | policySet (m : Msg)
  /-- FABRIC_ID -/
  | fabricId (m : Msg)
  /-- FABRIC_SETUP -/
  | fabricSetup (m : Msg)
  /-- JOB_BIND at device time `t` -/
  | jobBind (m : Msg) (t : Nat)
  /-- JOB_UNBIND -/
  | jobUnbind (m : Msg)
  /-- TICK_STAGE -/
  | tickStage (m : Msg)
  /-- POWER_STATE -/
  | powerState (m : Msg)
  /-- GOVERNOR_SET -/
  | governorSet (m : Msg)
  /-- RETIRE_RECORD -/
  | retireRecord (m : Msg)
  /-- DEBUG_UNLOCK -/
  | debugUnlock (m : Msg)
  /-- POLICY -/
  | policy (m : Msg)
  /-- SET_ENDPOINT_ID -/
  | setEndpointId (eid : Nat)
  /-- GET_ENDPOINT_ID -/
  | getEndpointId
  /-- GET_MCTP_VERSION_SUPPORT -/
  | getMctpVersionSupport (typ : Nat)
  /-- GET_MESSAGE_TYPE_SUPPORT -/
  | getMessageTypeSupport
  /-- GET_SENSOR_READING -/
  | getSensorReading (sensor : Nat)
  /-- GET_PDR -/
  | getPdr (record : Nat)
  /-- GET_PDR_REPOSITORY_INFO -/
  | getPdrRepositoryInfo
  /-- REQUEST_UPDATE -/
  | requestUpdate
  /-- PASS_COMPONENT_TABLE -/
  | passComponentTable (comps : Nat)
  /-- UPDATE_COMPONENT of `size` bytes -/
  | updateComponent (size : Nat)
  /-- REQUEST_FIRMWARE_DATA: the response's piece -/
  | requestFirmwareData (offset : Nat) (piece : List Byte)
  /-- ACTIVATE_FIRMWARE -/
  | activateFirmware (selfContained : Bool)
  /-- GET_VERSION -/
  | getVersion (q : Spdm)
  /-- GET_CAPABILITIES -/
  | getCapabilities (q : Spdm)
  /-- NEGOTIATE_ALGORITHMS -/
  | negotiateAlgorithms (q : Spdm)
  /-- GET_DIGESTS -/
  | getDigests (q : Spdm)
  /-- GET_CERTIFICATE -/
  | getCertificate (q : Spdm)
  /-- CHALLENGE -/
  | challenge (q : Spdm)
  /-- GET_MEASUREMENTS -/
  | getMeasurements (q : Spdm)
  /-- KEY_EXCHANGE -/
  | keyExchange (q : Spdm)
  /-- FINISH -/
  | finish (q : Spdm)
  /-- KEY_UPDATE -/
  | keyUpdate (q : Spdm)
  /-- HEARTBEAT -/
  | heartbeat (q : Spdm)
  /-- END_SESSION -/
  | endSession (q : Spdm)
  /-- GET_ENCAPSULATED_REQUEST -/
  | getEncapsulatedRequest (q : Spdm)
  /-- DELIVER_ENCAPSULATED_RESPONSE -/
  | deliverEncapsulatedResponse (q : Spdm)
  /-- SET_CERTIFICATE -/
  | setCertificate (q : Spdm)
  /-- CXL_IDE_KM -/
  | cxlIdeKm (q : Spdm)
  -- further rows
  /-- DIE_LINK_TRAINING_COMPLETE: the links that trained and those on repair lanes -/
  | dieLinkTrainingComplete (trained degraded : List Nat)
  /-- REFCLK100_RETURN -/
  | refclk100Return
  /-- REFCLK156_RETURN -/
  | refclk156Return
  /-- REFCLK25_RETURN -/
  | refclk25Return
  /-- ALWAYS_ON_RAIL_LOSS -/
  | alwaysOnRailLoss
  /-- RECORDER_DRAIN: up to `count` records -/
  | recorderDrain (count : Nat)
  /-- MANAGEMENT_ECC_ERROR at device time `t` -/
  | managementEccError (uncorrectable : Bool) (t : Nat)
  /-- DYNAMIC_ADDRESS_ASSIGNMENT -/
  | dynamicAddressAssignment (addr : Nat)
  /-- PACKAGE_STATE_EXIT_COMPLETE -/
  | packageStateExitComplete
  /-- DOORBELL_RESERVED_SLOT: `whole` says that it is one aligned 64-bit write -/
  | doorbellReservedSlot (h : Port) (offset : Nat) (whole : Bool)
deriving DecidableEq, Repr

end Sys2Proof
end

