-- ==== Sys2Proof/Config.lean ====
section
/-!
DEFINITION. What the spec leaves to the implementation or leaves open: constants without a body, so that no proof
can see their values. Each is named by an entry of the assumption log.
-/

namespace Sys2Proof

/-- FREE VALUE (log entry 6): a value the spec leaves open, numbered by the state's counter `fresh`. -/
opaque Config.freeValue : Nat → Nat

/-- FREE VALUE (log entry 6): byte `j` of a cluster buffer after descriptors have run on its cluster, or of an area the
media engines used as scratch or as a stream's context; `g` numbers the contents. No rule says what they hold then. -/
opaque Config.clusterByte (g j : Nat) : Byte

/-- FREE VALUE (log entry 6): word `j` of an accumulator tile that no rule gives contents; `g` numbers the contents and
`k` the tile. -/
opaque Config.accWord (g k j : Nat) : Nat

/-- FREE VALUE (log entry 9): the window of the resampler's sinc from a source rate to a rate: the phase, the tap's place, the
value in steps of 2^-40 (R309). -/
opaque Config.resampleWindow : Nat → Nat → Nat → Nat → Int

/-- FREE VALUE (log entry 9): where the resampler's sinc cuts off, between 0.9 and 1.0 of the lower Nyquist frequency, by source rate
and rate (R309). -/
opaque Config.resampleCutoff : Nat → Nat → Nat

/-- FREE VALUE (log entry 9): how many values on either side of a position the resampler's taps reach, by source rate and rate. -/
opaque Config.resampleReach : Nat → Nat → Nat

/-- FREE VALUE (log entry 9): an FP32 word from which the band energy of element `j` of the plane is taken, within the bound of
R309. The first list is the window's PCM as FP32 words, the second the recipe's audio fields. -/
opaque Config.bandEnergy : List Nat → List Nat → Nat → Nat

/-- FREE VALUE (log entry 7): the sample values that an input's standard defines (R293): the sample kind, for video the codec and
the stream's parameter data, and the source's bytes. WAV is computed and not asked for here. -/
opaque Config.decodeValue : Nat → Nat → List Byte → List Byte → Decoded

/-- FREE VALUE (log entry 7): the hole cause of R318 and the byte offset of what is wrong with an input, if anything is; the last
list is what the list entry declares, at which decoding stops (R312). -/
opaque Config.decodeError : Nat → Nat → List Byte → List Byte → List Nat → Option (Nat × Nat)

/-- FREE VALUE (log entry 21): a FATAL event of the device time given falls in the same clock as the FATAL record that froze the
recorder (R523); the other numbers are that record's SEQ and the count of refused records, which tell events apart. -/
opaque Config.oneClock (time seq dropped : Nat) : Bool

/-- FREE VALUE (log entry 18): byte `k` of the training results in the retention SRAM (R484, R485): kind 0 the equalisation of the
64 fabric lanes, 1 the host attachments', 2 + s the trained settings of stack controller s; `g` numbers the entry. -/
opaque Config.trainedByte (g kind k : Nat) : Byte

/-- FREE VALUE (log entry 19): the TARGET code of an image's component names the reserve region (R512), whose code no rule
gives. -/
opaque Config.reserveTarget : Nat → Bool

/-- FREE VALUE (log entry 53): the MACs of a port whose SPLIT holds the reserved code 3, which R377 does not give. -/
opaque Config.reservedSplit : Nat

/-- FREE VALUE (log entry 7): a stream's parameter data parses and declares a profile of R292: the codec and the data. -/
opaque Config.streamParses : Nat → List Byte → Bool

/-- Result of verifying an SLH-DSA signature (FIPS 205) under a public key; log entry 8. The first argument names the
parameter set: 0 SHAKE-256s, 1 SHAKE-256f. -/
opaque Config.slhVerify : Nat → List Byte → List Byte → List Byte → Bool

/-- The bytes of a response whose content needs a private key, a Diffie–Hellman secret or a random number
(R518, R519); log entry 8. The first argument is the request code. -/
opaque Config.secretReply : Nat → List Byte → List Byte

/-- The requester's FINISH verifies (R518): signature set, its certificate chain (empty without mutual authentication), the
session's identifier and the request's bytes; log entry 8. -/
opaque Config.finishVerify : Nat → List Byte → Nat → List Byte → Bool

/-- The certificate chain of slot 0, fixed at manufacture (R519); log entry 8. -/
opaque Config.deviceChain : List Byte

/-- The version of the boot ROM (R517); log entry 6. -/
opaque Config.bootRomVersion : Nat

/-- FREE VALUE (log entry 8): byte `j` of the `n`-th random string the security engine draws (R521). -/
opaque Config.randomByte : Nat → Nat → Byte

end Sys2Proof
end

