-- ==== Sys2Proof/Machine/State.lean ====
section
/-!
DEFINITION. Everything the BX-20 holds, as plain data, and its state right after reset.

Tables are lists of (key, value) pairs in one canonical form: keys strictly rising, no entry equal to what an unlisted
key reads as. Machine/Ops.lean reads and writes them.
-/

namespace Sys2Proof.Machine

/-! ## Package -/

/-- What is fused at manufacture (R1, R513, R522, R543, R564). -/
structure Fuse where
  gradeB : Bool
  stepping : Nat
  pen : Nat
  serial : Nat
  rootHash : List (List Byte)
  revoked : Nat
  svn : Nat
  vid : List Nat
deriving DecidableEq, Repr

/-- The states of R30. -/
inductive Lock where
  | unlocked | locked | holdover
deriving DecidableEq, Repr

/-- A RESYNC that waits for its boundary (R31, R398, R407): the boundary's time and number, the epoch and period of
the new grid. -/
structure Resync where
  at' : Nat
  num : Nat
  epoch : Nat
  period : Nat
deriving DecidableEq, Repr

/-- The tick (R23 to R39) and the TICK block (R551). Periods are in µs, times in ns. -/
structure TickSt where
  period : Nat
  stagePeriod : Nat
  stageAt : Nat
  epoch : Nat
  count : Nat
  lock : Lock
  resync : Bool
  stageReject : Bool
  epochReject : Bool
  overruns : W32
  stage : Option (Nat × Nat)
  start : Nat
  pendingResync : Option Resync
  running : Bool
  /-- tick whose snapshot is frozen and not yet published -/
  frozen : Option Nat
deriving DecidableEq, Repr

/-- The time protocol (R396 to R398). -/
structure PtpSt where
  good : Nat
  lockedOnce : Bool
  grandmaster : Option Announce
  slave : Option Nat
  best : List (Nat × Announce)
  twoStep : List (Nat × Nat)
  delay : Nat
  delayReq : Option Nat
  syncSeq : Nat
  announceSeq : Nat
  delaySeq : Nat
deriving DecidableEq, Repr

/-- The event recorder (R501 to R505). A record is 64 bytes, keyed by SEQ mod 32,768. -/
structure Recorder where
  recs : List (Nat × List Byte)
  nextSeq : W32
  frozen : Bool
  freezeSeq : W32
  dropped : Nat
  unfreezes : Nat
  /-- SEQ of the next record management firmware drains into the log (R505) -/
  drained : W32
deriving DecidableEq, Repr

/-- The management processor and the boot ROM (R499, R513, R514). `loading`: the management stage runs and loads the other
components anew after a reset of their domains (R570). -/
inductive Boot where
  | held | booting | loading | running | restarting | recovery
deriving DecidableEq, Repr

/-- A firmware update in progress (R514 to R516): begun by a partition (none once that partition is destroyed) or by PLDM,
the image's length, the bytes received, whether they are poisoned, the address of a partition's image. -/
structure Fwu where
  host : Bool
  part : Option Nat
  size : Nat
  image : List Byte
  poisoned : Bool
  addr : Nat
deriving DecidableEq, Repr

/-- The MGMT block, measurements, identity on the bus, flash (R507 to R522). -/
structure MgmtSt where
  boot : Boot
  rootSlot : Nat
  version : Nat
  svn : Nat
  pendingVersion : Option Nat
  wdtPeriod : Nat
  /-- device time of the last KICK or restart -/
  lastKick : Nat
  expiries : Nat
  expiryTimes : List Nat
  requireSession : Bool
  updatePart : Nat
  dbgEn : Bool
  dbgLocked : Bool
  nonce : Option (List Byte)
  meas : List (List Byte)
  eid : Nat
  dynAddr : Option Nat
  tableSeen : Bool
  fwu : Option Fwu
  /-- the other domains have been reset, and start-up step 1 has not been carried out since (R513) -/
  loadPending : Bool
  /-- the firmware image in flash; empty: the image the package was shipped with, whose bytes no rule gives -/
  flash : List Byte
  /-- flash has been erased and holds no whole image -/
  flashBad : Bool
  retireRecord : List Nat
  /-- how often the persistent record's CRC failed and it was treated as empty, as logged (R511) -/
  recordLost : Nat
  /-- request identifiers of commands whose response waits for a partition's creation or end, by command × 8 +
  partition (R509, R523) -/
  respWait : List (Nat × Nat)
  /-- accesses to a hole or an unmapped address, as logged: address, and whether it was a write (R269) -/
  badAccess : List (Nat × Bool)
deriving DecidableEq, Repr

/-- One SPDM session (R518): its requester, whether mutual authentication was requested, whether FINISH has established it,
whether the requester's signature was verified, how far the encapsulated requests are (0 digests, 1 certificate, 2 done), the
requester's certificate chain as received, and how often its keys were updated. -/
structure Session where
  id : Nat
  conn : Nat
  wanted : Bool
  established : Bool
  verified : Bool
  encap : Nat
  chain : List Byte
  keyGen : Nat
deriving DecidableEq, Repr

/-- The negotiation state of one SPDM requester (R518): stage 1 version, 2 capabilities, 3 algorithms; its MUT_AUTH_CAP and
ENCAP_CAP, and the signature set negotiated for it (0 SLH-DSA-SHAKE-256s, 1 256f). -/
structure Conn where
  stage : Nat
  mutAuth : Bool
  encap : Bool
  sigSet : Nat
deriving DecidableEq, Repr

/-- The security engine (R518 to R520). -/
structure SecSt where
  conns : List (Nat × Conn)
  sessions : List Session
  /-- the chain in certificate slot 1 -/
  slot1 : List Byte
  /-- IDE keys of external ports 0 and 1, as programmed -/
  ideKeys : List (Nat × Nat)
deriving DecidableEq, Repr

/-! ## Power -/

/-- PWR registers (R495) and what the governor, wake logic and drowse keep. Temperatures of diodes are in quarter
degrees. -/
structure PwrSt where
  target : Nat
  state : Nat
  busy : Bool
  refuse : Nat
  wakeCause : Nat
  padHeld : Nat
  fmin : Nat
  fmax : Nat
  limit : Nat
  tjThrottle : Nat
  stackThrottle : Nat
  tjCrit : Nat
  tjWake : Nat
  fMhz : Nat
  reason : Nat
  pW : Nat
  tj : Nat
  ts : Nat
  wakeAddr : Nat
  i3cEn : Bool
  thermEn : Bool
  tjTick : Nat
  tsTick : Nat
  sensors : List (Nat × Nat)
  entering : Option Nat
  exiting : Bool
  clocksStopped : Bool
  wakeLatched : Nat
  drowsed : List Nat
  waking : List (Nat × Nat)
deriving DecidableEq, Repr

/-- Pins and reference clocks (R542, R561, R568 to R573). -/
structure PinSt where
  mainPwrgd : Bool
  ref100 : Bool
  ref156 : Bool
  ref25 : Bool
  heldInReset : Bool
  thermtrip : Bool
  aonReset : Bool
deriving DecidableEq, Repr

/-- One die link (R542). -/
structure DieLink where
  trained : Bool
  degraded : Bool
  retrains : Nat
deriving DecidableEq, Repr

/-- MEDIA registers (R553). -/
structure MediaRegs where
  videoOff : Nat
  jpegOff : Nat
  inflateOff : Nat
  audioOff : Nat
  holes : List Nat
deriving DecidableEq, Repr

/-- COLL_INJECT or UPD_INJECT (R555). -/
structure Inject where
  part : Nat
  arm : Bool
  bit : Nat
deriving DecidableEq, Repr

/-! ## Stacked memory -/

/-- MEMC_STACK s (R289) and what its controller keeps (R285 to R288). Bit masks are numbers. -/
structure StackSt where
  spared : Nat
  temp : Nat
  refresh : Nat
  corrected : W32
  uncorrectable : W32
  retirePending : Nat
  down : Bool
  /-- one more than the hottest reading of the tick, 0 before the first (R287) -/
  maxTick : Nat
deriving DecidableEq, Repr

/-- One data or check lane of a channel (R285): symbol errors corrected in the tick, suspect, in erasure decoding. -/
structure LaneSt where
  count : Nat
  suspect : Bool
  erased : Bool
deriving DecidableEq, Repr

/-- The MEMC block and the memory map (R265 to R289). -/
structure MemcSt where
  trained : Bool
  failed : Bool
  started : Bool
  training : Bool
  healthy : List (Nat × Nat)
  scrubHours : Nat
  scrubEn : Bool
  retireReq : List (Nat × Nat)
  stackTab : List (Nat × StackSt)
  lanes : List (Nat × LaneSt)
  spares : List (Nat × Nat)
  /-- lanes that are moving to a spare, by lane key, with their channel (R285) -/
  repairing : List (Nat × Nat)
deriving DecidableEq, Repr

/-! ## What the package sends -/

/-- Something that leaves the package. -/
inductive Out where
  /-- an Ethernet frame on a MAC, from DA to the FCS (R379, R396) -/
  | frame (mac : Nat) (bytes : List Byte)
  /-- an interrupt message (R259) -/
  | msi (part vector : Nat) (addr data : Nat)
  /-- the answer to a CXL.mem read: bytes and poison (R243) -/
  | line (to' : Port) (bytes : List Byte) (poison : Bool)
  /-- a response of a platform command (R508): command, request, completion code, data -/
  | resp (cmd req code : Nat) (data : List Byte)
  /-- an MCTP control, PLDM or SPDM response -/
  | mctp (type code : Nat) (data : List Byte)
  /-- a PFC frame: MAC, priority, pause or release (R394) -/
  | pfc (mac prio : Nat) (pause : Bool)
  /-- an Uncorrectable Internal Error on an attachment (R536) -/
  | aer (att ld : Nat)
  /-- the link of an attachment signalled down (R483) -/
  | linkDown (att : Nat)
deriving DecidableEq, Repr

/-! ## Fabric -/

/-- The peer of a channel (R385). -/
structure Peer where
  pkg : Nat
  part : Nat
  ch : Nat
deriving DecidableEq, Repr

/-- A DATA frame the package sends (R381, R421). -/
structure TxFrame where
  last : Bool
  packed : Bool
  poison : Bool
  op : Nat
  addr : Nat
  payload : List Byte
deriving DecidableEq, Repr

/-- A sent frame that is not acknowledged (R386, R389): its SEQ, whether it was sent again, expiries of its timer. -/
structure Unacked where
  seq : Nat
  frame : TxFrame
  resent : Bool
  expiries : Nat
deriving DecidableEq, Repr

/-- CLOSED, OPEN or FAILED (R385). -/
inductive ChanState where
  | closed | open' | failed
deriving DecidableEq, Repr

/-- A reset in progress (R392): the peer CH_RESET goes to, the peer of a rebinding, and the partition that held the channel
when the reset began. -/
structure ChanReset where
  to' : Peer
  rebind : Option Peer
  record : Bool
  srcPart : Nat
deriving DecidableEq, Repr

/-- The peer's BASES (R422). -/
structure Bases where
  opcode : Nat
  tag : Nat
  gsize : Nat
  count : Nat
  scratch : Nat
  out : List Nat
deriving DecidableEq, Repr

/-- A digest in progress (R429): the two CRCs, the bytes of an unfinished word, the count of whole words, the length. -/
structure Digest where
  a : Nat
  b : Nat
  rest : List Byte
  words : Nat
  len : Nat
deriving DecidableEq, Repr

/-- One fabric channel (R385 to R392). -/
structure Chan where
  st : ChanState
  peer : Option Peer
  txNext : Nat
  rxNext : Nat
  unacked : List Unacked
  waiting : List TxFrame
  held : List (Nat × TxFrame)
  ackDue : Nat
  rto : Nat
  srtt : Option Nat
  resetNo : Nat
  resetting : Option ChanReset
  answered : List (Peer × Nat)
  user : Option DRef
  /-- BASES frames received and not yet taken by a descriptor, oldest first (R422) -/
  bases : List Bases
  /-- digest of the stream sent for the descriptor that uses the channel (R428) -/
  sent : Digest
  /-- BASES frames still to come that an ended descriptor's peer owes (R422) -/
  stale : Nat
deriving DecidableEq, Repr

/-- One MAC (R377, R394, R402) with its receive counters (R552). -/
structure MacSt where
  up : Bool
  heard : Bool
  isolated : Bool
  paused : List Nat
  /-- frames that wait for a paused priority, oldest first -/
  txq : List (Nat × Out)
  /-- a PFC frame of this MAC holds DATA_PCP paused at the sender (R394) -/
  pfcOn : Bool
  rxOk : W32
  dropSize : W32
  dropFcs : W32
  dropE2e : W32
  dropFilter : W32
  dropBuffer : W32
  pfcSentCount : W32
  pfcReceived : W32
deriving DecidableEq, Repr

/-- A census record queued for resending (R403). -/
structure CensusQ where
  pkg : Nat
  dist : Nat
  macs : Nat
  nonce : Nat
  hops : Nat
  heard : List Nat
deriving DecidableEq, Repr

/-- FAB registers (R400) and start-up (R401 to R405). -/
structure FabSt where
  pkg : Nat
  fabric : Nat
  split : List (Nat × Nat)
  /-- the split modes in use since START -/
  splitUse : List (Nat × Nat)
  pmd : List (Nat × Nat)
  enable : List (Nat × Nat)
  etype : Nat
  vid : Nat
  dataPcp : Nat
  ctrlPcp : Nat
  ptpPcp : Nat
  pfcEn : Bool
  failMs : Nat
  domain : Nat
  priority1 : Nat
  priority2 : Nat
  clockClass : Nat
  logSync : Nat
  logAnnounce : Nat
  hopLimit : Nat
  rate : Nat
  quietS : Nat
  expect : Nat
  limitS : Nat
  jobAddr : Nat
  bindPart : Nat
  step : Nat
  conflict : Bool
  incomplete : Bool
  bindRes : Nat
  started : Bool
  stopped : Bool
  nonce : Option Nat
  censusDone : Bool
  queue : List CensusQ
  /-- 5 s have passed since START (R401) -/
  linkLate : Bool
deriving DecidableEq, Repr

/-! ## Compute -/

/-- A residency record (R99). -/
structure Resident where
  tag : Nat
  tiles : Nat
  split : Nat
  nc : Nat
  nk : Nat
deriving DecidableEq, Repr

/-- One tile vector engine (R124, R126): the 1,024 words of each of T0 to T63, row by row, the 32 rows of 64 bits of each
of K1 to K6, and the row group whose program it runs (R130). An unlisted register or mask reads as zeros. -/
structure VecEngine where
  regs : List (Nat × List Nat)
  masks : List (Nat × List Nat)
  at' : Option (DRef × Nat)
deriving DecidableEq, Repr

/-- The lanes of one update engine (R452): the 512 words of each of V0 to V31, the masters' main words and residues by
lane (an empty list: zeros), chunks applied, and the descriptor and first element whose chunk the lanes hold. -/
structure UpdEngine where
  v : List (Nat × List Nat)
  mh : List Nat
  mr : List Nat
  chunks : W32
  at' : Option (DRef × Nat)
deriving DecidableEq, Repr

/-! ## Hosts -/

/-- A host attachment (R16, R231, R237, R263) and the host memory behind it. -/
structure Attach where
  up : Bool
  /-- the link has not trained without CXL since it last trained with it (R231) -/
  cxl : Bool
  trainedOnce : Bool
  mld : Bool
  aerSent : Bool
  mem : List Host.Cell
  /-- 64-byte lines of that memory the device wrote as poisoned, by line number (R533) -/
  poison : List Nat
deriving DecidableEq, Repr

/-- Fields of a partition table entry (R235). -/
structure PartEntry where
  valid : Bool
  attach : Nat
  ldId : Nat
  mode : Nat
  guard : Bool
  ready : Bool
  error : Nat
  sqMax : Nat
  cqMax : Nat
  clusters : Nat
  hbmBase : Nat
  hbmSize : Nat
  winOffset : Nat
  winSize : Nat
  video : Nat
  jpeg : Nat
  inflate : Nat
  audio : Nat
  chBase : Nat
  chCount : Nat
  /-- bit w: the value written to word w held a non-zero reserved field (R237 check 0x01) -/
  reserved : Nat
deriving DecidableEq, Repr

/-- The life of a partition (R238, R239, R262). -/
inductive PartLife where
  | absent | creating | ready | resetting | destroying
deriving DecidableEq, Repr

/-- The partition register page (R546). -/
structure PartPage where
  jobSeed : Nat
  tdBase : Nat
  ringBase : Nat
  excBase : Nat
  sentryBase : Nat
  bufBase : Nat
  bufState : Nat
  bufIndex : Nat
  bufCause : Nat
  mediaBase : Nat
  seqBase : Nat
  pageBase : Nat
  pageCount : Nat
  culletBase : Nat
  lendMask : Nat
  drowse : Nat
  collQuota : Nat
  snapBase : Nat
  snapLog2 : Nat
  fwuAddr : Nat
  fwuLen : Nat
  fwuState : Nat
  fwuCode : Nat
  reject : Bool
  rejectOffset : Nat
  rejectCause : Nat
  preempt : Nat
  diverge : Nat
deriving DecidableEq, Repr

/-- Page values in use since the last boundary (R72, R213, R416, R547). -/
structure InUse where
  sentryBase : Nat
  lendMask : Nat
  quota : Nat
  snapBase : Nat
  snapLog2 : Nat
deriving DecidableEq, Repr

/-- One MSI-X entry (R259). -/
structure MsixEntry where
  addr : Nat
  data : Nat
  masked : Bool
deriving DecidableEq, Repr

/-- A registered buffer in force (R244). -/
structure RegBuf where
  base : Nat
  len : Nat
  flag : Nat
deriving DecidableEq, Repr

/-- Counts a quantiser adds in one tick (R71, R72). -/
structure SentryAcc where
  elems : Nat
  clipped : Nat
  outliers : Nat
  nonfinite : Nat
deriving DecidableEq, Repr

/-- A bound job (R407). -/
structure Job where
  /-- where its descriptor lies -/
  desc : Nat
  id : Nat
  ranks : Nat
  table : Nat
  epoch : Nat
  period : Nat
  /-- the uncorrectable sector that broke it, if one did (R535) -/
  broken : Option Nat
deriving DecidableEq, Repr

/-! ## Rings and descriptors -/

/-- A fetched descriptor a later one may depend on (R175): number, tag, completion status once effective. -/
structure Hist where
  num : Nat
  tag : Nat
  status : Option Nat
deriving DecidableEq, Repr

/-- A submission ring (R194 to R196, R187, R534). -/
structure SubRing where
  enabled : Bool
  base : Nat
  log2 : Nat
  loc : Nat
  prio : Nat
  borrow : Bool
  homeDie : Nat
  cq : Nat
  fetchMax : Nat
  stopEn : Bool
  stopTag : Nat
  fetched : W32
  produced : W32
  stopNum : Option Nat
  stopNow : Bool
  stopped : Bool
  poisoned : Bool
  /-- cancels that reach descriptors published but not fetched: the cancel's release group, and the number it reaches up to
  (R221, R222) -/
  cancels : List (Nat × Nat)
  hist : List Hist
  /-- tag of the ring's last completion, if there was one (R191) -/
  lastTag : Option Nat
deriving DecidableEq, Repr

/-- A completion entry not yet written (R184, R198): everything but PHASE and TICK. -/
structure Entry where
  ring : Nat
  num : Nat
  tag : Nat
  status : Nat
  exc : Bool
  started : Bool
  ticks : Nat
  overruns : Nat
  detail : Nat
  irq : Bool
  cancel : Bool
  /-- the descriptor is a FLAG wait (R202) -/
  wait : Bool
  /-- a cancel of narrower scope than PARTITION decided it during a hold (R224) -/
  heldCancel : Bool
  /-- the end of a hold has let it go (R223, R224) -/
  go : Bool
  /-- release groups: entries that share one are written in ring order (R222 to R224) -/
  groups : List Nat
deriving DecidableEq, Repr

/-- A completion ring (R194, R198). -/
structure ComRing where
  enabled : Bool
  base : Nat
  log2 : Nat
  loc : Nat
  vector : Nat
  written : W32
  consumed : W32
  waiting : List Entry
deriving DecidableEq, Repr

/-- A tensor descriptor as read (R158, R159). -/
structure TensorDesc where
  format : Nat
  rank : Nat
  blockDim : Nat
  rmode : Bool
  smode : Bool
  sentryEn : Bool
  sentryId : Nat
  id : Nat
  outer : Nat
  ovfCap : Nat
  size : List Nat
  word : List Nat
  reserved : Bool
deriving DecidableEq, Repr

/-- A rate in units per `ns` nanoseconds on `nc` clusters at `f` MHz (R209). -/
structure Rate where
  units : Nat
  ns : Nat
  nc : Nat
  f : Nat
deriving DecidableEq, Repr

/-- A running slice (R207, R208). -/
structure Slice where
  first : Nat
  count : Nat
  clusters : List Nat
  tick : Nat
  start : Nat
  charged : Nat
  f : Nat
  ran : Bool
  /-- the uncorrectable word of on-chip storage it meets: WHERE and cluster (R532) -/
  chip : Option (Nat × Nat)
deriving DecidableEq, Repr

/-- Where a sample stands (R315 to R318, R321). -/
inductive SampleState where
  | waiting | decoding | decoded | hole | committed | abandoned
deriving DecidableEq, Repr

/-- One sample of a MEDIA_SAMPLE (R298, R315 to R319). -/
structure Sample where
  state : SampleState
  engine : Nat
  charge : Nat
  value : Option Decoded
  cause : Nat
  offset : Nat
  /-- its share of the scratch area: offsets and lengths -/
  share : List (Nat × Nat)
deriving DecidableEq, Repr

/-- A partial of a reduction chunk (R417, R424): its FP32 words and its subtree's checksum. -/
structure Partial where
  words : List Nat
  sum : Int
  abs' : Nat
  nonfinite : Nat
  poison : Bool
deriving DecidableEq, Repr

/-- A reduction chunk in progress at this rank: its partial, the next step to add, and children that came early. -/
structure RedChunk where
  val : Partial
  step : Nat
  early : List (Nat × Partial)
  done : Bool
deriving DecidableEq, Repr

/-- One chunk a collective sends (R415, R417, R431, R432, R435): the step (or round), the channel relative to CH_OFF,
whether it is a reduction partial, the chunk's key. -/
structure SendItem where
  step : Nat
  chan : Nat
  red : Bool
  key : Nat
  begun : Bool
  lastSeq : Nat
  acked : Bool
  /-- frames of it were lost to a CH_RESET of the peer: it is never acknowledged (R392, R443) -/
  lost : Bool
deriving DecidableEq, Repr

/-- The state of a started collective (R408 to R437, R465 to R468). Channels are relative to CH_OFF. -/
structure Coll where
  g : Nat
  i : Nat
  elems : Nat
  /-- ranks of the group, and their rank-table entries -/
  ranks : List Nat
  entries : List Nat
  /-- rounds the channels of a PERMUTE are bound for -/
  bound : List (Nat × Nat)
  basesSent : List Nat
  basesGot : List (Nat × Bases)
  recv : List (Nat × Digest)
  ownDone : Bool
  red : List (Nat × RedChunk)
  rxBuf : List (Nat × List Byte)
  sends : List SendItem
  got : List Nat
  /-- leaf digests of working-copy chunks, by key -/
  leaves : List (Nat × List Byte)
  checked : List Nat
  tokensSent : List Nat
  tokensGot : List Nat
  grantsSent : List Nat
  grantsGot : List Nat
  /-- whole chunks in the slots, by round, with their lengths -/
  arrived : List (Nat × Nat)
  moved : List Nat
  suspects : List Nat
  attempts : List (Nat × Nat)
  /-- the binding a working-copy gather serves (R465) -/
  wc : Option Nat
  /-- key of the chunk that has begun to arrive, by channel -/
  cur : List (Nat × Nat)
  progressTick : Nat
  lateReported : Bool
  /-- a TOKEN or GRANT was lost to a CH_RESET of the peer (R392, R443) -/
  lostToken : Bool
deriving DecidableEq, Repr

/-- A checked chunk that waits at an update engine for its turn (R451); without words, its working copy is regenerated
(R474). -/
structure ReadyChunk where
  chunk : Nat
  engine : Nat
  turn : Nat
  words : List Nat
deriving DecidableEq, Repr

/-- The state of a REDUCE_SCATTER with UPDATE 1 at its owner (R450, R451, R474). -/
structure UpdRun where
  bind : Nat
  scalars : List Nat
  deltas : List Nat
  ready : List ReadyChunk
  doneChunks : List Nat
  failed : Bool
deriving DecidableEq, Repr

/-- A resolved dependency (R175): the number it resolves to, its tag, its status once completed. -/
structure Dep where
  num : Nat
  tag : Nat
  status : Option Nat
deriving DecidableEq, Repr

/-- How far a descriptor has come (R173, R174, R199). -/
inductive Phase where
  | waiting | admitted | running | ended | done
deriving DecidableEq, Repr

/-- A descriptor in flight (R154 to R192, R204). -/
structure Desc where
  ring : Nat
  num : Nat
  raw : List Byte
  seed : Nat
  mode : Nat
  phase : Phase
  deps : List Dep
  order : Nat
  tds : List (Nat × TensorDesc)
  prog : List Nat
  list : List Byte
  units : Nat
  doneUnits : Nat
  slice : Option Slice
  rate : Option Rate
  slack : Bool
  startTick : Nat
  overruns : Nat
  started : Bool
  exc : Bool
  status : Option Nat
  detail : Nat
  cancel : Bool
  /-- the tick in which it completed (R184) -/
  endTick : Nat
  /-- a cancel of narrower scope than PARTITION decided it during a hold (R224) -/
  heldCancel : Bool
  /-- the end of a hold has let its entry go (R223, R224) -/
  go : Bool
  /-- release groups: the cancels that decided it, and the end of the hold that withheld its entry (R222 to R224) -/
  groups : List Nat
  /-- WHERE and cluster of the uncorrectable word of on-chip storage that decided it (R525) -/
  chip : Option (Nat × Nat)
  /-- the tick in which MEMORY_UNCORRECTABLE was decided, once that tick is over; sectors that its reads newly poisoned (R530) -/
  memTick : Option Nat
  memSectors : Nat
  /-- the overflowing blocks an XC16_ENCODE found first (R119) -/
  xcOver : List Nat
  samples : List Sample
  seqStat : List (Nat × Nat)
  coll : Option Coll
  upd : Option UpdRun
deriving DecidableEq, Repr

/-- A video stream context (R294 to R297). -/
structure Stream where
  codec : Nat
  engine : Nat
  maxW : Nat
  maxH : Nat
  ctx : Nat
  ctxLen : Nat
  holder : Option (DRef × Nat)
  /-- the parameter data it was opened with -/
  hdr : List Byte
deriving DecidableEq, Repr

/-- A binding (R445, R446) and its own copies. -/
structure Binding where
  gradId : Nat
  block : Bool
  masterSr : Bool
  engine : Nat
  prog : List Nat
  scalarsAt : Nat
  tree : Nat
  master : TensorDesc
  wc : TensorDesc
  wcPtr : Nat
  states : List TensorDesc
  prevSentry : Option (List Nat)
  holder : Option DRef
  /-- the uncorrectable sector that broke it, if one did (R535) -/
  broken : Option Nat
deriving DecidableEq, Repr

/-- A sequence that waits for pages (R370, R371). -/
structure SeqWait where
  seq : Nat
  need : Nat
  ref : DRef
  layer : Nat
  index : Nat
  /-- pages in the pool that its victims gave for it (R371) -/
  kept : Nat
deriving DecidableEq, Repr

/-- A swap in progress (R372): the sequence, the grower whose need chose it, and the descriptors whose running slices still hold
units of it. -/
structure Swap where
  seq : Nat
  grower : Nat
  running : List DRef
deriving DecidableEq, Repr

/-- A cluster lent for the tick (R216). -/
structure Lent where
  cluster : Nat
  ring : Nat
  num : Nat
deriving DecidableEq, Repr

/-- The status mirror's own counts (R202). -/
structure Mirror where
  overrunTicks : W64
  doorbellReject : W32
  reloadReject : W32
  hold : Bool
  /-- how the hold is ending: 0 not, 1 by RESUME, 2 by a cancel of scope PARTITION (R223, R224) -/
  ending : Nat
  /-- release group of the hold's end -/
  endGroup : Nat
  waitCycles : W32
  trapSeq : Nat
  trapRecord : List Byte
  snapshot : List Byte
  frozenSnap : List Byte
  history : List Byte
deriving DecidableEq, Repr

/-- One partition. -/
structure Part where
  ent : PartEntry
  life : PartLife
  page : PartPage
  use : InUse
  hdm : Option Nat
  msix : List (Nat × MsixEntry)
  pba : List Nat
  bufs : List (Nat × RegBuf)
  excLog2 : Nat
  excVector : Nat
  excCount : Nat
  mirror : Mirror
  sq : List (Nat × SubRing)
  cq : List (Nat × ComRing)
  descs : List Desc
  nextOrder : Nat
  /-- number of the next release group (R222 to R224) -/
  nextGroup : Nat
  rates : List (Nat × Rate)
  lent : List Lent
  reported : List (Nat × Nat)
  streams : List (Nat × Stream)
  binds : List (Nat × Binding)
  seqWaits : List SeqWait
  swaps : List Swap
  /-- page-table entries that were valid when a sequence was swapped out, by sequence -/
  swapped : List (Nat × List Nat)
  sentry : List (Nat × SentryAcc)
  job : Option Job
  chunksBegun : Nat
  chunksReceived : Nat
  integrity : W32
  late : W32
  idle : List (Nat × Nat)
  haltAtBoundary : Bool
  flrWait : Bool
deriving DecidableEq, Repr

/-- What the retention SRAM holds from an entry on (R484, R485): the registers of the image, the lane assignments of the stack
controllers, the number of the free training results, the CRC-64 in the header. -/
structure RetImage where
  target : Nat
  scratch : List (Nat × Nat)
  entries : List (Nat × PartEntry)
  pages : List (Nat × PartPage)
  period : Nat
  scrubHours : Nat
  scrubEn : Bool
  retireReq : List (Nat × Nat)
  links : List (Nat × DieLink)
  media : MediaRegs
  fab : FabSt
  collInject : Inject
  updInject : Inject
  gov : List Nat
  requireSession : Bool
  updatePart : Nat
  wdtPeriod : Nat
  meas : List (List Byte)
  spares : List (Nat × Nat)
  spared : List (Nat × Nat)
  gen : Nat
  crc : Nat
deriving DecidableEq, Repr

/-! ## The state -/

/-- Everything the spec gives the package, and the queue of waiting commands. -/
structure State where
  fuse : Fuse
  now : Nat
  tick : TickSt
  ptp : PtpSt
  rec' : Recorder
  mgmt : MgmtSt
  sec : SecSt
  pwr : PwrSt
  pins : PinSt
  links : List (Nat × DieLink)
  scratch : List (Nat × Nat)
  media : MediaRegs
  collInject : Inject
  updInject : Inject
  memc : MemcSt
  mem : List Host.Cell
  poison : List Nat
  fab : FabSt
  macs : List (Nat × MacSt)
  chans : List (Nat × Chan)
  /-- tiles of 1,024 W48 words by (cluster × 128 + core) × 32 + slot, where a rule gives their contents -/
  acc : List (Nat × List Nat)
  /-- by cluster × 32 + slot: 0, and unlisted tiles are zero, or the number of their free contents -/
  accGen : List (Nat × Nat)
  res : List (Nat × Resident)
  /-- by cluster: 0, and the buffer is zero, or the number of its free contents -/
  clbuf : List (Nat × Nat)
  /-- the same for the cluster's operand buffers (R103) -/
  opbuf : List (Nat × Nat)
  /-- single-bit errors corrected in on-chip SRAM, by WHERE code (R110, R532) -/
  chipFixed : List (Nat × Nat)
  vec : List (Nat × VecEngine)
  upd : List (Nat × UpdEngine)
  atts : List (Nat × Attach)
  parts : List (Nat × Part)
  served : List (Nat × Nat)
  image : Option RetImage
  halted : Bool
  fresh : Nat
  out : List Out
  pending : List Instr
deriving DecidableEq, Repr

/-- Why the machine stops with a fault. The model raises none: every fault of the spec is a status, a record or a
state (R524, R529, R536). The one constructor stands for a state that no command reaches; nobody raises it (safe). -/
inductive Fault where
  /-- nobody raises it -/
  | none'
deriving DecidableEq, Repr

/-- Why a command has no meaning. -/
inductive Refusal where
  /-- raised by an arm of `exec` that has no meaning yet (safe) -/
  | notModelled (mnemonic : String)
  /-- raised by DBG accesses while debug is enabled: the DBG block is not described (R539) (safe) -/
  | debugBlock
deriving DecidableEq, Repr

/-! ## Reset -/

/-- An absent lane of values for tables: what an unlisted key reads as. -/
def StackSt.dflt : StackSt := ⟨0, 0, 0, 0, 0, 0, false, 0⟩
def LaneSt.dflt : LaneSt := ⟨0, false, false⟩
def DieLink.dflt : DieLink := ⟨false, false, 0⟩
def VecEngine.dflt : VecEngine := ⟨[], [], none⟩
def UpdEngine.dflt : UpdEngine := ⟨[], [], [], 0, none⟩
def MacSt.dflt : MacSt := ⟨false, false, false, [], [], false, 0, 0, 0, 0, 0, 0, 0, 0⟩
/-- A CLOSED channel; RTO starts at 100 µs (R389). -/
def Chan.dflt : Chan := ⟨.closed, none, 0, 0, [], [], [], 0, 100000, none, 0, none, [], none, [], ⟨0, 0, [], 0, 0⟩, 0⟩
/-- An attachment before its link has trained; it counts as behind a switch (R237). -/
def Attach.dflt : Attach := ⟨false, true, false, true, false, [], []⟩
/-- A vector after creation: masked (R238). -/
def MsixEntry.dflt : MsixEntry := ⟨0, 0, true⟩
def SentryAcc.dflt : SentryAcc := ⟨0, 0, 0, 0⟩
def SubRing.dflt : SubRing :=
  ⟨false, 0, 0, 0, 0, false, 0, 0, 0, false, 0, 0, 0, none, false, false, false, [], [], none⟩
def ComRing.dflt : ComRing := ⟨false, 0, 0, 0, 0, 0, 0, []⟩
/-- Every field of an entry is 0 at reset (R235). -/
def PartEntry.dflt : PartEntry :=
  ⟨false, 0, 0, 0, false, false, 0, 0, 0, 0, 0, 0, 0, 0, 0, 0, 0, 0, 0, 0, 0⟩
/-- Every page register is 0 at reset (R546). -/
def PartPage.dflt : PartPage :=
  ⟨0, 0, 0, 0, 0, 0, 0, 0, 0, 0, 0, 0, 0, 0, 0, 0, 0, 0, 0, 0, 0, 0, 0, false, 0, 0, 0, 0⟩
def InUse.dflt : InUse := ⟨0, 0, 0, 0, 0⟩
def Mirror.dflt : Mirror := ⟨0, 0, 0, false, 0, 0, 0, 0, [], [], [], []⟩
/-- A partition that does not exist. -/
def Part.dflt : Part :=
  ⟨PartEntry.dflt, .absent, PartPage.dflt, InUse.dflt, none, [], [], [], 0, 0, 0, Mirror.dflt, [], [], [], 0, 0, [],
   [], [], [], [], [], [], [], [], none, 0, 0, 0, 0, [], false, false⟩

/-- Reset values of the TICK block (R24, R30, R551). -/
def TickSt.reset : TickSt :=
  ⟨1000, 1000, 0, 0, 0, .unlocked, false, false, false, 0, none, 0, none, true, none⟩
def PtpSt.reset : PtpSt := ⟨0, false, none, none, [], [], 0, none, 0, 0, 0⟩
/-- The recorder at first power: no record (DESIGN CHOICE, log entry 4). -/
def Recorder.reset : Recorder := ⟨[], 0, false, 0, 0, 0, 0⟩
/-- Reset values of R522; the boot ROM runs at reset release (R562). Flash, EID and versions are DESIGN CHOICE (log
entry 4). -/
def MgmtSt.reset : MgmtSt :=
  { boot := .booting, rootSlot := 0, version := 0, svn := 0, pendingVersion := none, wdtPeriod := 1000, lastKick := 0, expiries := 0,
    expiryTimes := [], requireSession := true, updatePart := 0xF, dbgEn := false, dbgLocked := false, nonce := none,
    meas := List.replicate 8 (List.replicate 64 0), eid := 0, dynAddr := none, tableSeen := false, fwu := none, loadPending := true,
    flash := [], flashBad := false, retireRecord := List.replicate 20 0, recordLost := 0, respWait := [], badAccess := [] }
def SecSt.reset : SecSt := ⟨[], [], [], []⟩
/-- Reset values of R495; after reset f is FMIN_MHZ and reason POWER (R493). -/
def PwrSt.reset (limit : Nat) : PwrSt :=
  { target := 0, state := 0, busy := false, refuse := 0, wakeCause := 0, padHeld := 0, fmin := 800, fmax := 1800,
    limit := limit, tjThrottle := 100, stackThrottle := 95, tjCrit := 115, tjWake := 90, fMhz := 800, reason := 1,
    pW := 0, tj := 0, ts := 0, wakeAddr := 0x4C, i3cEn := true, thermEn := true, tjTick := 0, tsTick := 0,
    sensors := [], entering := none, exiting := false, clocksStopped := false, wakeLatched := 0, drowsed := [],
    waking := [] }
def PinSt.reset : PinSt := ⟨false, false, false, false, false, false, false⟩
def MediaRegs.reset : MediaRegs := ⟨0, 0, 0, 0, [0, 0, 0, 0, 0]⟩
def Inject.reset : Inject := ⟨0, false, 0⟩
/-- Reset values of R289. -/
def MemcSt.reset : MemcSt := ⟨false, false, false, false, [], 0x18, true, [], [], [], [], []⟩
/-- Reset values of R400. -/
def FabSt.reset : FabSt :=
  { pkg := 0, fabric := 0, split := [], splitUse := [], pmd := [], enable := [], etype := 0x88B5, vid := 0, dataPcp := 3, ctrlPcp := 6,
    ptpPcp := 7, pfcEn := false, failMs := 0x64, domain := 0, priority1 := 0x80, priority2 := 0x80, clockClass := 0xF8,
    logSync := 9, logAnnounce := 0xD, hopLimit := 3, rate := 0x40, quietS := 8, expect := 0, limitS := 0x78,
    jobAddr := 0, bindPart := 0, step := 0, conflict := false, incomplete := false, bindRes := 0,
    started := false, stopped := false, nonce := none, censusDone := false, queue := [], linkLate := false }
/-- The model's fused values (DESIGN CHOICE, log entry 4): grade A and zeros. -/
def Fuse.reset : Fuse := ⟨false, 0, 0, 0, List.replicate 4 (List.replicate 64 0), 0, 0, [0, 0, 0, 0]⟩

/-- The package right after reset: every register at the value the spec gives, the others as log entries 4 and 5 say;
nothing queued. -/
def State.reset : State :=
  { fuse := Fuse.reset, now := 0, tick := TickSt.reset, ptp := PtpSt.reset, rec' := Recorder.reset,
    mgmt := MgmtSt.reset, sec := SecSt.reset, pwr := PwrSt.reset 3600, pins := PinSt.reset, links := [], scratch := [],
    media := MediaRegs.reset, collInject := Inject.reset, updInject := Inject.reset, memc := MemcSt.reset, mem := [],
    poison := [], fab := FabSt.reset, macs := [], chans := [], acc := [], accGen := [], res := [], clbuf := [], opbuf := [], chipFixed := [], vec := [], upd := [],
    atts := [], parts := [], served := [], image := none, halted := false, fresh := 0, out := [], pending := [] }

end Sys2Proof.Machine
end

