-- ==== Sys2Proof/Machine/Ops.lean ====
section
/-!
DEFINITION. The named operations over tables, memory, partitions and descriptors that every meaning uses.
-/

namespace Sys2Proof.Machine

/-! ## Tables -/

/-- The first entry of key `k`. -/
def tlook {α : Type} : List (Nat × α) → Nat → Option α
  | [], _ => none
  | (j, v) :: t, k => if j = k then some v else tlook t k

/-- What key `k` reads as; `d` where nothing is listed. -/
def tget {α : Type} (d : α) (l : List (Nat × α)) (k : Nat) : α := (tlook l k).getD d

/-- Put an entry at its place in a rising list. -/
def tput {α : Type} : List (Nat × α) → Nat → α → List (Nat × α)
  | [], k, v => [(k, v)]
  | (j, w) :: t, k, v =>
    if j < k then (j, w) :: tput t k v
    else if j = k then (k, v) :: t
    else (k, v) :: (j, w) :: t

/-- Take the entries of key `k` out. -/
def tdel {α : Type} (l : List (Nat × α)) (k : Nat) : List (Nat × α) := l.filter fun e => e.1 != k

/-- Write `v` at `k`; writing what an unlisted key reads as takes the entry out. -/
def tset {α : Type} [DecidableEq α] (d : α) (l : List (Nat × α)) (k : Nat) (v : α) : List (Nat × α) :=
  if v = d then tdel l k else tput l k v

/-- Apply `f` to every entry's value. -/
def tmap {α : Type} (f : Nat → α → α) (l : List (Nat × α)) : List (Nat × α) := l.map fun e => (e.1, f e.1 e.2)

/-- The keys strictly rise from `lo` on. -/
def keysRise {α : Type} : Nat → List (Nat × α) → Bool
  | _, [] => true
  | lo, (k, _) :: t => decide (lo ≤ k) && keysRise (k + 1) t

/-- The canonical form: keys strictly rising, no entry equal to `d`. -/
def twf {α : Type} [DecidableEq α] (d : α) (l : List (Nat × α)) : Bool :=
  keysRise 0 l && l.all fun e => decide (e.2 ≠ d)

/-- Insert into a strictly rising list of numbers. -/
def sinsert : List Nat → Nat → List Nat
  | [], k => [k]
  | j :: t, k => if j < k then j :: sinsert t k else if j = k then j :: t else k :: j :: t

/-- Take a number out. -/
def serase (l : List Nat) (k : Nat) : List Nat := l.filter fun j => j != k

/-- The numbers strictly rise from `lo` on. -/
def srise : Nat → List Nat → Bool
  | _, [] => true
  | lo, k :: t => decide (lo ≤ k) && srise (k + 1) t

/-- `f` applied along a list, the state passed on. -/
def foldS {σ α : Type} (f : σ → α → σ) (s : σ) : List α → σ
  | [] => s
  | a :: t => foldS f (f s a) t

/-- The numbers below `n` whose bit in a mask is set. -/
def bitsOf (n mask : Nat) : List Nat := (List.range n).filter fun i => bitOf mask i

/-- A mask with bit `i` set. -/
def setBit (mask i : Nat) : Nat := if bitOf mask i then mask else mask + 2 ^ i

/-- A mask with bit `i` clear. -/
def clearBit (mask i : Nat) : Nat := if bitOf mask i then mask - 2 ^ i else mask

/-- The mask of a list of bit numbers. -/
def maskOf (l : List Nat) : Nat := foldS setBit 0 l

/-- How many bits below `n` are set. -/
def countBits (n mask : Nat) : Nat := (bitsOf n mask).length

/-! ## Numbers of the package (R2, R15) -/

def GiB : Nat := 2 ^ 30

/-- Cluster `c` is present (R2). -/
def State.clusterPresent (s : State) (c : Nat) : Bool := decide (c < 80) && (!s.fuse.gradeB || decide (c % 20 < 18))

/-- Video decode engine `v` is present (R2). -/
def State.videoPresent (s : State) (v : Nat) : Bool := decide (v < 64) && (!s.fuse.gradeB || decide (v % 16 < 12))

/-- The package power limit of the grade (R1). -/
def State.gradeLimit (s : State) : Nat := if s.fuse.gradeB then 3200 else 3600

/-! ## The local address map (R268 to R273) -/

/-- First and last-but-one address of the device reserve (R6). -/
def reserveBase : Nat := 0x1D800000000
def reserveEnd : Nat := 0x1E000000000

/-- Set-up register space (R268). -/
def regBase : Nat := 0xF0000000000

/-- N, the healthy channels of the package (R268). -/
def State.nHealthy (s : State) : Nat := s.memc.healthy.length

/-- First byte of the hole, or of the reserve when N is 640 (R270). -/
def State.assignEnd (s : State) : Nat := 3 * GiB * s.nHealthy - 32 * GiB

/-- The healthy channels of one stack, rising. -/
def State.healthyOf (s : State) (st : Nat) : List Nat := (List.range 32).filter fun ch => s.memc.healthy.contains (st, ch)

/-- Memory serves: the map is valid and no stack is shut down; with one shut down the whole package stops serving memory, and
what the stack held is lost (R288, R503, R509). -/
def State.memServes (s : State) : Bool := s.memc.trained && !s.memc.stackTab.any fun (e : Nat × StackSt) => e.2.down

/-- The offset D of an interleaved address (R270). -/
def State.interOffset (s : State) (a : Nat) : Option Nat :=
  if s.memServes = false then none
  else if a < s.assignEnd then some a
  else if reserveBase ≤ a ∧ a < reserveEnd then some (s.assignEnd + (a - reserveBase))
  else none

/-- The interleaved address of offset D. -/
def State.interAddr (s : State) (d : Nat) : Nat :=
  if d < s.assignEnd then d else reserveBase + (d - s.assignEnd)

/-- Stack, channel of an offset D (R270). -/
def State.channelOf (s : State) (d : Nat) : Nat × Nat :=
  let n := s.nHealthy
  let g := d / 256
  s.memc.healthy.getD ((g % n + 7 * (g / n)) % n) (0, 0)

/-- Index of a channel in healthy[]. -/
def State.healthyIndex (s : State) (c : Nat × Nat) : Nat := s.memc.healthy.findIdx (· == c)

/-- The interleaved address that names the same byte as offset `o` of the direct view of stack `st` (R273). -/
def State.directToInter (s : State) (st o : Nat) : Option Nat :=
  let hs := s.healthyOf st
  let ns := hs.length
  let n := s.nHealthy
  if s.memServes = false ∨ o ≥ ns * (3 * GiB) ∨ ns = 0 then none
  else
    let h := o / 256
    let stripe := h / ns
    let k := s.healthyIndex (st, hs.getD (h % ns) 0)
    -- the granule of the stripe that R270 places on healthy[k]
    let r := (k + 7 * stripe * (n - 1)) % n
    some (s.interAddr ((stripe * n + r) * 256 + o % 256))

/-- Where a local address is stored: its interleaved address, or none where the map has a hole or nothing (R268). -/
def State.place (s : State) (a : Nat) : Option Nat :=
  if a < reserveEnd then (s.interOffset a).map s.interAddr
  else if 0x40000000000 ≤ a ∧ a < 0x68000000000 then
    s.directToInter ((a - 0x40000000000) / 0x2000000000) ((a - 0x40000000000) % 0x2000000000)
  else none

/-! ## Stacked memory: bytes and poison (R266, R269, R282, R283) -/

/-- The byte a local address reads as. An unmapped address reads 0 and poisoned (R269). -/
def State.rd (s : State) (a : Nat) : Byte :=
  match s.place a with
  | some p => tget 0 s.mem p
  | none => 0

/-- The `n` bytes from `a` on. -/
def State.rdBytes (s : State) (a : Nat) : Nat → List Byte
  | 0 => []
  | n + 1 => s.rd a :: s.rdBytes (a + 1) n

/-- The little-endian number of `n` bytes (R8). -/
def State.rdN (s : State) (a n : Nat) : Nat := leNat (s.rdBytes a n)

/-- The sector of an address is poisoned, or the address is unmapped (R269, R282). -/
def State.isPoison (s : State) (a : Nat) : Bool :=
  match s.place a with
  | some p => s.poison.contains (p / 64)
  | none => true

/-- The 64-byte line addresses a range of `n` bytes touches. -/
def linesOf (a n : Nat) : List Nat :=
  if n = 0 then [] else (List.range ((a + n - 1) / 64 - a / 64 + 1)).map fun i => (a / 64 + i) * 64

/-- The first poisoned line of a range, as addressed (R282). -/
def State.poisonIn (s : State) (a n : Nat) : Option Nat := (linesOf a n).find? s.isPoison

/-- Store one byte; a write to an unmapped address is discarded (R269). -/
def State.wr (s : State) (a : Nat) (b : Byte) : State :=
  match s.place a with
  | some p => { s with mem := tset 0 s.mem p b }
  | none => s

/-- Store bytes one by one, POISON untouched. -/
def State.wrRaw (s : State) (a : Nat) : List Byte → State
  | [] => s
  | b :: bs => (s.wr a b).wrRaw (a + 1) bs

/-- Clear POISON of the sector at a line address. -/
def State.unpoison (s : State) (a : Nat) : State :=
  match s.place a with
  | some p => { s with poison := serase s.poison (p / 64) }
  | none => s

/-- Set POISON of the sector at an address. -/
def State.setPoison (s : State) (a : Nat) : State :=
  match s.place a with
  | some p => { s with poison := sinsert s.poison (p / 64) }
  | none => s

/-- The lines a range covers whole. -/
def wholeLines (a n : Nat) : List Nat := (linesOf a n).filter fun l => decide (a ≤ l ∧ l + 64 ≤ a + n)

/-- Store a run of bytes. A sector written whole loses its poison; a part of a poisoned sector leaves it (R283). -/
def State.wrBytes (s : State) (a : Nat) (bs : List Byte) : State :=
  foldS State.unpoison (s.wrRaw a bs) (wholeLines a bs.length)

/-- The first poisoned line that a write of `n` bytes touches in part (R283): an access to a poisoned line. -/
def State.poisonPart (s : State) (a n : Nat) : Option Nat :=
  (linesOf a n).find? fun l => s.isPoison l && !decide (a ≤ l ∧ l + 64 ≤ a + n)

/-- Store the `n` little-endian bytes of a number. -/
def State.wrN (s : State) (a n x : Nat) : State := s.wrBytes a (leBytes n x)

/-- Write zero over the interleaved range [lo, lo + n) and clear its poison (R238). -/
def State.zeroRange (s : State) (lo n : Nat) : State :=
  { s with
    mem := s.mem.filter fun e => !decide (lo ≤ e.1 ∧ e.1 < lo + n)
    poison := s.poison.filter fun q => !decide (lo ≤ q * 64 ∧ q * 64 < lo + n) }

/-! ## Host memory (rings with LOC 1) -/

def State.att (s : State) (a : Nat) : Attach := tget Attach.dflt s.atts a
def State.setAtt (s : State) (a : Nat) (v : Attach) : State := { s with atts := tset Attach.dflt s.atts a v }

/-- An attachment carries traffic: its link is up, and trained with CXL (R231, R263). -/
def State.linked (s : State) (att : Nat) : Bool := (s.att att).up && (s.att att).cxl

def cellsRead (m : List Host.Cell) (a : Nat) : Nat → List Byte
  | 0 => []
  | n + 1 => tget 0 m a :: cellsRead m (a + 1) n

def cellsWrite (m : List Host.Cell) (a : Nat) : List Byte → List Host.Cell
  | [] => m
  | b :: bs => cellsWrite (tset 0 m a b) (a + 1) bs

/-- Bytes of the host memory behind attachment `att`. -/
def State.hostRd (s : State) (att a n : Nat) : List Byte := cellsRead (s.att att).mem a n

/-- Write host memory behind attachment `att`; a line written whole is no longer poisoned. -/
def State.hostWr (s : State) (att a : Nat) (bs : List Byte) : State :=
  s.setAtt att { s.att att with
    mem := cellsWrite (s.att att).mem a bs
    poison := foldS (fun l x => serase l (x / 64)) (s.att att).poison (wholeLines a bs.length) }

/-- Poison the line of host memory at an address. -/
def State.hostPoison (s : State) (att a : Nat) : State :=
  s.setAtt att { s.att att with poison := sinsert (s.att att).poison (a / 64) }

/-- The first poisoned line of a range of host memory. -/
def State.hostPoisonIn (s : State) (att a n : Nat) : Option Nat :=
  (linesOf a n).find? fun l => (s.att att).poison.contains (l / 64)

/-- What a host has stored in its own memory: runs of bytes. -/
def State.hostStore (s : State) (att : Nat) (l : List (Nat × List Byte)) : State :=
  foldS (fun (t : State) e => t.hostWr att e.1 e.2) s l

/-- Log an access of the device or of management firmware to a hole or an unmapped address (R269). -/
def State.noteAccess (s : State) (a n : Nat) (write : Bool) : State :=
  match (linesOf a n).find? fun l => (s.place l).isNone with
  | some l => { s with mgmt := { s.mgmt with badAccess := s.mgmt.badAccess ++ [(l, write)] } }
  | none => s

/-! ## Partitions, rings, descriptors -/

def State.part (s : State) (p : Nat) : Part := tget Part.dflt s.parts p
def State.setPart (s : State) (p : Nat) (v : Part) : State := { s with parts := tset Part.dflt s.parts p v }
def State.updPart (s : State) (p : Nat) (f : Part → Part) : State := s.setPart p (f (s.part p))

def Part.subRing (p : Part) (n : Nat) : SubRing := tget SubRing.dflt p.sq n
def Part.setSub (p : Part) (n : Nat) (r : SubRing) : Part := { p with sq := tset SubRing.dflt p.sq n r }
def Part.comRing (p : Part) (m : Nat) : ComRing := tget ComRing.dflt p.cq m
def Part.setCom (p : Part) (m : Nat) (r : ComRing) : Part := { p with cq := tset ComRing.dflt p.cq m r }

/-- The descriptor in flight a reference names. -/
def State.desc (s : State) (r : DRef) : Option Desc :=
  (s.part r.part).descs.find? fun d => d.ring == r.ring && d.num == r.num

/-- Change the descriptor a reference names. -/
def State.updDesc (s : State) (r : DRef) (f : Desc → Desc) : State :=
  s.updPart r.part fun p => { p with descs := p.descs.map fun d => if d.ring == r.ring && d.num == r.num then f d else d }

/-- The little-endian number of `n` bytes of a descriptor at offset `o` (R154). -/
def Desc.at' (d : Desc) (o n : Nat) : Nat := leNat (sliceList d.raw o n)
/-- A 32-bit word of a descriptor. -/
def Desc.w32 (d : Desc) (o : Nat) : Nat := d.at' o 4
/-- A 64-bit word of a descriptor. -/
def Desc.w64 (d : Desc) (o : Nat) : Nat := d.at' o 8
/-- A 44-bit address field of a descriptor. -/
def Desc.addr (d : Desc) (o : Nat) : Nat := d.w64 o % 2 ^ 44
/-- A byte of a descriptor. -/
def Desc.w8 (d : Desc) (o : Nat) : Nat := d.at' o 1
def Desc.opcode (d : Desc) : Nat := d.at' 0 2
def Desc.irq (d : Desc) : Bool := bitOf (d.w32 0) 20
def Desc.tag (d : Desc) : Nat := d.w32 4
def Desc.step (d : Desc) : Nat := d.w32 8
def Desc.budget (d : Desc) : Nat := d.at' 0xC 2
def Desc.clusterMask (d : Desc) : Nat := d.at' 0x10 10
/-- The clusters of the set, rising (R154). -/
def Desc.clusters (d : Desc) : List Nat := bitsOf 80 d.clusterMask
/-- The reference of a descriptor of partition `p`. -/
def Desc.ref (d : Desc) (p : Nat) : DRef := ⟨p, d.ring, d.num⟩

/-- No tensor (R162). -/
def noTensor : Nat := 0xFFFFFFFF

/-- The tensor descriptor read for a pointer (R163). -/
def Desc.td (d : Desc) (ptr : Nat) : Option TensorDesc := tlook d.tds ptr

/-- The tick's number. -/
def State.tickNo (s : State) : Nat := s.tick.count

/-- The local address of an offset of a partition's window (R241). -/
def Part.winAddr (p : Part) (off : Nat) : Nat := p.ent.hbmBase + p.ent.winOffset + off

/-- The clusters of a partition, rising. -/
def Part.clusterList (p : Part) : List Nat := bitsOf 80 p.ent.clusters

/-- The vector engines and update engines that worked for a descriptor no longer do: a later row group or chunk starts anew
(R130, R452). -/
def State.freeEngines (s : State) (gone : DRef → Bool) : State :=
  let left (o : Option (DRef × Nat)) : Option (DRef × Nat) := match o with
    | some e => if gone e.1 then none else some e
    | none => none
  { s with
    vec := foldS (fun l e => tset VecEngine.dflt l e.1 { e.2 with at' := left e.2.at' }) s.vec s.vec
    upd := foldS (fun l e => tset UpdEngine.dflt l e.1 { e.2 with at' := left e.2.at' }) s.upd s.upd }

/-- The chunks that wait at update engine `u`, of all partitions (R451). -/
def State.engineChunks (s : State) (u : Nat) : List ReadyChunk :=
  s.parts.flatMap fun (e : Nat × Part) => e.2.descs.flatMap fun (d : Desc) => match d.upd with
    | some x => x.ready.filter fun (y : ReadyChunk) => y.engine == u
    | none => []

/-- The turn of a chunk that arrives at update engine `u` now: after all that wait there (R451). -/
def State.nextTurn (s : State) (u : Nat) : Nat := (s.engineChunks u).foldl (fun n x => max n x.turn) 0 + 1

/-- A waiting chunk is the earliest arrived of its engine (R451). -/
def State.firstAtEngine (s : State) (x : ReadyChunk) : Bool := (s.engineChunks x.engine).all fun y => x.turn ≤ y.turn

/-- Update engine `u` is present: its stack has a healthy channel (R279). -/
def State.updPresent (s : State) (u : Nat) : Bool := decide (u < 20) && !(s.healthyOf u).isEmpty

/-- The engine that chunk `k` of a binding goes to (R451). -/
def State.engineFor (s : State) (b : Binding) (id k : Nat) : Nat :=
  if b.engine ≠ 0x1F then b.engine
  else
    let l := (List.range 20).filter s.updPresent
    l.getD ((k + id) % max 1 l.length) 0

/-! ## Free values and what leaves the package -/

/-- A fresh free value (log entry 6) and the state that has drawn it. -/
def State.free (s : State) : Nat × State := (Config.freeValue s.fresh, { s with fresh := s.fresh + 1 })

/-- The domains other than PD00 run: the package is in RUN, neither entering another state nor still leaving one, and they are not
held in reset (R477, R483, R562, R569, R570). -/
def State.powered (s : State) : Bool :=
  s.pwr.state == 0 && s.pwr.entering.isNone && !s.pwr.exiting && !s.pins.heldInReset && !s.pins.aonReset

/-- Management firmware runs: PD00 is clocked and the boot ROM has started the management stage (R488, R498, R499, R513, R514). -/
def State.firmware (s : State) : Bool := !s.pwr.clocksStopped && (s.mgmt.boot == .loading || s.mgmt.boot == .running)

/-- Management firmware runs and reaches the set-up blocks of the domains other than PD00 (R498, R570). -/
def State.setsUp (s : State) : Bool := s.firmware && s.powered

/-- Something leaves the package. -/
def State.emit (s : State) (o : Out) : State := { s with out := s.out ++ [o] }

end Sys2Proof.Machine
end

