-- ==== Sys2Proof/Machine/Flags.lean ====
section
/-!
DEFINITION. Statuses, records and signals: the completion statuses, the event recorder, the exception ring, interrupt
vectors, the seed trap, and what a completion does.
-/

namespace Sys2Proof.Machine

/-! ## Completion statuses (R524) -/

def stOk : Nat := 0x00
def stEngineAbsent : Nat := 0x01
def stDepFailed : Nat := 0x02
def stEmptyOutput : Nat := 0x03
def stNanTrap : Nat := 0x04
def stPreempted : Nat := 0x05
def stDimClaim : Nat := 0x06
def stDecodeHole : Nat := 0x07
def stBadDescriptor : Nat := 0x08
def stCancelled : Nat := 0x09
def stIntegrity : Nat := 0x0A
def stDivergence : Nat := 0x0B
def stMemory : Nat := 0x0C
def stOwnership : Nat := 0x0D
def stOverrun : Nat := 0x0E
def stSeqLimit : Nat := 0x0F

/-- The success class (R177). -/
def isSuccess (st : Nat) : Bool := st == stOk || st == stEmptyOutput || st == stDecodeHole || st == stOverrun

/-- DETAIL of BAD_DESCRIPTOR (R185): check code, operand, list entry. -/
def badDetail (code operand entry : Nat) : Nat := code + operand * 256 + entry * 65536

/-- DETAIL of BAD_DESCRIPTOR without an operand or a list entry. -/
def badCode (code : Nat) : Nat := badDetail code 0xFF 0x7FF

/-- DETAIL of ENGINE_ABSENT (R185): unit number and kind. -/
def absentDetail (unit kind : Nat) : Nat := unit + kind * 65536

/-- Decide a status for a running descriptor: the first decision stands (R219). What one slice or one chunk of work decides
is taken as decided in one clock, MEMORY_UNCORRECTABLE before NAN_TRAP (DESIGN CHOICE, log entry 41). -/
def Desc.decide' (d : Desc) (st detail : Nat) : Desc :=
  match d.status with
  | none => { d with status := some st, detail := detail }
  | some _ => d

/-! ## The event recorder (R501 to R503) -/

/-- Pad a list of bytes with zeros, and cut it, to `n`. -/
def padTo (n : Nat) (l : List Byte) : List Byte := (l ++ List.replicate n 0).take n

/-- Severities. -/
def sevInfo : Nat := 0
def sevWarn : Nat := 1
def sevError : Nat := 2
def sevFatal : Nat := 3

/-- The 64 bytes of a recorder record (R501) at SEQ `seq` and device time `now`. -/
def recordBytes (seq : W32) (now : Nat) (lock : Lock) (src code sev : Nat) (part : Option Nat) (die : Nat) (payload : List Byte) :
    List Byte :=
  leBytes 4 seq.toNat ++
  leBytes 4 (src + sev * 256 + part.getD 0 * 1024 + (if part.isSome then 8192 else 0) + die % 4 * 16384 + code * 65536) ++
  leBytes 8 (now % 2 ^ 63 + (if lock = .locked then 2 ^ 63 else 0)) ++ padTo 48 payload

/-- Of two FATAL events in one clock the one of the lower die, then of the lower source, is written (R523): one that comes second
takes the place of the record that has just frozen the recorder. Whether two events at one device time fall in one clock is free
(log entry 21). -/
def State.outranks (s : State) (src sev die : Nat) : Bool :=
  let q := s.rec'
  match tlook q.recs (q.freezeSeq.toNat % 32768) with
  | none => false
  | some l =>
    let w := leNat (sliceList l 4 4)
    sev == sevFatal && q.freezeSeq + 1 == q.nextSeq && fld w 9 8 == sevFatal && leNat (sliceList l 8 8) % 2 ^ 63 == s.now % 2 ^ 63 &&
      decide (die % 4 < fld w 15 14 ∨ die % 4 = fld w 15 14 ∧ src < w % 256) &&
      Config.oneClock s.now q.freezeSeq.toNat q.dropped

/-- The record that froze the recorder gives way to another; it counts as refused. -/
def State.replaceFatal (s : State) (bytes : List Byte) : State :=
  { s with rec' := { s.rec' with
      recs := tput s.rec'.recs (s.rec'.freezeSeq.toNat % 32768) bytes
      dropped := min (s.rec'.dropped + 1) 0xFFFF } }

/-- Write a record; a frozen recorder refuses it and counts it, saturating; a FATAL record freezes (R503). -/
def State.record (s : State) (src code sev : Nat) (part : Option Nat) (die : Nat) (payload : List Byte) : State :=
  if s.rec'.frozen then
    if s.outranks src sev die then s.replaceFatal (recordBytes s.rec'.freezeSeq s.now s.tick.lock src code sev part die payload)
    else { s with rec' := { s.rec' with dropped := min (s.rec'.dropped + 1) 0xFFFF } }
  else
    { s with rec' := { s.rec' with
        recs := tput s.rec'.recs (s.rec'.nextSeq.toNat % 32768) (recordBytes s.rec'.nextSeq s.now s.tick.lock src code sev part die payload)
        nextSeq := s.rec'.nextSeq + 1
        frozen := decide (sev = sevFatal)
        freezeSeq := if sev = sevFatal then s.rec'.nextSeq else s.rec'.freezeSeq } }

/-- SOURCE of R502. -/
def srcException : Nat := 0
def srcManagement : Nat := 1
def srcMemory : Nat := 2
def srcDieLink : Nat := 3
def srcFabric : Nat := 4
def srcHost : Nat := 5
def srcPower : Nat := 6
def srcSecurity : Nat := 7

/-! ## Interrupt vectors (R259, R260, R263) -/

/-- Signal a vector: one message, or its pending bit while it is masked or the link is down. -/
def State.signal (s : State) (p vec : Nat) : State :=
  let pt := s.part p
  let e := tget MsixEntry.dflt pt.msix vec
  if e.masked || !s.linked pt.ent.attach then s.setPart p { pt with pba := sinsert pt.pba vec }
  else s.emit (.msi p vec e.addr e.data)

/-- Send the message of a vector that is pending and neither masked nor behind a down link. -/
def State.flushVector (s : State) (p vec : Nat) : State :=
  let pt := s.part p
  let e := tget MsixEntry.dflt pt.msix vec
  if pt.pba.contains vec && !e.masked && s.linked pt.ent.attach then
    (s.setPart p { pt with pba := serase pt.pba vec }).emit (.msi p vec e.addr e.data)
  else s

/-! ## FLAG waits (R171, R182) -/

/-- A FLAG wait (R171). -/
def Desc.isWait (d : Desc) : Bool := d.opcode == 1 && fld (d.w32 0x58) 3 0 ≤ 1

/-- A descriptor ends with a status unless one is decided (R219). -/
def Desc.finish (d : Desc) (st detail : Nat) : Desc :=
  match d.status with
  | some _ => { d with phase := .ended }
  | none => { d with status := some st, detail := detail, phase := .ended }

def Desc.flagAddr (d : Desc) : Nat := d.addr 0x40
def Desc.flagValue (d : Desc) : Nat := d.w64 0x48
def Desc.flagMask (d : Desc) : Nat := d.w64 0x50
def Desc.flagMode (d : Desc) : Nat := fld (d.w32 0x58) 3 0

/-- The condition of a wait on word `w` (R171). -/
def Desc.waitHolds (d : Desc) (w : Nat) : Bool :=
  if d.flagMode = 0 then decide (w &&& d.flagMask ≥ d.flagValue) else w &&& d.flagMask == d.flagValue

/-- A started wait tests its condition; a poisoned word ends it (R182, R533). -/
def State.testWait (s : State) (r : DRef) : State :=
  match s.desc r with
  | none => s
  | some d =>
    if !d.isWait || d.phase != .running || d.status.isSome then s
    else match s.poisonIn d.flagAddr 8 with
      | some l => s.updDesc r fun x => x.finish stMemory l
      | none => if d.waitHolds (s.rdN d.flagAddr 8) then s.updDesc r fun x => x.finish stOk 0 else s

/-- Every started wait of a partition tests its condition: a word may have been written. -/
def State.testWaits (s : State) (p : Nat) : State :=
  foldS (fun (t : State) (d : Desc) => t.testWait (d.ref p)) s ((s.part p).descs.filter Desc.isWait)

/-! ## The exception ring (R526 to R528) -/

/-- Severity of an exception record in the recorder (R531). -/
def exceptionSeverity (kind : Nat) : Nat :=
  if kind = 4 ∨ kind = 5 then sevInfo else if kind = 3 ∨ kind = 7 then sevWarn else sevError

/-- The die a record names (R80, R530), or 0 (R501). -/
def recordDie (bytes : List Byte) : Nat :=
  let b (o : Nat) : Nat := leNat (sliceList bytes o 1)
  if b 0 = 1 then b 0x10 % 4 else if b 0 = 2 then b 0x1B % 4 else 0

/-- A record with this number lies on the exception ring of a partition; without a ring none does (R184, R528). -/
def State.onRing (s : State) (p n : Nat) : Bool := n != 0 && (s.part p).page.excBase != 0

/-- Store a 64-byte record: its number, or 0 where it has none. It reaches the event recorder in every case. Waits on the words
written test their conditions (R182). -/
def State.exception (s : State) (p : Nat) (bytes : List Byte) (first : Bool) : State × Nat :=
  let kind := leNat (bytes.take 1)
  let pt := s.part p
  let log (t : State) : State := t.record srcException kind (exceptionSeverity kind) (some p) (recordDie bytes) (bytes.take 48)
  if pt.page.excBase = 0 then
    if first then (log (s.setPart p { pt with excCount := pt.excCount + 1 }), pt.excCount + 1) else (log s, 0)
  else
    let base := pt.page.excBase
    let cap := 2 ^ pt.excLog2
    let used := pt.excCount - s.rdN (base + 8) 8
    if used + (if first then 1 else 2) ≤ cap then
      let n := pt.excCount + 1
      let s1 := s.wrBytes (base + 0x40 + 64 * ((n - 1) % cap)) (padTo 64 bytes)
      let s2 := s1.wrN base 8 n
      let s3 := s2.updPart p fun q => { q with excCount := n }
      (log ((s3.signal p pt.excVector).testWaits p), n)
    else (log (s.wrN (base + 0x18) 8 (s.rdN (base + 0x18) 8 + 1)), 0)

/-- DETAIL and ADDR where the error lies in on-chip storage (R525, R530). -/
def chipAddr : Nat := 2 ^ 44 - 1

/-- The bytes 0x18 to 0x1B of a memory-error record of on-chip storage: no stack and channel, the cluster or 0xFF, the die.
`c` is WHERE and the cluster; for the update engine store the update engine (R530). -/
def chipPlace (c : Nat × Nat) : Nat :=
  0xFFFF + (if c.1 = 5 then 0xFF else c.2 % 256) * 65536 + (if c.1 = 5 then c.2 / 5 else c.2 / 20) % 4 * 2 ^ 24

/-- The memory-error record (R530) of a descriptor that met an uncorrectable word of on-chip storage. -/
def chipErrorBytes (tag tick : Nat) (c : Nat × Nat) : List Byte :=
  leBytes 4 (0x02 + 0x0C * 256 + c.1 % 16 * 65536) ++ leBytes 4 tag ++ leBytes 8 tick ++ leBytes 8 chipAddr ++
    leBytes 4 (chipPlace c) ++ leBytes 4 0

/-- A memory-error record (R530): found in tick `tick` at address `a` by `finder`. -/
def State.memErrorBytes (s : State) (tag tick a finder sectors : Nat) : List Byte :=
  let place := match s.place a with
    | some q => match s.interOffset q with
      | some d => let (st, ch) := s.channelOf d; (st, ch, st / 5)
      | none => (0xFF, 0xFF, 0)
    | none => (0xFF, 0xFF, 0)
  leBytes 4 (0x02 + 0x0C * 256 + finder * 2 ^ 20) ++ leBytes 4 tag ++ leBytes 8 tick ++ leBytes 8 a ++
    leBytes 4 (place.1 + place.2.1 * 256 + 0xFF * 65536 + place.2.2 * 2 ^ 24) ++ leBytes 4 sectors

/-! ## The seed trap (R78 to R82) -/

/-- A NaN produced or met: cause, engine kind, tensor identifier, coordinates and index of R80, and where it may have arisen:
the clusters, and the count of engines of its kind on each from number `base` on; for an engine outside clusters, none and its
die and number. -/
structure NanEvt where
  cause : Nat
  kind : Nat
  tensorId : Nat
  coord : List Nat
  index : Nat
  clusters : List Nat
  engines : Nat
  place : Nat × Nat
  base : Nat
deriving DecidableEq, Repr

/-- A free number below `n`, for n > 0. -/
def State.freeBelow (s : State) (n : Nat) : Nat × State := let (x, t) := s.free; (x % n, t)

/-- The 64 bytes of a seed-trap record (R80). The placement is the dispatcher's (R21, R131): free within the clusters. -/
def seedTrapBytes (first : Bool) (tag tick ring opcode cluster engine : Nat) (e : NanEvt) : List Byte :=
  leBytes 4 (0x01 + (if first then 256 else 0) + e.cause * 512 + e.kind * 65536) ++ leBytes 4 tag ++ leBytes 8 tick ++
    leBytes 4 ((if cluster = 0xFF then e.place.1 else cluster / 20) + cluster * 256 + engine * 65536 + ring * 2 ^ 24) ++
    leBytes 4 e.tensorId ++ ((e.coord ++ [0, 0, 0, 0]).take 4).flatMap (leBytes 4) ++ leBytes 8 e.index ++
    leBytes 2 opcode ++ List.replicate 14 0

/-- A NaN with what the record needs beyond it: time stamp, die, cluster, engine number. -/
structure NanAt where
  time : Nat
  die : Nat
  cluster : Nat
  engine : Nat
  evt : NanEvt
deriving DecidableEq, Repr

/-- Where and when a NaN arose: the dispatcher's placement (R21, R131) within what `e` allows, and its time stamp, which no
rule gives, are free (log entry 6). -/
def State.placeNan (s : State) (e : NanEvt) : NanAt × State :=
  let (t, s0) := s.free
  let (cl, s1) := if e.clusters.isEmpty then (0xFF, s0) else
    let (x, u) := s0.freeBelow e.clusters.length; (e.clusters.getD x 0, u)
  let (en, s2) := if e.engines = 0 then (e.place.2, s1) else let (x, u) := s1.freeBelow e.engines; (e.base + x, u)
  (⟨t, if cl = 0xFF then e.place.1 else cl / 20, cl, en, e⟩, s2)

/-- The order of R79: time stamp, die, cluster, engine, INDEX. -/
def NanAt.before (a b : NanAt) : Bool :=
  if a.time ≠ b.time then decide (a.time < b.time)
  else if a.die ≠ b.die then decide (a.die < b.die)
  else if a.cluster ≠ b.cluster then decide (a.cluster < b.cluster)
  else if a.engine ≠ b.engine then decide (a.engine < b.engine)
  else decide (a.evt.index < b.evt.index)

/-- Of NaNs that arose close together the first by R79, if there is one. -/
def State.firstNan (s : State) (l : List NanEvt) : Option NanAt × State :=
  foldS (fun (o : Option NanAt × State) e =>
    let (x, t) := o.2.placeNan e
    (match o.1 with
      | none => some x
      | some y => if x.before y then some x else some y, t)) (none, s) l

/-- Raise the seed trap for descriptor `r` (R78, R82, R215): the record, the hold, which ends lending, and the decision
NAN_TRAP. A descriptor already decided NAN_TRAP writes no further record. -/
def State.seedTrapAt (s : State) (r : DRef) (x : NanAt) : State :=
  match s.desc r with
  | none => s
  | some d =>
    if d.status = some stNanTrap then s
    else
      let first := !(s.part r.part).mirror.hold
      let bytes := seedTrapBytes first d.tag s.tickNo r.ring d.opcode x.cluster x.engine x.evt
      let (s3, n) := s.exception r.part bytes first
      let s4 := if first then
        s3.updPart r.part fun q =>
          { q with mirror := { q.mirror with hold := true, trapSeq := n, trapRecord := bytes }, lent := [] }
        else s3
      s4.updDesc r fun d => { (d.decide' stNanTrap n) with exc := d.exc || s4.onRing r.part n }

/-- Raise the seed trap for the first of some NaNs of descriptor `r`. -/
def State.seedTraps (s : State) (r : DRef) (l : List NanEvt) : State :=
  match s.firstNan l with
  | (some x, t) => t.seedTrapAt r x
  | (none, _) => s

/-- Raise the seed trap for a NaN of descriptor `r`. -/
def State.seedTrap (s : State) (r : DRef) (e : NanEvt) : State := s.seedTraps r [e]

/-! ## Completion (R178, R184, R187, R199, R211, R222) -/

/-- The order of two descriptor numbers modulo 2^32. -/
def numLe (a b : Nat) : Bool := decide ((b + 2 ^ 32 - a) % 2 ^ 32 < 2 ^ 31)

/-- The entry of a completed descriptor (R184). -/
def Desc.entry (d : Desc) : Entry :=
  { ring := d.ring, num := d.num, tag := d.tag, status := d.status.getD 0, exc := d.exc, started := d.started,
    ticks := if d.started then d.endTick - d.startTick + 1 else 0, overruns := min d.overruns 0xFFFF, detail := d.detail,
    irq := d.irq, cancel := d.cancel, wait := d.opcode == 1 && fld (d.w32 0x58) 3 0 ≤ 1, heldCancel := d.heldCancel, go := d.go,
    groups := d.groups }

/-- A stopped ring withholds the entry of a descriptor that has not started and lies after its stop descriptor; a ring stopped
without one withholds every such entry (R187, R188). -/
def SubRing.withholds (q : SubRing) (num : Nat) (started : Bool) : Bool :=
  q.stopped && !started && (match q.stopNum with
    | some n => !numLe num n
    | none => true)

/-- A hold withholds the entry of a descriptor that has not started, or that a narrower cancel decided during the hold, until
its end lets it go (R180, R223, R224). -/
def Mirror.withholds (m : Mirror) (started heldCancel go : Bool) (groups : List Nat) : Bool :=
  m.hold && !(go || (m.ending == 2 && groups.contains m.endGroup)) && (!started || heldCancel)

/-- An earlier descriptor of the ring shares a release group and its entry, which no stop withholds, has not gone: the later one
waits for it (R222 to R224). -/
def Part.behind (pt : Part) (ring num : Nat) (groups : List Nat) : Bool :=
  pt.descs.any fun e => e.ring == ring && e.num != num && numLe e.num num && groups.any e.groups.contains &&
    !(e.phase == .done && (pt.subRing ring).withholds e.num e.started)

/-- The entry of a descriptor that is done may go to its completion ring (R180, R187, R222 to R224). -/
def Part.mayRelease (pt : Part) (ring : Nat) (d : Desc) : Bool :=
  d.phase == .done && !(pt.subRing ring).withholds d.num d.started &&
  !pt.mirror.withholds d.started d.heldCancel d.go d.groups && !pt.behind ring d.num d.groups

/-- An entry on its way to a completion ring is withheld (R180, R187, R224). -/
def Part.withholds (pt : Part) (e : Entry) : Bool :=
  (pt.subRing e.ring).withholds e.num e.started || pt.mirror.withholds e.started e.heldCancel e.go e.groups ||
    pt.behind e.ring e.num e.groups

/-- An entry joins those that wait: last, but before a later one of its ring that shares a release group (R222 to R224). -/
def placeEntry (e : Entry) : List Entry → List Entry
  | [] => [e]
  | x :: l =>
    if x.ring == e.ring && numLe e.num x.num && e.groups.any x.groups.contains then e :: x :: l else x :: placeEntry e l

/-- Move one entry that may go. -/
def Part.releaseOne (pt : Part) (ring : Nat) : Option Part :=
  match pt.descs.find? fun d => d.ring == ring && pt.mayRelease ring d with
  | none => none
  | some d =>
    let m := (pt.subRing ring).cq
    let c := pt.comRing m
    some ((({ pt with descs := pt.descs.filter fun e => !(e.ring == ring && e.num == d.num) }).setCom m
      { c with waiting := placeEntry d.entry c.waiting }))

/-- Move every entry of one ring that may go. -/
def Part.releaseGo (pt : Part) (ring : Nat) : Nat → Part
  | 0 => pt
  | n + 1 => match pt.releaseOne ring with
    | none => pt
    | some q => q.releaseGo ring n

def State.release (s : State) (p ring : Nat) : State :=
  s.updPart p fun q => q.releaseGo ring (q.descs.length + 1)

/-- The enabled submission rings of a partition, rising. -/
def Part.rings (pt : Part) : List Nat := (pt.sq.filter fun e => e.2.enabled).map (·.1)

/-- Release the entries of every ring, in ring order. -/
def State.releaseAll (s : State) (p : Nat) : State := foldS (fun t ring => t.release p ring) s (s.part p).rings

/-- A ring becomes stopped once its stop descriptor and every earlier one have completed, and no swap is in progress (R187, R188,
R375). -/
def State.ringStop (s : State) (p ring : Nat) : State :=
  let pt := s.part p
  let q := pt.subRing ring
  match q.stopNum with
  | none => s
  | some n =>
    if q.stopped || !pt.swaps.isEmpty || pt.descs.any fun d => d.ring == ring && numLe d.num n && d.phase != .done then s
    else s.setPart p (pt.setSub ring { q with stopped := true })

/-- Slots a descriptor's opcode takes (R98, R108, R109, R350): slot numbers, empty where it takes none. -/
def Desc.slots (d : Desc) : List Nat :=
  if d.opcode = 0x0100 ∨ d.opcode = 0x0110 ∨ d.opcode = 0x0111 ∨ d.opcode = 0x0112 then [d.w8 0x50 % 32]
  else if d.opcode = 0x0300 ∨ d.opcode = 0x0302 ∨ d.opcode = 0x0303 then [fld (d.w32 0x78) 27 23]
  else if d.opcode = 0x0004 ∨ d.opcode = 0x0005 then bitsOf 32 (d.w32 0x44)
  else []

/-- A MATMUL whose output mode keeps its slot (R97). -/
def Desc.keeps (d : Desc) : Bool := d.opcode == 0x0100 && (fld (d.w32 0x50) 8 7 == 1 || fld (d.w32 0x50) 8 7 == 2)

/-- The dimension of an operand that is not K, for a K dimension of 0 or 1 (R167). -/
def otherDim (k : Nat) : Nat := 1 - k

/-- M, N and K of a MATMUL from the copies read at admission (R167). -/
def Desc.matShape (d : Desc) : Nat × Nat × Nat :=
  let h := d.w32 0x50
  let ka := fld h 12 12
  let kb := fld h 13 13
  let sz (ptr k : Nat) : Nat := match d.td ptr with
    | some t => t.size.getD k 1
    | none => 1
  (sz (d.w32 0x40) (otherDim ka), sz (d.w32 0x44) (otherDim kb), sz (d.w32 0x40) ka)

/-- Output tiles Q of one batch item of a MATMUL (R96). -/
def Desc.matTiles (d : Desc) : Nat := let (m, n, _) := d.matShape; ceilDiv m 32 * ceilDiv n 32

/-- The cores of one cluster, nk (R99). -/
def coresPerCluster : Nat := 128

def accKey (cluster core slot : Nat) : Nat := (cluster * coresPerCluster + core) * 32 + slot

/-- After work on slot `k` of the clusters, the tiles that no rule gives contents are free (log entry 6). -/
def State.blurSlot (s : State) (cl : List Nat) (k : Nat) : State :=
  { s with
    acc := s.acc.filter fun e => !(e.1 % 32 == k && cl.contains (e.1 / (32 * coresPerCluster)))
    accGen := foldS (fun l c => tset 0 l (c * 32 + k) (s.fresh + 1)) s.accGen cl
    fresh := s.fresh + 1 }

/-- Make every slot a descriptor held VOID (R99); no rule says what its tiles then hold. -/
def State.voidSlots (s : State) (d : Desc) : State :=
  foldS (fun (t : State) k => foldS (fun (u : State) c => { u with res := tdel u.res (c * 32 + k) })
    (t.blurSlot d.clusters k) d.clusters) s d.slots

/-- Cluster and core that hold output tile `q` of a descriptor placed under R101. -/
def Desc.tileHome (d : Desc) (q : Nat) : Nat × Nat :=
  let cl := d.clusters
  (cl.getD (q % max 1 cl.length) 0, q / max 1 cl.length * 2 ^ fld (d.w32 0x50) 11 9)

/-- Keep the tiles of a kept slot that hold output, and leave the others free. -/
def State.keepTiles (s : State) (d : Desc) (slot : Nat) : State :=
  let homes := (List.range d.matTiles).map fun q => let (c, k) := d.tileHome q; accKey c k slot
  let kept := s.acc.filter fun e => homes.contains e.1
  let t := s.blurSlot d.clusters slot
  { t with acc := foldS (fun l e => tput l e.1 e.2) t.acc kept }

/-- The residency records of a started matrix operation after its completion with status `st` (R99). A save changes no
record (R108); a restore that does not succeed leaves its slots VOID, their tiles as far as they were written. -/
def State.settleSlots (s : State) (d : Desc) (st : Nat) : State :=
  if d.started && d.opcode == 0x0005 then
    if st == stOk || st == stOverrun then s
    else foldS (fun (t : State) k => foldS (fun (u : State) c => { u with res := tdel u.res (c * 32 + k) }) t d.clusters) s d.slots
  else if d.started && d.opcode != 0x0004 then
    if d.keeps && (st == stOk || st == stOverrun) then
      let v : Resident := ⟨d.tag, d.matTiles, fld (d.w32 0x50) 11 9, d.clusters.length, coresPerCluster⟩
      foldS (fun (t : State) k => foldS (fun (u : State) c => { u with res := tput u.res (c * 32 + k) v })
        (t.keepTiles d k) d.clusters) s d.slots
    else s.voidSlots d
  else s

/-- A descriptor with the status of dependency `num` noted. -/
def Desc.noteDep (d : Desc) (num st : Nat) : Desc :=
  { d with deps := d.deps.map fun (e : Dep) => if e.num == num then { e with status := some st } else e }

/-- A ring's history with the status of descriptor `num` noted. -/
def SubRing.noteHist (q : SubRing) (num st : Nat) : SubRing :=
  { q with hist := q.hist.map fun (h : Hist) => if h.num == num then { h with status := some st } else h }

/-- Write a status into the dependencies of every descriptor of the ring and into the ring's history. -/
def Part.noteStatus (pt : Part) (ring num st : Nat) : Part :=
  ({ pt with descs := pt.descs.map fun (d : Desc) => if d.ring == ring then d.noteDep num st else d }).setSub ring
    ((pt.subRing ring).noteHist num st)

/-- The first dependency known to have failed, as DETAIL of DEP_FAILED (R178, R185). During a hold a NAN_TRAP decides no
dependant: that waits for the end of the hold (R81, R223). -/
def Desc.depFailure (d : Desc) (hold : Bool) : Option Nat :=
  match d.deps.find? fun e => match e.status with
    | some st => !isSuccess st && !(hold && st == stNanTrap)
    | none => false with
  | some e => some (e.tag + e.status.getD 0 * 2 ^ 32)
  | none => none

/-- An UPDATE_BIND with UNBIND 1 (R447). -/
def Desc.unbinds (d : Desc) : Bool := d.opcode == 0x0600 && bitOf (d.w32 0x40) 10

/-- Give up a binding a descriptor holds (R448); with an unbind's success it ends. -/
def Part.dropBinding (pt : Part) (r : DRef) (unbinds : Bool) : Part :=
  if unbinds then { pt with binds := pt.binds.filter fun b => b.2.holder != some r }
  else { pt with binds := pt.binds.map fun b => if b.2.holder == some r then (b.1, { b.2 with holder := none }) else b }

/-- The memory-error record of a descriptor that completes MEMORY_UNCORRECTABLE: the tick in which it was decided, and the sectors
its own reads have newly poisoned (R530; that these are all its reads' is DEDUCED, log entry 40). -/
def State.memRecord (s : State) (d : Desc) : List Byte :=
  let tick := d.memTick.getD s.tickNo
  match d.chip with
  | some c => if d.detail = chipAddr then chipErrorBytes d.tag tick c else s.memErrorBytes d.tag tick d.detail 0 d.memSectors
  | none => s.memErrorBytes d.tag tick d.detail 0 d.memSectors

/-- The completion of one descriptor whose status is decided takes effect. DETAIL of TICK_OVERRUN is zero (R185, R524). -/
def State.completeOne (s : State) (r : DRef) : State :=
  match s.desc r with
  | none => s
  | some d =>
    match d.status with
    | none => s
    | some st0 =>
      let st := if st0 = stOk ∧ d.overruns ≠ 0 then stOverrun else st0
      let s1 := if st = stMemory then
          let (t, n) := s.exception r.part (s.memRecord d) false
          t.updDesc r fun d => { d with exc := d.exc || n != 0 }
        else s
      let s2 := s1.updDesc r fun d => { d with phase := .done, status := some st, slice := none, endTick := s.tickNo, detail := (if st = stOverrun then 0 else d.detail) }
      let s3 := s2.updPart r.part fun q =>
        let q1 := (q.dropBinding r (d.unbinds && isSuccess st)).noteStatus r.ring r.num st
        q1.setSub r.ring { q1.subRing r.ring with lastTag := some d.tag }
      (((s3.settleSlots d st).freeEngines fun x => x == r).ringStop r.part r.ring).release r.part r.ring

/-- The next waiting descriptor of a ring with a failed dependency. -/
def Part.nextFailed (pt : Part) (ring : Nat) (hold : Bool) : Option (Desc × Nat) :=
  pt.descs.findSome? fun d =>
    if d.ring == ring && d.phase == .waiting && d.status.isNone then (d.depFailure hold).map fun x => (d, x) else none

/-- Complete DEP_FAILED every descriptor of the ring whose dependency has failed, and their dependants (R178). -/
def State.failDependants (s : State) (p ring : Nat) (hold : Bool) : Nat → State
  | 0 => s
  | n + 1 =>
    match (s.part p).nextFailed ring hold with
    | none => s
    | some (d, detail) =>
      let s1 := s.updDesc (d.ref p) fun d => { d with status := some stDepFailed, detail := detail }
      (s1.completeOne (d.ref p)).failDependants p ring hold n

/-! ## The end of a hold (R81, R223, R224) -/

/-- Entries that the end of a hold has let go, or that a cancel still owes, remain to be written; what a stopped ring withholds
is not waited for (R187, R224). -/
def Part.holdOwes (pt : Part) : Bool :=
  let stuck (ring num : Nat) (started : Bool) : Bool := (pt.subRing ring).withholds num started
  let mine (groups : List Nat) : Bool := pt.mirror.ending == 2 && groups.contains pt.mirror.endGroup
  (pt.descs.any fun d => if d.phase == .done then (d.go || mine d.groups) && !stuck d.ring d.num d.started else mine d.groups) ||
  (pt.cq.any fun e => e.2.waiting.any fun x => (x.go || mine x.groups) && !stuck x.ring x.num x.started) ||
  (pt.sq.any fun e => mine (e.2.cancels.map (·.1)) && !e.2.stopped)

/-- An entry that a hold withheld is let go as one of release group `g`. -/
def Entry.letGo (x : Entry) (g : Nat) : Entry := { x with go := true, groups := x.groups ++ [g] }

/-- A descriptor whose entry a hold withholds, or will, is let go; one that has completed joins release group `g`. -/
def Desc.letGo (d : Desc) (g : Nat) : Desc :=
  if d.phase == .done then (if !d.started || d.heldCancel then { d with go := true, groups := d.groups ++ [g] } else d)
  else if d.heldCancel then { d with go := true } else d

/-- The end of a hold lets go what it withheld, as release group `g`: entries on their way, which wait after all others and in
ring order, and descriptors that have completed or that a narrower cancel decided. -/
def Part.letGo (pt : Part) (ending g : Nat) : Part :=
  let held (x : Entry) : Bool := !x.started || x.heldCancel
  { pt with
    mirror := { pt.mirror with ending := ending, endGroup := g }
    descs := pt.descs.map fun d => d.letGo g
    cq := pt.cq.map fun e => (e.1, { e.2 with
      waiting := foldS (fun (l : List Entry) x => placeEntry (x.letGo g) l) (e.2.waiting.filter fun x => !held x)
        (e.2.waiting.filter held) }) }

/-- The number of a new release group. -/
def State.takeGroup (s : State) (p : Nat) : Nat × State :=
  let g := (s.part p).nextGroup
  (g, s.updPart p fun q => { q with nextGroup := g + 1 })

/-- Once an ending hold owes no entry, the dependants of NAN_TRAP descriptors are decided, HOLD clears, the trap is armed again,
and the entries go out. -/
def State.settleHold (s : State) (p : Nat) : State :=
  let pt := s.part p
  if !pt.mirror.hold || pt.mirror.ending == 0 || pt.holdOwes then s
  else
    let s1 := foldS (fun (t : State) ring => t.failDependants p ring false ((t.part p).descs.length + 1)) s pt.rings
    (s1.updPart p fun q =>
      { q with mirror := { q.mirror with hold := false, ending := 0, trapSeq := 0, trapRecord := [] } }).releaseAll p

/-- A descriptor's completion takes effect, and its dependants are decided (R178, R199). -/
def State.complete (s : State) (r : DRef) : State :=
  let s1 := s.completeOne r
  let pt := s1.part r.part
  (s1.failDependants r.part r.ring pt.mirror.hold (pt.descs.length + 1)).settleHold r.part

end Sys2Proof.Machine
end

