-- ==== Sys2Proof/Machine/Hash.lean ====
section
/-!
DEFINITION. Checks over bytes: CRC-32C and FCS of frames (R379), the digests of R429 and their trees (R464), SHAKE256 (R472).
-/

namespace Sys2Proof.Machine

/-! ## CRC-32C -/

/-- `n` steps of a reflected 32-bit CRC. -/
def crc32Bits (poly : Nat) : Nat → Nat → Nat
  | 0, c => c
  | n + 1, c => crc32Bits poly n (if c % 2 = 1 then (c / 2) ^^^ poly else c / 2)

/-- A reflected 32-bit CRC of bytes: initial and final XOR all ones. -/
def crc32With (poly : Nat) (l : List Byte) : Nat :=
  (l.foldl (fun c b => crc32Bits poly 8 (c ^^^ b.toNat)) 0xFFFFFFFF) ^^^ 0xFFFFFFFF

/-- CRC-32C (Castagnoli). -/
def crc32c (l : List Byte) : Nat := crc32With 0x82F63B78 l

/-- The Ethernet frame check sequence (PRESUMED: IEEE 802.3, which R379 names; log entry 36). -/
def crc32 (l : List Byte) : Nat := crc32With 0xEDB88320 l

/-! ## CRC-64 and digests (R429) -/

def crc64Bits : Nat → Nat → Nat
  | 0, c => c
  | n + 1, c => crc64Bits n (if bitOf c 63 then (2 * c % 2 ^ 64) ^^^ 0x42F0E1EBA9EA3693 else 2 * c % 2 ^ 64)

/-- CRC-64 with the ECMA-182 polynomial taken on by one byte, most significant bit first. -/
def crc64Byte (c : Nat) (b : Byte) : Nat := crc64Bits 8 (c ^^^ (b.toNat * 2 ^ 56))

def Digest.empty : Digest := ⟨0, 0, [], 0, 0⟩

/-- Take one whole word into a digest: even words into A, odd words into B. -/
def Digest.word (d : Digest) (w : List Byte) : Digest :=
  if d.words % 2 = 0 then { d with a := w.foldl crc64Byte d.a, rest := [], words := d.words + 1 }
  else { d with b := w.foldl crc64Byte d.b, rest := [], words := d.words + 1 }

/-- Take one byte into a digest. -/
def Digest.byte (d : Digest) (b : Byte) : Digest :=
  let r := d.rest ++ [b]
  let e := { d with len := d.len + 1 }
  if r.length = 8 then e.word r else { e with rest := r }

/-- Take bytes into a digest. -/
def Digest.add (d : Digest) (l : List Byte) : Digest := l.foldl Digest.byte d

/-- The 16 bytes of a digest; an unfinished word is padded with zeros. -/
def Digest.bytes (d : Digest) : List Byte :=
  let e := if d.rest.isEmpty then d else d.word (padTo' 8 d.rest)
  leBytes 8 e.a ++ leBytes 8 e.b
where
  padTo' (n : Nat) (l : List Byte) : List Byte := (l ++ List.replicate n 0).take n

/-- digest() of R464. -/
def digestOf (l : List Byte) : List Byte := (Digest.empty.add l).bytes

/-- One level up a digest tree. -/
def treeLevel : List (List Byte) → List (List Byte)
  | [] => []
  | [x] => [x]
  | x :: y :: t => digestOf (x ++ y) :: treeLevel t

/-- The levels of a digest tree above its leaves, in order, at most `n` of them. -/
def treeLevels : Nat → List (List Byte) → List (List (List Byte))
  | 0, _ => []
  | n + 1, l => if l.length ≤ 1 then [] else treeLevel l :: treeLevels n (treeLevel l)

/-! ## SHAKE256 (PRESUMED: FIPS 202, which R472 names) -/

def rotl64 (x k : Nat) : Nat := (x * 2 ^ (k % 64) + x / 2 ^ (64 - k % 64)) % 2 ^ 64

/-- The column step: every lane takes on the parities of the column before it and, turned by one bit, of the column
after it. Lane (x, y) is entry x + 5y. -/
def laneParity (st : List Nat) : List Nat :=
  let col := (List.range 5).map fun x => (List.range 5).foldl (fun p y => p ^^^ st.getD (x + 5 * y) 0) 0
  st.mapIdx fun i w => w ^^^ col.getD ((i + 4) % 5) 0 ^^^ rotl64 (col.getD ((i + 1) % 5) 0) 1

/-- The turning and moving steps as one chain: from lane (1, 0) on, the lane at (x, y) goes to (y, 2x + 3y), turned by
the `t`-th triangular number, and the lane it displaces is the next to go. `n` lanes are still to move. -/
def laneChain : Nat → Nat → Nat → Nat → Nat → List Nat → List Nat
  | 0, _, _, _, _, st => st
  | n + 1, t, x, y, w, st =>
    let y' := (2 * x + 3 * y) % 5
    laneChain n (t + 1) y y' (st.getD (y + 5 * y') 0) (st.set (y + 5 * y') (rotl64 w (t * (t + 1) / 2)))

/-- The row step on the five lanes of each row, `n` rows. -/
def laneRows : Nat → List Nat → List Nat
  | n + 1, p :: q :: r :: s :: t :: more =>
    let off (u v : Nat) : Nat := v - (u &&& v)
    [p ^^^ off q r, q ^^^ off r s, r ^^^ off s t, s ^^^ off t p, t ^^^ off p q] ++ laneRows n more
  | _, _ => []

/-- The shift register behind the round constants, one step: x^8 + x^6 + x^5 + x^4 + 1. -/
def rcNext (r : Nat) : Nat := if 128 ≤ r then (2 * r) ^^^ 0x171 else 2 * r

/-- Seven bits of the shift register, the `j`-th of them at place 2^j - 1, and the register after them. -/
def rcBits : Nat → Nat → Nat → Nat → Nat × Nat
  | 0, _, r, acc => (acc, r)
  | n + 1, j, r, acc => rcBits n (j + 1) (rcNext r) (if r % 2 = 1 then acc + 2 ^ (2 ^ j - 1) else acc)

/-- `n` rounds of the permutation, the shift register at `r`. -/
def lanePermute : Nat → Nat → List Nat → List Nat
  | 0, _, st => st
  | n + 1, r, st =>
    let par := laneParity st
    let k := rcBits 7 0 r 0
    match laneRows 5 (laneChain 24 1 1 0 (par.getD 1 0) par) with
    | w :: more => lanePermute n k.2 ((w ^^^ k.1) :: more)
    | [] => []

/-- Take `n` blocks of `rate` lanes from bytes into the state and permute after each. -/
def spongeIn (rate : Nat) : Nat → List Byte → List Nat → List Nat
  | 0, _, st => st
  | n + 1, l, st =>
    spongeIn rate n (l.drop (8 * rate))
      (lanePermute 24 1 (st.mapIdx fun i w => if i < rate then w ^^^ leNat (sliceList l (8 * i) 8) else w))

/-- The first `lanes` lanes of the sponge's output over bytes followed by the domain bits `dom` and the padding 10*1:
at most `rate` lanes. -/
def sponge (rate dom lanes : Nat) (l : List Byte) : List Byte :=
  let room := 8 * rate - l.length % (8 * rate)
  let tail : Nat := dom + 2 ^ (8 * room - 1)
  let m := l ++ leBytes room tail
  ((spongeIn rate (m.length / (8 * rate)) m (List.replicate 25 0)).take lanes).flatMap (leBytes 8)

/-- The first 32 bytes of SHAKE256 output (1,088 bits of rate, domain bits 1111 and the padding's first bit). -/
def shake256 (l : List Byte) : List Byte := sponge 17 0x1F 4 l

/-- The first 64 bytes of SHAKE256 output. -/
def shake512 (l : List Byte) : List Byte := sponge 17 0x1F 8 l

/-- SHA3-512 (PRESUMED: FIPS 202; R518). -/
def sha3 (l : List Byte) : List Byte := sponge 9 0x06 8 l

end Sys2Proof.Machine
end

