-- ==== Sys2Proof/Machine/Chan.lean ====
section
/-!
DEFINITION. The Ifeine transport: frames, channels, acknowledgement and reset (R376 to R395).
-/

namespace Sys2Proof.Machine

/-! ## MACs and frames (R377 to R381) -/

def State.mac (s : State) (m : Nat) : MacSt := tget MacSt.dflt s.macs m
def State.setMac (s : State) (m : Nat) (v : MacSt) : State := { s with macs := tset MacSt.dflt s.macs m v }
def State.chan (s : State) (c : Nat) : Chan := tget Chan.dflt s.chans c
def State.setChan (s : State) (c : Nat) (v : Chan) : State := { s with chans := tset Chan.dflt s.chans c v }
def State.updChan (s : State) (c : Nat) (f : Chan → Chan) : State := s.setChan c (f (s.chan c))

/-- MACs of a port in its split mode (R377). -/
def splitMacs (split : Nat) : Nat := match split with
  | 0 => 1
  | 1 => 2
  | 2 => 4
  | _ => Config.reservedSplit

/-- MAC index `m` exists. -/
def State.macExists (s : State) (m : Nat) : Bool :=
  decide (m < 32) && decide (m % 4 < splitMacs (tget 0 s.fab.splitUse (m / 4)))

/-- The transport runs: the census found no second package with this address, and the package serves (R405, R483, R536). -/
def State.transportOn (s : State) : Bool := !s.fab.conflict && !s.halted && s.powered

/-- MACs that carry transport: up, and joined by a HELLO (R402). -/
def State.usableMacs (s : State) : List Nat :=
  if s.transportOn then (List.range 32).filter fun m => s.macExists m && (s.mac m).up && (s.mac m).heard else []

/-- The unicast address of a MAC (R378). -/
def State.macAddr (s : State) (pkg m : Nat) : List Byte :=
  [0x02, BitVec.ofNat 8 s.fab.fabric, BitVec.ofNat 8 (pkg / 256), BitVec.ofNat 8 pkg, 0, BitVec.ofNat 8 m]

/-- The census group address (R378). -/
def State.groupAddr (s : State) : List Byte := [0x03, BitVec.ofNat 8 s.fab.fabric, 0, 0, 0, 0]

/-- Two bytes in Ethernet order. -/
def be16 (x : Nat) : List Byte := [BitVec.ofNat 8 (x / 256), BitVec.ofNat 8 x]

/-- A tagged Ethernet frame from DA to the FCS, padded to the minimum (R379, R396). -/
def State.etherFrame (s : State) (m pcp etype : Nat) (da body : List Byte) : List Byte :=
  let l := da ++ s.macAddr s.fab.pkg m ++ be16 0x8100 ++ be16 (pcp * 8192 + s.fab.vid % 4096) ++ be16 etype ++ body
  let padded := l ++ List.replicate (60 - l.length) 0
  padded ++ leBytes 4 (crc32 padded)

/-- An Ifeine frame (R379). -/
def State.frameBytes (s : State) (m pcp : Nat) (da hdr payload : List Byte) : List Byte :=
  s.etherFrame m pcp s.fab.etype da (hdr ++ payload ++ leBytes 4 (crc32c (hdr ++ payload)))

/-- A MAC sends something at a priority, or, with PFC_EN 1, keeps it while a PFC frame pauses the priority (R394). -/
def State.transmit (s : State) (m pcp : Nat) (o : Out) : State :=
  let q := s.mac m
  if s.fab.pfcEn && q.paused.contains pcp then s.setMac m { q with txq := q.txq ++ [(pcp, o)] } else s.emit o

/-- The transport header (R381). -/
def header (typ : Nat) (last packed poison : Bool) (hops len srcPkg dstPkg srcCh srcPart dstCh dstPart seq ack sack addr op : Nat) :
    List Byte :=
  let b (x : Bool) (k : Nat) : Nat := if x then 2 ^ k else 0
  leBytes 4 (1 + typ * 16 + b last 8 + b packed 9 + b poison 10 + hops % 16 * 4096 + len * 65536) ++
  leBytes 4 (srcPkg % 65536 + dstPkg % 65536 * 65536) ++
  leBytes 4 (srcCh % 512 + srcPart % 8 * 512 + dstCh % 512 * 65536 + dstPart % 8 * 2 ^ 25) ++
  leBytes 4 seq ++ leBytes 4 ack ++ leBytes 4 sack ++ leBytes 8 (addr % 2 ^ 44 + op * 2 ^ 44)

/-- Entry of the reachability table for a package (R406). -/
def reachBase : Nat := 0x1DFFFF80000
def State.reach (s : State) (pkg : Nat) : Nat := s.rdN (reachBase + 8 * pkg) 8

/-- Bytes queued on a MAC. -/
def outBytes : Out → Nat
  | .frame _ l => l.length
  | _ => 64
def MacSt.queued (q : MacSt) : Nat := q.txq.foldl (fun n e => n + outBytes e.2) 0

/-- The up MAC with the fewest bytes queued; which of several equals is free (R390, log entry 6). -/
def State.pickMac (s : State) : Option Nat × State :=
  let ms := s.usableMacs
  let least := ms.foldl (fun n m => min n (s.mac m).queued) ((s.mac (ms.headD 0)).queued)
  let best := ms.filter fun m => (s.mac m).queued == least
  if best.length ≤ 1 then (best.head?, s)
  else let (x, t) := s.freeBelow best.length; (best[x]?, t)

/-- Index of the MAC a frame is addressed to: m mod c, and the next in turn after each expiry (R390). -/
def State.dstMac (s : State) (pkg m expiries : Nat) : Nat := (m + expiries) % max 1 (fld (s.reach pkg) 10 5)

/-- The ready partition that holds a channel (R235, R385). -/
def State.chanPart (s : State) (c : Nat) : Option Nat :=
  (s.parts.find? fun e => (e.2.ent.valid || e.2.ent.ready) && decide (e.2.ent.chBase ≤ c ∧ c < e.2.ent.chBase + e.2.ent.chCount)).map (·.1)

/-- SRC_PART of a frame of channel `c`: a CH_RESET carries the partition that began the reset, which a destroyed partition's
channel no longer belongs to (R392). -/
def State.srcPart (s : State) (c typ : Nat) : Nat :=
  match (s.chan c).resetting with
  | some r => if typ = 4 then r.srcPart else (s.chanPart c).getD 0
  | none => (s.chanPart c).getD 0

/-! ## Sequence numbers (R386) -/

/-- a − b modulo 2^32. -/
def seqSub (a b : Nat) : Nat := (a + 2 ^ 32 - b % 2 ^ 32) % 2 ^ 32

/-- SACK: bit i says that frame ACK + 1 + i is held. -/
def Chan.sack (c : Chan) : Nat :=
  maskOf ((List.range 32).filter fun i => c.held.any fun h => h.1 == (c.rxNext + 1 + i) % 2 ^ 32)

/-! ## Sending (R386, R388, R390) -/

/-- Send one frame of a channel to its peer: type, SEQ, and the DATA frame's fields. It carries ACK and SACK, so that
nothing is left to acknowledge. -/
def State.sendFrame (s : State) (c typ : Nat) (to' : Peer) (seq : Nat) (f : TxFrame) (expiries : Nat) : State :=
  match s.pickMac with
  | (none, t) => t
  | (some m, t) =>
    let ch := t.chan c
    let acks := decide (typ ≤ 1)
    let hdr := header typ f.last f.packed f.poison 0 f.payload.length s.fab.pkg to'.pkg c (t.srcPart c typ) to'.ch
      to'.part seq (if acks then ch.rxNext else 0) (if acks then ch.sack else 0) f.addr f.op
    let pcp := if typ = 0 then s.fab.dataPcp else s.fab.ctrlPcp
    let t1 := if acks then t.setChan c { ch with ackDue := 0 } else t
    t1.transmit m pcp (.frame m (t.frameBytes m pcp (t.macAddr to'.pkg (t.dstMac to'.pkg m expiries)) hdr f.payload))

def TxFrame.none : TxFrame := ⟨false, false, false, 0, 0, []⟩

/-- Send an ACK frame (R388); a failed channel sends nothing (R391). -/
def State.sendAck (s : State) (c : Nat) : State :=
  match (s.chan c).peer with
  | some p => if (s.chan c).st = .open' then s.sendFrame c 1 p 0 TxFrame.none 0 else s
  | none => s

/-! ## Exponent packing (R423) -/

/-- A bit string as bytes. -/
def slotBytes (n x : Nat) : List Byte := leBytes (ceilDiv (26 * n) 8) x

/-- One packed group of FP32 words. -/
def packGroup (ws : List Nat) : List Byte :=
  let ex (w : Nat) : Nat := fld w 30 23
  let emax := ws.foldl (fun m w => max m (ex w)) 0
  let code (w : Nat) : Nat := min 3 (emax - ex w)
  let esc := (ws.filter fun w => code w == 3).map fun w => BitVec.ofNat 8 (ex w)
  let slots := (ws.zipIdx).foldl (fun n (w, i) =>
    n + (w % 2 ^ 23 + code w * 2 ^ 23 + (if bitOf w 31 then 2 ^ 25 else 0)) * 2 ^ (26 * i)) 0
  [BitVec.ofNat 8 emax, BitVec.ofNat 8 esc.length] ++ slotBytes ws.length slots ++ esc

/-- Groups of at most 64 words. -/
def groups64 : Nat → List Nat → List (List Nat)
  | 0, _ => []
  | n + 1, l => if l.isEmpty then [] else l.take 64 :: groups64 n (l.drop 64)

/-- Whole packed groups gathered into payloads of at most 8,192 bytes. -/
def packFrames (cur : List Byte) : List (List Byte) → List (List Byte)
  | [] => if cur.isEmpty then [] else [cur]
  | g :: t => if cur.length + g.length > 8192 then cur :: packFrames g t else packFrames (cur ++ g) t

/-- The exponents of a group's values, escapes taken in order; none where a code reaches below 0. -/
def unpackExps (emax : Nat) : List Nat → List Byte → Option (List Nat × List Byte)
  | [], e => some ([], e)
  | c :: cs, e =>
    if c = 3 then match e with
      | x :: rest => (unpackExps emax cs rest).map fun (l, r) => (x.toNat :: l, r)
      | [] => none
    else if c ≤ emax then (unpackExps emax cs e).map fun (l, r) => ((emax - c) :: l, r) else none

/-- One group from the front of a packed payload: its words and the rest. -/
def unpackGroup (l : List Byte) : Option (List Nat × List Byte) :=
  let nesc := (l.getD 1 0).toNat
  let whole := 2 + 208 + nesc
  let n? := if l.length ≥ whole then some 64
    else (List.range 64).find? fun n => decide (0 < n) && l.length == 2 + ceilDiv (26 * n) 8 + nesc
  match n? with
  | none => none
  | some n =>
    let x := leNat (sliceList l 2 (ceilDiv (26 * n) 8))
    let slots := (List.range n).map fun i => fld x (26 * i + 25) (26 * i)
    let codes := slots.map fun s => fld s 24 23
    if (codes.filter (· == 3)).length ≠ nesc then none
    else
      let esc := sliceList l (2 + ceilDiv (26 * n) 8) nesc
      match unpackExps (l.getD 0 0).toNat codes esc with
      | none => none
      | some (es, _) =>
        some ((slots.zip es).map (fun (s, e) => s % 2 ^ 23 + e * 2 ^ 23 + (if bitOf s 25 then 2 ^ 31 else 0)),
          l.drop (2 + ceilDiv (26 * n) 8 + nesc))

/-- The bytes a packed payload expands to; none where it is malformed. -/
def unpackGo : Nat → List Byte → Option (List Byte)
  | 0, _ => some []
  | n + 1, l =>
    if l.isEmpty then some []
    else match unpackGroup l with
      | none => none
      | some (ws, rest) => (unpackGo n rest).map fun b => ws.flatMap (leBytes 4) ++ b

def unpack (l : List Byte) : Option (List Byte) := unpackGo (l.length + 1) l

/-- The bytes of a DATA payload; none where a packed payload is malformed. -/
def TxFrame.expanded (f : TxFrame) : Option (List Byte) := if f.packed then unpack f.payload else some f.payload

/-! ## The window -/

/-- Send waiting frames while fewer than 256 are unacknowledged (R386). A frame of kind DATA joins the digest of what the
channel sent when it is first sent (R428). -/
def State.pumpGo (s : State) (c : Nat) : Nat → State
  | 0 => s
  | n + 1 =>
    let ch := s.chan c
    match ch.peer, ch.waiting with
    | some p, f :: rest =>
      if ch.st == .open' && ch.resetting.isNone && ch.unacked.length < 256 then
        let s1 := s.setChan c { ch with
          waiting := rest
          unacked := ch.unacked ++ [⟨ch.txNext, f, false, 0⟩]
          sent := if f.op % 8 = 0 then ch.sent.add (f.expanded.getD []) else ch.sent
          txNext := (ch.txNext + 1) % 2 ^ 32 }
        (s1.sendFrame c 0 p ch.txNext f 0).pumpGo c n
      else s
    | _, _ => s

def State.pump (s : State) (c : Nat) : State := s.pumpGo c ((s.chan c).waiting.length + 1)

/-- Queue DATA frames on a channel and send what the window takes. -/
def State.pushFrames (s : State) (c : Nat) (l : List TxFrame) : State :=
  (s.updChan c fun ch => { ch with waiting := ch.waiting ++ l }).pump c

/-- The SEQ the next frame queued on a channel will have. -/
def Chan.nextSeq (c : Chan) : Nat := (c.txNext + c.waiting.length) % 2 ^ 32

/-- Every frame up to `seq` has been sent and acknowledged. -/
def Chan.ackedTo (c : Chan) (seq : Nat) : Bool :=
  decide (seqSub c.txNext (seq + 1) < 2 ^ 31) && !(c.unacked.any fun u => decide (seqSub seq u.seq < 2 ^ 31))

/-- Everything queued on a channel has been acknowledged. -/
def Chan.idle (c : Chan) : Bool := c.unacked.isEmpty && c.waiting.isEmpty

/-! ## Acknowledgement and retransmission (R386, R389) -/

/-- Frames a SACK of `ack` names. -/
def sackedSeqs (ack sack : Nat) : List Nat := (bitsOf 32 sack).map fun i => (ack + 1 + i) % 2 ^ 32

/-- Resend the unacknowledged frames that three or more later frames in a received SACK have passed (R389). -/
def State.resendGaps (s : State) (c : Nat) (sacked : List Nat) : State :=
  let late (u : Unacked) : Bool := decide (3 ≤ (sacked.filter fun q => decide (seqSub q u.seq < 2 ^ 31)).length)
  let ch := s.chan c
  match ch.peer with
  | none => s
  | some p =>
    let again := ch.unacked.filter late
    let s1 := s.setChan c { ch with unacked := ch.unacked.map fun u => if late u then { u with resent := true } else u }
    foldS (fun (t : State) (u : Unacked) => t.sendFrame c 0 p u.seq u.frame u.expiries) s1 again

/-- A received ACK and SACK acknowledge frames; RTO returns to its formula on a smoothed round trip that the spec leaves
to the sender's measuring (R389, log entry 6). -/
def State.takeAck (s : State) (c ack sack : Nat) : State :=
  let ch := s.chan c
  let first := (ch.unacked.head?.map (·.seq)).getD ch.txNext
  if seqSub ack first > seqSub ch.txNext first then s
  else
    let sk := sackedSeqs ack sack
    let acked (u : Unacked) : Bool := decide (seqSub u.seq ack ≥ 2 ^ 31) || sk.contains u.seq
    let gone := ch.unacked.filter acked
    let rest := ch.unacked.filter fun u => !acked u
    let (srtt, s1) := if gone.any fun u => !u.resent then let (x, t) := s.free; (some x, t) else (ch.srtt, s)
    let rto := if gone.isEmpty then ch.rto else match srtt with
      | some x => max (8 * x) 20000
      | none => 100000
    ((s1.setChan c { ch with unacked := rest, srtt := srtt, rto := rto }).resendGaps c sk).pump c

/-- RTO_EXPIRY of one frame: it is sent again to the next MAC in turn and RTO doubles, up to 2 ms (R389, R390). -/
def State.rtoExpiry (s : State) (c seq : Nat) : State :=
  let ch := s.chan c
  match ch.peer, ch.unacked.find? fun u => u.seq == seq with
  | some p, some u =>
    if ch.st == .open' && ch.resetting.isNone then
      let s1 := s.setChan c { ch with
        unacked := ch.unacked.map fun v => if v.seq == seq then { v with resent := true, expiries := v.expiries + 1 } else v
        rto := min (2 * ch.rto) 2000000 }
      s1.sendFrame c 0 p seq u.frame (u.expiries + 1)
    else s
  | _, _ => s

/-- RTO_EXPIRY. -/
def execRtoExpiry (ch seq : Nat) (s : State) : Host.Outcome State Fault Refusal :=
  .next (if s.halted then s else s.rtoExpiry ch seq)

/-- ACK_TIMER: an ACK for what has been accepted and not acknowledged (R388). -/
def execAckTimer (ch : Nat) (s : State) : Host.Outcome State Fault Refusal :=
  .next (if s.halted || (s.chan ch).ackDue = 0 then s else s.sendAck ch)

/-! ## Failure (R391) -/

/-- The channel record of R391. -/
def State.chanRecord (s : State) (c cause seq : Nat) : List Byte :=
  let ch := s.chan c
  let p := (ch.peer.getD ⟨0, 0, 0⟩)
  let tag := ((ch.user.bind s.desc).map Desc.tag).getD 0
  leBytes 4 (0x06 + cause * 256) ++ leBytes 4 tag ++ leBytes 8 s.tickNo ++ leBytes 4 (c % 512 + p.pkg % 65536 * 65536) ++
    leBytes 4 (p.part % 8 + p.ch % 512 * 8) ++ leBytes 4 seq ++ List.replicate 36 0

/-- Note that a record belongs to a descriptor. -/
def State.markExc (s : State) (r : Option DRef) (n : Nat) : State :=
  match r with
  | some r => s.updDesc r fun d => { d with exc := d.exc || n != 0 }
  | none => s

/-- Write a channel record to the exception ring of the channel's partition. -/
def State.recordChan (s : State) (c cause seq : Nat) : State :=
  match s.chanPart c with
  | none => s
  | some p =>
    let (t, n) := s.exception p (s.chanRecord c cause seq) false
    t.markExc (s.chan c).user n

/-- A channel fails (R391). -/
def State.failChan (s : State) (c cause : Nat) : State :=
  let ch := s.chan c
  let seq := if cause = 2 then ch.rxNext else (ch.unacked.head?.map (·.seq)).getD ch.txNext
  (s.recordChan c cause seq).updChan c fun x => { x with st := .failed }

/-- CHANNEL_FAIL_TIMEOUT: a frame has stayed unacknowledged for FAIL_MS. -/
def execChannelFailTimeout (ch : Nat) (s : State) : Host.Outcome State Fault Refusal :=
  .next (if s.halted || (s.chan ch).st != .open' || (s.chan ch).unacked.isEmpty then s else s.failChan ch 1)

/-! ## Reset (R392) -/

/-- Discard what a channel holds; both directions restart at SEQ 0. -/
def Chan.discard (c : Chan) : Chan :=
  { c with unacked := [], waiting := [], held := [], txNext := 0, rxNext := 0, ackDue := 0, bases := [], stale := 0 }

/-- Send the CH_RESET of a reset in progress. -/
def State.sendReset (s : State) (c : Nat) : State :=
  match (s.chan c).resetting with
  | some r => s.sendFrame c 4 r.to' (s.chan c).resetNo TxFrame.none 0
  | none => s

/-- Begin a reset of a channel of partition `p` towards the peer the channel is bound to; `rebind` opens it afterwards, and `record`
says that a timeout is recorded. -/
def State.startReset (s : State) (c p : Nat) (rebind record : Bool) : State :=
  let ch := s.chan c
  match ch.peer with
  | none => s.setChan c { ch.discard with st := .closed, resetting := none }
  | some q =>
    (s.setChan c { ch.discard with
      resetNo := (ch.resetNo + 1) % 2 ^ 32
      resetting := some ⟨q, if rebind then some q else none, record, p⟩ }).sendReset c

/-- CH_RESET_RETRY: the CH_RESET is sent again every 100 µs. -/
def execChResetRetry (ch : Nat) (s : State) : Host.Outcome State Fault Refusal := .next (if s.halted then s else s.sendReset ch)

/-- CH_RESET_TIMEOUT: no acknowledgement in 10 ms; the channel becomes CLOSED. -/
def State.resetTimeout (s : State) (c : Nat) : State :=
  match (s.chan c).resetting with
  | none => s
  | some r =>
    let s1 := if r.record then s.recordChan c 3 (s.chan c).txNext else s
    s1.updChan c fun x => { x with st := .closed, peer := none, resetting := none }

/-- CH_RESET_TIMEOUT. -/
def execChResetTimeout (ch : Nat) (s : State) : Host.Outcome State Fault Refusal :=
  .next (if s.halted then s else s.resetTimeout ch)

/-! ## A received frame at the MAC (R380, R385, R394) -/

end Sys2Proof.Machine

namespace Sys2Proof

/-- A field of a received header. -/
def RxFrame.w (f : RxFrame) (o n : Nat) : Nat := leNat (sliceList f.hdr o n)
def RxFrame.typ (f : RxFrame) : Nat := fld (f.w 0 4) 7 4
def RxFrame.version (f : RxFrame) : Nat := fld (f.w 0 4) 3 0
def RxFrame.hops (f : RxFrame) : Nat := fld (f.w 0 4) 15 12
def RxFrame.len (f : RxFrame) : Nat := f.w 2 2
def RxFrame.srcPkg (f : RxFrame) : Nat := f.w 4 2
def RxFrame.dstPkg (f : RxFrame) : Nat := f.w 6 2
def RxFrame.src (f : RxFrame) : Machine.Peer := ⟨f.srcPkg, fld (f.w 8 4) 11 9, fld (f.w 8 4) 8 0⟩
def RxFrame.dstCh (f : RxFrame) : Nat := fld (f.w 8 4) 24 16
def RxFrame.dstPart (f : RxFrame) : Nat := fld (f.w 8 4) 27 25
def RxFrame.seq (f : RxFrame) : Nat := f.w 0xC 4
def RxFrame.ackNo (f : RxFrame) : Nat := f.w 0x10 4
def RxFrame.sackNo (f : RxFrame) : Nat := f.w 0x14 4
def RxFrame.addr (f : RxFrame) : Nat := f.w 0x18 8 % 2 ^ 44
def RxFrame.op (f : RxFrame) : Nat := f.w 0x18 8 / 2 ^ 44
def RxFrame.kind (f : RxFrame) : Nat := fld f.op 2 0
def RxFrame.tx (f : RxFrame) : Machine.TxFrame :=
  ⟨bitOf (f.w 0 4) 8, bitOf (f.w 0 4) 9, bitOf (f.w 0 4) 10, f.op, f.addr, f.payload⟩

end Sys2Proof

namespace Sys2Proof.Machine

/-- What a MAC does with a frame: drop it and count it under a counter, or take it. -/
inductive MacVerdict where
  | size | fcs | filter | e2e | buffer | ignore | take
deriving DecidableEq, Repr

/-- EtherType of PTP messages (R380, R396). -/
def ptpEtype : Nat := 0x88F7

/-- Bytes of a MAC's receive buffer (R394). -/
def rxBufferLen : Nat := 4 * 2 ^ 20

/-- The checks every received Ethernet frame meets (R380): size, FCS, EtherType and VID. -/
def State.etherVerdict (s : State) (m size etype vid : Nat) (fcsOk : Bool) : MacVerdict :=
  if !s.transportOn || !s.macExists m || !(s.mac m).up then .ignore
  else if size > 9216 then .size
  else if !fcsOk then .fcs
  else if (etype ≠ s.fab.etype ∧ etype ≠ ptpEtype) ∨ vid ≠ s.fab.vid then .filter
  else .take

/-- A CH_RESET_ACK for a reset whose partition may be gone (R392). -/
def State.answersReset (s : State) (f : RxFrame) : Bool :=
  f.typ == 5 && (match (s.chan f.dstCh).resetting with
    | some r => r.srcPart == f.dstPart
    | none => false)

/-- The checks of R380 in its order, the channel range of R385 for frames of channels, and the receive buffer, at which DATA
frames are lost when it is full (R394; with PFC_EN 1 too, log entry 36). A PTP frame is no Ifeine frame. -/
def State.macVerdict (s : State) (f : RxFrame) : MacVerdict :=
  let group := f.typ == 2 || f.typ == 3
  let v := s.etherVerdict f.mac f.size f.etype f.vid f.fcsOk
  if v ≠ .take then v
  else if f.etype ≠ s.fab.etype then .ignore
  else if f.hdr.length ≠ 32 ∨ f.len ≠ f.payload.length ∨ f.e2e ≠ crc32c (f.hdr ++ f.payload) then .e2e
  else if f.version ≠ 1 ∨ f.typ > 5 then .filter
  else if !group && f.dstPkg ≠ s.fab.pkg then .ignore
  else if !(s.mac f.mac).heard && f.typ ≠ 2 then .ignore
  else if !group && s.chanPart f.dstCh ≠ some f.dstPart && !s.answersReset f then .filter
  else if f.typ = 0 ∧ f.fill > rxBufferLen then .buffer
  else .take

/-- Count a verdict at the MAC (R552). -/
def State.countVerdict (s : State) (m : Nat) (v : MacVerdict) : State :=
  let q := s.mac m
  match v with
  | .size => s.setMac m { q with dropSize := q.dropSize + 1 }
  | .fcs => s.setMac m { q with dropFcs := q.dropFcs + 1 }
  | .filter => s.setMac m { q with dropFilter := q.dropFilter + 1 }
  | .e2e => s.setMac m { q with dropE2e := q.dropE2e + 1 }
  | .buffer => s.setMac m { q with dropBuffer := q.dropBuffer + 1 }
  | .ignore => s
  | .take => s.setMac m { q with rxOk := q.rxOk + 1 }

/-- With PFC_EN 1 a MAC pauses DATA_PCP when its receive buffer passes 75 % full, and releases it below 50 % (R394). The
fill is what the arriving frame finds (log entry 36). -/
def State.pfcWatch (s : State) (m fill : Nat) : State :=
  let q := s.mac m
  let send (on : Bool) : State :=
    (s.setMac m { q with
      pfcOn := on
      pfcSentCount := q.pfcSentCount + 1 }).emit (.pfc m s.fab.dataPcp on)
  if !s.fab.pfcEn then s
  else if !q.pfcOn ∧ 4 * fill > 3 * rxBufferLen then send true
  else if q.pfcOn ∧ 2 * fill < rxBufferLen then send false
  else s

/-- A frame is counted at its MAC, and the fill of the receive buffer noted. -/
def State.countFrame (s : State) (f : RxFrame) (v : MacVerdict) : State :=
  if v = .ignore then s else (s.countVerdict f.mac v).pfcWatch f.mac f.fill

/-- A channel may take a frame of a sender: OPEN, bound to it and not being reset (R387, R392). -/
def Chan.takes (c : Chan) (src : Peer) : Bool := c.st == .open' && c.peer == some src && c.resetting.isNone

/-- The ACK and SACK of a frame on a channel bound to its sender. -/
def State.rxAck (s : State) (f : RxFrame) : State :=
  if (s.chan f.dstCh).takes f.src then s.takeAck f.dstCh f.ackNo f.sackNo else s

/-- Accept a DATA frame into the channel: hold it, and name the frames that are now in order (R387). The second value says
that an ACK is due at once (R388). -/
def State.acceptData (s : State) (c seq : Nat) (f : TxFrame) : State × List TxFrame × Bool :=
  let ch := s.chan c
  let d := seqSub seq ch.rxNext
  if d ≥ 2 ^ 31 then (s, [], true)
  else if d ≥ 256 then (s, [], !ch.held.isEmpty)
  else if ch.held.any fun h => h.1 == seq then (s, [], true)
  else
    let held := ch.held ++ [(seq, f)]
    let run := (List.range 257).map fun i => held.find? fun h => h.1 == (ch.rxNext + i) % 2 ^ 32
    let ready := (run.takeWhile Option.isSome).filterMap id
    let next := (ch.rxNext + ready.length) % 2 ^ 32
    let rest := held.filter fun h => !(ready.any fun q => q.1 == h.1)
    let due := ch.ackDue + 1
    (s.setChan c { ch with held := rest, rxNext := next, ackDue := due }, ready.map (·.2),
      decide (due ≥ 8) || !rest.isEmpty || !ch.held.isEmpty)

/-! ## Start-up steps 4 to 6 (R401 to R403) -/

/-- A port is enabled. -/
def State.portOn (s : State) (p : Nat) : Bool := tget 0 s.fab.enable p == 1

/-- The MACs of the enabled ports. -/
def State.enabledMacs (s : State) : List Nat := (List.range 32).filter fun m => s.portOn (m / 4) && s.macExists m

/-- Every up MAC has heard a HELLO or is ISOLATED (R402). -/
def State.helloDone (s : State) : Bool :=
  (List.range 32).all fun m => !(s.mac m).up || (s.mac m).heard || (s.mac m).isolated

/-- The census group frame of a MAC: HELLO or CENSUS. -/
def State.groupFrame (s : State) (m typ hops : Nat) (payload : List Byte) : State :=
  s.transmit m s.fab.ctrlPcp (.frame m (s.frameBytes m s.fab.ctrlPcp s.groupAddr
    (header typ false false false hops payload.length s.fab.pkg 0 0 0 0 0 0 0 0 0 0) payload))

/-- A census record (R403). -/
def censusRecord (pkg dist macs nonce : Nat) : List Byte :=
  leBytes 4 (pkg % 65536 + dist % 16 * 65536 + macs % 64 * 2 ^ 20) ++ leBytes 4 nonce

/-- Write a package's entry of the reachability table (R406). -/
def State.setReach (s : State) (pkg dist macs nonce : Nat) : State :=
  (s.wrN (reachBase + 8 * pkg) 8 (1 + dist % 16 * 2 + macs % 64 * 32 + nonce % 2 ^ 32 * 2 ^ 32)).unpoison (reachBase + 8 * pkg)

/-- Packages present in the table (R400, R406). -/
def State.present (s : State) : Nat :=
  (s.mem.filter fun (e : Host.Cell) => decide (reachBase ≤ e.1 ∧ e.1 < reachBase + 0x80000 ∧ e.1 % 8 = 0) && bitOf e.2.toNat 0).length

/-- Send the own record from every joined MAC, DIST 0, HOPS the limit (R403). -/
def State.sendOwn (s : State) : State :=
  let n := s.fab.nonce.getD 0
  let k := s.usableMacs.length
  let s1 := s.setReach s.fab.pkg 0 k n
  foldS (fun (t : State) m => t.groupFrame m 3 t.fab.hopLimit (censusRecord t.fab.pkg 0 k n)) s1 s1.usableMacs

/-- The nonce of the last cold reset: a random value (R403; log entry 6). -/
def State.drawNonce (s : State) : State :=
  match s.fab.nonce with
  | some _ => s
  | none => let (x, t) := s.freeBelow (2 ^ 32); { t with fab := { t.fab with nonce := some x } }

/-- Steps 4 and 5 follow one another once their work is done, step 4 also 5 s after START with the MACs that are up; with none
start-up stops. The census begins with the own record (R401 to R403). -/
def State.settleFabric (s : State) : State :=
  let l := s.enabledMacs
  let some' := l.any fun m => (s.mac m).up
  let now' := s.fab.started && !s.fab.stopped && s.fab.step == 3
  let s1 := if now' && some' && (s.fab.linkLate || l.all fun m => (s.mac m).up) then
      { s with fab := { s.fab with step := 4 } }
    else if now' && s.fab.linkLate then { s with fab := { s.fab with stopped := true } }
    else s
  if s1.fab.step = 4 ∧ !s1.fab.stopped ∧ s1.helloDone then
    ({ s1 with fab := { s1.fab with step := 5 } }).drawNonce.sendOwn
  else s1

end Sys2Proof.Machine
end

