-- ==== Sys2Proof/Machine/Float.lean ====
section
/-!
DEFINITION. Exact values and their rounding: FP32, BF16, W48, FP32X, and the draws of stochastic rounding.

Arithmetic is exact on signed dyadic numbers and rounds once at the end (R44, R60, R61).
-/

namespace Sys2Proof.Machine

/-- An exact value: NaN, an infinity, or (−1)^s · m · 2^e. A zero keeps its sign. -/
inductive Fp where
  | nan
  | inf (s : Bool)
  | fin (s : Bool) (m : Nat) (e : Int)
deriving DecidableEq, Repr

/-- Rounding: to nearest even (`none`), or stochastic with the upper half of a draw (R60, R61). -/
abbrev Rnd := Option Nat

def Fp.zero : Fp := .fin false 0 0
def Fp.ofNat (n : Nat) : Fp := .fin false n 0
def Fp.ofInt (i : Int) : Fp := .fin (decide (i < 0)) i.natAbs 0

def Fp.isNaN : Fp → Bool
  | .nan => true
  | .inf _ | .fin _ _ _ => false

def Fp.isFin : Fp → Bool
  | .fin _ _ _ => true
  | .nan | .inf _ => false

def Fp.isZero : Fp → Bool
  | .fin _ 0 _ => true
  | .nan | .inf _ | .fin _ (_ + 1) _ => false

def Fp.sign : Fp → Bool
  | .nan => false
  | .inf s => s
  | .fin s _ _ => s

/-- 2 to a non-negative power, 1 for a negative one. -/
def pow2 (k : Int) : Nat := 2 ^ k.toNat

/-- m · 2^e as numerator and denominator. -/
def ratio (m : Nat) (e : Int) : Nat × Nat := (m * pow2 e, pow2 (-e))

/-- Round num/den to an integer, away from exactness by `r` (R60, R61). -/
def roundRat (r : Rnd) (num den : Nat) : Nat :=
  let f := num / den
  let rem := num % den
  match r with
  | none => if 2 * rem > den ∨ (2 * rem = den ∧ f % 2 = 1) then f + 1 else f
  | some u => if u < ceilDiv (rem * 2 ^ 32) den then f + 1 else f

/-- The largest k with 2^k ≤ num/den; num and den are not 0. -/
def floorLog2Rat (num den : Nat) : Int :=
  let l : Int := (Nat.log2 num : Int) - Nat.log2 den
  if den * pow2 l ≤ num * pow2 (-l) then l else l - 1

/-- The smallest k with num/den ≤ 2^k; num and den are not 0. -/
def ceilLog2Rat (num den : Nat) : Int :=
  let l : Int := (Nat.log2 num : Int) - Nat.log2 den
  if num * pow2 (-l) ≤ den * pow2 l then l else l + 1

/-- A binary format with gradual underflow: precision, exponent of the least step, the pattern of infinity. -/
structure FpFmt where
  p : Nat
  qmin : Int
  infW : Nat
deriving DecidableEq, Repr

def fmt32 : FpFmt := ⟨24, -149, 0x7F800000⟩
def fmtBf : FpFmt := ⟨8, -133, 0x7F80⟩

/-- The magnitude pattern of (num/den)·2^e rounded once. -/
def roundMag (f : FpFmt) (r : Rnd) (num den : Nat) (e : Int) : Nat :=
  if num = 0 then 0
  else
    let q : Int := max (floorLog2Rat num den + e - (f.p - 1 : Nat)) f.qmin
    let n := roundRat r (num * pow2 (e - q)) (den * pow2 (q - e))
    min ((q - f.qmin).toNat * 2 ^ (f.p - 1) + n) f.infW

/-- Sign bit of a format's word. -/
def FpFmt.signW (f : FpFmt) (s : Bool) : Nat := if s then 2 * 2 ^ (Nat.log2 f.infW) else 0

/-- A quiet NaN of the format (R74). -/
def FpFmt.nanW (f : FpFmt) : Nat := f.infW + 2 ^ (f.p - 2)

/-- The word of a value, rounded once. -/
def Fp.enc (f : FpFmt) (r : Rnd) : Fp → Nat
  | .nan => f.nanW
  | .inf s => f.signW s + f.infW
  | .fin s m e => f.signW s + roundMag f r m 1 e

/-- FP32 word by RNE. -/
def enc32 (x : Fp) : Nat := x.enc fmt32 none
/-- BF16 word. -/
def encBf (r : Rnd) (x : Fp) : Nat := x.enc fmtBf r

/-- The value of an FP32 word (R44). -/
def of32 (w : Nat) : Fp :=
  let s := bitOf w 31
  let ex : Nat := w / 2 ^ 23 % 256
  let fr : Nat := w % 2 ^ 23
  if ex = 255 then (if fr = 0 then .inf s else .nan)
  else if ex = 0 then .fin s fr (-149)
  else .fin s (2 ^ 23 + fr) ((ex : Int) - 150)

/-- The value of a BF16 word: the upper half of an FP32 word (R44). -/
def ofBf (w : Nat) : Fp := of32 (w % 2 ^ 16 * 2 ^ 16)

def Fp.neg : Fp → Fp
  | .nan => .nan
  | .inf s => .inf !s
  | .fin s m e => .fin (!s) m e

def Fp.abs : Fp → Fp
  | .nan => .nan
  | .inf _ => .inf false
  | .fin _ m e => .fin false m e

/-- A signed number m · 2^e, with the sign of a zero given. -/
def Fp.ofSigned (zs : Bool) (i : Int) (e : Int) : Fp := if i = 0 then .fin zs 0 0 else .fin (decide (i < 0)) i.natAbs e

/-- Signed mantissa at a common exponent `b` ≤ e. -/
def signedAt (s : Bool) (m : Nat) (e b : Int) : Int := (if s then -1 else 1) * ((m * pow2 (e - b) : Nat) : Int)

/-- Exact sum. An exact zero sum of two values that are not both −0 is +0. -/
def Fp.add : Fp → Fp → Fp
  | .nan, _ | _, .nan => .nan
  | .inf s, .inf t => if s = t then .inf s else .nan
  | .inf s, .fin _ _ _ => .inf s
  | .fin _ _ _, .inf t => .inf t
  | .fin s m e, .fin t n f =>
    let b := min e f
    Fp.ofSigned (s && t && m == 0 && n == 0) (signedAt s m e b + signedAt t n f b) b

def Fp.sub (a b : Fp) : Fp := a.add b.neg

/-- Exact product. -/
def Fp.mul : Fp → Fp → Fp
  | .nan, _ | _, .nan => .nan
  | .inf s, .inf t => .inf (s != t)
  | .inf s, .fin t n _ => if n = 0 then .nan else .inf (s != t)
  | .fin s m _, .inf t => if m = 0 then .nan else .inf (s != t)
  | .fin s m e, .fin t n f => .fin (s != t) (m * n) (e + f)

/-- Exact a × b + c. -/
def Fp.fma (a b c : Fp) : Fp := (a.mul b).add c

/-- Exact multiplication by 2^k. -/
def Fp.scale (x : Fp) (k : Int) : Fp :=
  match x with
  | .nan => .nan
  | .inf s => .inf s
  | .fin s m e => .fin s m (e + k)

/-- Ordering of two values that are not NaN, as the sign of a − b. -/
def Fp.cmp : Fp → Fp → Int
  | .nan, _ | _, .nan => 0
  | .inf s, .inf t => if s = t then 0 else if s then -1 else 1
  | .inf s, .fin _ _ _ => if s then -1 else 1
  | .fin _ _ _, .inf t => if t then 1 else -1
  | .fin s m e, .fin t n f =>
    let b := min e f
    let d := signedAt s m e b - signedAt t n f b
    if d < 0 then -1 else if d = 0 then 0 else 1

/-- a < b; false with a NaN (R77). -/
def Fp.lt (a b : Fp) : Bool := !a.isNaN && !b.isNaN && decide (a.cmp b < 0)
def Fp.le (a b : Fp) : Bool := !a.isNaN && !b.isNaN && decide (a.cmp b ≤ 0)
def Fp.eq (a b : Fp) : Bool := !a.isNaN && !b.isNaN && decide (a.cmp b = 0)

/-- maximumNumber (R76): a NaN is ignored; of two zeros +0 wins. -/
def Fp.max (a b : Fp) : Fp :=
  if a.isNaN then b
  else if b.isNaN then a
  else if a.cmp b > 0 then a
  else if a.cmp b < 0 then b
  else if a.sign then b else a

/-- minimumNumber (R76): a NaN is ignored; of two zeros −0 wins. -/
def Fp.min (a b : Fp) : Fp :=
  if a.isNaN then b
  else if b.isNaN then a
  else if a.cmp b < 0 then a
  else if a.cmp b > 0 then b
  else if a.sign then a else b

/-- Quotient a / b rounded once into a format. -/
def fpDiv (f : FpFmt) : Fp → Fp → Nat
  | .nan, _ | _, .nan => f.nanW
  | .inf _, .inf _ => f.nanW
  | .inf s, .fin t _ _ => f.signW (s != t) + f.infW
  | .fin s _ _, .inf t => f.signW (s != t)
  | .fin s m e, .fin t n g =>
    if n = 0 then (if m = 0 then f.nanW else f.signW (s != t) + f.infW)
    else f.signW (s != t) + roundMag f none m n (e - g)

/-- The floor of the square root, bit by bit from bit `k` down. -/
def isqrtGo (n : Nat) : Nat → Nat → Nat
  | 0, r => if (r + 1) * (r + 1) ≤ n then r + 1 else r
  | k + 1, r => let c := r + 2 ^ (k + 1); isqrtGo n k (if c * c ≤ n then c else r)

/-- The floor of the square root. -/
def isqrt (n : Nat) : Nat := isqrtGo n (Nat.log2 n / 2) 0

/-- The root of m · 2^e, m not 0, as a value that rounds as the exact root does: 100 or more bits, and a half step more
where the root is inexact. -/
def sqrtFin (m : Nat) (e : Int) : Nat × Int :=
  let k : Int := 200 + (if (e - 200) % 2 = 0 then 0 else 1)
  let n := m * pow2 k
  let r := isqrt n
  let h : Int := (e - k) / 2
  if r * r = n then (2 * r, h - 1) else (2 * r + 1, h - 1)

/-- Square root rounded once; −0 gives −0, a negative number NaN. -/
def fpSqrt (f : FpFmt) : Fp → Nat
  | .nan => f.nanW
  | .inf s => if s then f.nanW else f.infW
  | .fin s m e =>
    if m = 0 then f.signW s
    else if s then f.nanW
    else let (r, h) := sqrtFin m e; roundMag f none r 1 h

/-- 1/√x rounded once; ±0 gives ±∞. -/
def fpRsqrt (f : FpFmt) : Fp → Nat
  | .nan => f.nanW
  | .inf s => if s then f.nanW else 0
  | .fin s m e =>
    if m = 0 then f.signW s + f.infW
    else if s then f.nanW
    else
      -- 1/√x = √(m·2^e)/(m·2^e), the root bracketed and sticky
      let (r, h) := sqrtFin m e
      roundMag f none r m (h - e)

/-! ## W48 (R45, R74) -/

/-- The value of a W48 word; reserved encodings read as signed zero. -/
def of48 (w : Nat) : Fp :=
  let s := bitOf w 47
  let ex : Nat := w / 2 ^ 37 % 1024
  let m : Nat := w % 2 ^ 37
  if ex = 1023 then (if m = 0 then .inf s else .nan)
  else if ex = 0 ∨ m < 2 ^ 36 then .fin s 0 0
  else .fin s m ((ex : Int) - 547)

def nan48 : Nat := 1023 * 2 ^ 37 + 2 ^ 36
def sign48 (s : Bool) : Nat := if s then 2 ^ 47 else 0

/-- top(v) of R92: floor(log2 |v|) of a non-zero value. -/
def topOf (m : Nat) (e : Int) : Int := (Nat.log2 m : Int) + e

/-- trunc(v / 2^g) with the sign of v. -/
def truncAt (s : Bool) (m : Nat) (e g : Int) : Int :=
  let n := m * pow2 (e - g) / pow2 (g - e)
  if s then -(n : Int) else n

/-- The low bits of a magnitude cut so that 37 bits stay. -/
def keep37 (m : Nat) : Nat := let d := Nat.log2 m - 36; m / 2 ^ d * 2 ^ d

/-- add48 of R92. -/
def add48 : Fp → Fp → Fp
  | .nan, _ | _, .nan => .nan
  | .inf s, .inf t => if s = t then .inf s else .nan
  | .inf s, .fin _ _ _ => .inf s
  | .fin _ _ _, .inf t => .inf t
  | .fin s m e, .fin t n f =>
    if n = 0 then .fin s m e
    else
      let T := if m = 0 then topOf n f else max (topOf m e) (topOf n f)
      let g := T - 39
      let r := truncAt s m e g + truncAt t n f g
      if r = 0 then .fin false 0 0
      else
        let rs := decide (r < 0)
        let rm := keep37 r.natAbs
        if topOf rm g ≥ 512 then .inf rs
        else if topOf rm g < -510 then .fin rs 0 0
        else .fin rs rm g

/-- add48 produced a NaN: infinities of opposite sign (R92). -/
def add48Produced (p q : Fp) : Bool := !p.isNaN && !q.isNaN && (add48 p q).isNaN

/-- The W48 word of a value that W48 holds exactly (R45, R74); M[36] is 1. -/
def enc48 : Fp → Nat
  | .nan => nan48
  | .inf s => sign48 s + 1023 * 2 ^ 37
  | .fin s m e =>
    if m = 0 then sign48 s
    else
      let k : Int := 36 - Nat.log2 m
      sign48 s + (e - k + 547).toNat * 2 ^ 37 + m * pow2 k / pow2 (-k)

/-! ## FP32X (R47, R48) -/

/-- The exponent of ulp(h) for a finite FP32 word. -/
def ulpExp32 (w : Nat) : Int := (max (w / 2 ^ 23 % 256) 1 : Nat) - 150

/-- The value of a pair (h, r), r a 16-bit two's-complement residue (R47). -/
def ofX (h r : Nat) : Fp :=
  match of32 h with
  | .fin s m e =>
    let rr : Int := if r < 2 ^ 15 then r else (r : Int) - 2 ^ 16
    if rr = 0 then .fin s m e else (Fp.fin s m e).add (Fp.ofInt rr |>.scale (ulpExp32 h - 16))
  | .nan => .nan
  | .inf s => .inf s

/-- The next FP32 word above a finite one. -/
def nextUp32 (w : Nat) : Nat := if w = 2 ^ 31 then 1 else if bitOf w 31 then w - 1 else w + 1

/-- The canonical pair of an exact value (R48). -/
def encX (x : Fp) : Nat × Nat :=
  let h := enc32 x
  match x, of32 h with
  | .fin s m e, .fin hs hm he =>
    match (Fp.fin s m e).sub (.fin hs hm he) with
    | .fin ds dm de =>
      let u := ulpExp32 h - 16
      let q := roundRat none (dm * pow2 (de - u)) (pow2 (u - de))
      if ds then (h, (2 ^ 16 - q) % 2 ^ 16)
      else if q = 32768 then
        (if nextUp32 h = 0x7F800000 then (h, 32767) else (nextUp32 h, 32768))
      else (h, q)
    | .nan | .inf _ => (h, 0)
  | _, _ => (h, 0)

/-! ## Draws (R62) -/

def golden : W64 := 0x9E3779B97F4A7C15

/-- mix of R62. -/
def mix (z0 : W64) : W64 :=
  let z1 := z0 ^^^ (z0 >>> 31)
  let z2 := z1 * 0xA3B195E24C6D0F87
  let z3 := z2 ^^^ (z2 >>> 29)
  let z4 := z3 * 0xC2D74F198B3EA56B
  z4 ^^^ (z4 >>> 32)

/-- key of R62. -/
def drawKey (seed step tid : Nat) : W64 :=
  mix (mix (mix (BitVec.ofNat 64 seed ^^^ golden) ^^^ BitVec.ofNat 64 step) ^^^ BitVec.ofNat 64 tid)

/-- draw of R62. -/
def draw (k : W64) (index : Nat) : W64 :=
  let z := mix (k + (BitVec.ofNat 64 index + 1) * golden)
  mix (z ^^^ k)

/-- u of R61. -/
def drawU (k : W64) (index : Nat) : Nat := (draw k index).toNat / 2 ^ 32

/-! ## Integers -/

/-- The signed number of an n-bit two's-complement field. -/
def toSigned (n w : Nat) : Int := if w % 2 ^ n < 2 ^ (n - 1) then (w % 2 ^ n : Nat) else (w % 2 ^ n : Nat) - (2 ^ n : Nat)

/-- The n-bit two's-complement field of a number. -/
def ofSigned (n : Nat) (i : Int) : Nat := (i % (2 ^ n : Nat)).toNat

/-- Round a finite value to an integer, the magnitude rounded (R60, R61). -/
def roundInt (r : Rnd) (s : Bool) (m : Nat) (e : Int) : Int :=
  let n := roundRat r (m * pow2 e) (pow2 (-e))
  if s then -(n : Int) else n

/-- Saturate into I32; true where it saturated (R68, R69). -/
def satI32 (i : Int) : Int × Bool :=
  if i < -2147483648 then (-2147483648, true) else if i > 2147483647 then (2147483647, true) else (i, false)

/-- A value as I32: the word, clipped, non-finite (R68, R69). A NaN writes 0. -/
def encI32 (r : Rnd) : Fp → Nat × Bool × Bool
  | .nan => (0, false, true)
  | .inf s => (if s then 0x80000000 else 0x7FFFFFFF, true, true)
  | .fin s m e =>
    let (i, c) := satI32 (roundInt r s m e)
    (ofSigned 32 i, c, false)

end Sys2Proof.Machine
end

