-- ==== Sys2Proof/Machine/Trans.lean ====
section
/-!
DEFINITION. The transcendental operations, correctly rounded (R144, R145).

Each function is enclosed in fixed point with P fraction bits and an error below 2^40 steps. Where both ends of the
enclosure round to one FP32 value, that value is the correctly rounded result; else P doubles.
-/

namespace Sys2Proof.Machine

/-- Σ z^(2k+1)/(2k+1), alternating for `alt`, `n` terms, in fixed point; `t` is the current power, `k` its index. -/
def atanGo (P : Nat) (alt : Bool) (zz : Int) : Nat → Nat → Int → Int → Int
  | 0, _, _, acc => acc
  | n + 1, k, t, acc =>
    let q := t / (2 * k + 1 : Nat)
    let t' := t * zz / (2 ^ P : Nat)
    atanGo P alt zz n (k + 1) t' (if alt && k % 2 == 1 then acc - q else acc + q)

/-- atanh (or atan) of a small fixed-point number. -/
def atanFix (P : Nat) (alt : Bool) (z : Int) : Int := atanGo P alt (z * z / (2 ^ P : Nat)) (P / 2 + 8) 0 z 0

/-- ln 2 = 2·atanh(1/3). -/
def ln2Fix (P : Nat) : Int := 2 * atanFix P false ((2 ^ P : Nat) / 3 : Nat)

/-- π = 16·atan(1/5) − 4·atan(1/239). -/
def piFix (P : Nat) : Int :=
  16 * atanFix P true ((2 ^ P : Nat) / 5 : Nat) - 4 * atanFix P true ((2 ^ P : Nat) / 239 : Nat)

/-- Taylor terms of exp. -/
def expGo (P : Nat) (r : Int) : Nat → Nat → Int → Int → Int
  | 0, _, _, acc => acc
  | n + 1, k, t, acc => expGo P r n (k + 1) (t * r / ((2 ^ P * (k + 1) : Nat) : Int)) (acc + t)

/-- exp of a fixed-point number of magnitude below 1. -/
def expFix (P : Nat) (r : Int) : Int := expGo P r (P / 4 + 24) 0 (2 ^ P : Nat) 0

/-- Taylor terms of sin (from k = 1) or cos (from k = 0): each term divides by the next two factorial factors. -/
def trigGo (P : Nat) (rr : Int) : Nat → Nat → Int → Int → Int
  | 0, _, _, acc => acc
  | n + 1, k, t, acc => trigGo P rr n (k + 2) (-(t * rr) / ((2 ^ P * ((k + 1) * (k + 2)) : Nat) : Int)) (acc + t)

def sinFix (P : Nat) (r : Int) : Int := trigGo P (r * r / (2 ^ P : Nat)) (P / 4 + 24) 1 r 0
def cosFix (P : Nat) (r : Int) : Int := trigGo P (r * r / (2 ^ P : Nat)) (P / 4 + 24) 0 (2 ^ P : Nat) 0

/-- Terms of Σ (−1)^n x^(2n+1)/(n!(2n+1)). -/
def erfGo (P : Nat) (xx : Int) : Nat → Nat → Int → Int → Int
  | 0, _, _, acc => acc
  | n + 1, k, t, acc =>
    erfGo P xx n (k + 1) (-(t * xx) / ((2 ^ P * (k + 1) : Nat) : Int)) (acc + t / (2 * k + 1 : Nat))

/-- A dyadic number in fixed point, rounded down. -/
def toFix (P : Nat) (s : Bool) (m : Nat) (e : Int) : Int := truncAt s m e (-(P : Int))

/-- exp of a fixed-point number: the mantissa in fixed point and a power of two. -/
def expSplit (P : Nat) (x : Int) : Int × Int :=
  let l := ln2Fix P
  let k := x / l
  (expFix P (x - k * l), k)

/-- The enclosed functions. -/
inductive Fun where
  | exp | exp2 | log | log2 | log10 | sin | cos | tanh | sigmoid | erf
deriving DecidableEq, Repr

/-- ln of m · 2^e for m > 0, in fixed point: the operand is 2^k·y with y near 1. -/
def logFix (P : Nat) (m : Nat) (e : Int) : Int :=
  let b := Nat.log2 m
  -- y = m / 2^b in [1, 2), halved when above 3/2
  let up : Nat := if 2 * m > 3 * 2 ^ b then 1 else 0
  let k : Int := e + b + up
  let den := 2 ^ (b + up)
  let z : Int := ((m : Int) - den) * (2 ^ P : Nat) / ((m + den : Nat) : Int)
  k * ln2Fix P + 2 * atanFix P false z

/-- sin and cos of a finite operand: reduce by π/2 exactly enough, then the quadrant. -/
def trigFix (P : Nat) (wantCos : Bool) (s : Bool) (m : Nat) (e : Int) : Int :=
  let Q := P + 160
  let x := toFix Q false m e
  let h := piFix Q / 2
  let q := (2 * x + h) / (2 * h)
  let r := (x - q * h) / (2 ^ 160 : Nat)
  let quad := (q + (if wantCos then 1 else 0)) % 4
  let v := if quad = 0 then sinFix P r else if quad = 1 then cosFix P r else if quad = 2 then -sinFix P r
    else -cosFix P r
  if s && !wantCos then -v else v

/-- An approximation v · 2^e of the function at a finite non-zero operand, v off by less than 2^40. -/
def Fun.value (P : Nat) (s : Bool) (m : Nat) (e : Int) (f : Fun) : Int × Int :=
  match f with
  | .log => (logFix P m e, -P)
  | .log2 => (logFix P m e * (2 ^ P : Nat) / ln2Fix P, -P)
  | .log10 => (logFix P m e * (2 ^ P : Nat) / logFix P 10 0, -P)
  | .sin => (trigFix P false s m e, -P)
  | .cos => (trigFix P true s m e, -P)
  | .exp =>
    let (v, k) := expSplit P (toFix P s m e)
    (v, k - P)
  | .exp2 =>
    let x := toFix P s m e
    let k := x / (2 ^ P : Nat)
    (expFix P ((x - k * (2 ^ P : Nat)) * ln2Fix P / (2 ^ P : Nat)), k - P)
  | .tanh =>
    let (v, k) := expSplit P (2 * toFix P s m e)
    -- tanh x = (e^2x − 1)/(e^2x + 1)
    let w : Int := v * pow2 k / pow2 (-k)
    ((w - (2 ^ P : Nat)) * (2 ^ P : Nat) / (w + (2 ^ P : Nat)), -P)
  | .sigmoid =>
    let (v, k) := expSplit P (toFix P s m e)
    let w : Int := v * pow2 k / pow2 (-k)
    (w * (2 ^ P : Nat) / (w + (2 ^ P : Nat)), -P)
  | .erf =>
    let x := toFix P s m e
    let sum := erfGo P (x * x / (2 ^ P : Nat)) (P / 2 + 120) 0 x 0
    let rootPi := isqrt ((piFix P).toNat * 2 ^ P)
    (2 * sum * (2 ^ P : Nat) / (rootPi : Int), -P)

/-- The word of v · 2^e for a signed v. -/
def encSigned (v : Int) (e : Int) : Nat := fmt32.signW (decide (v < 0)) + roundMag fmt32 none v.natAbs 1 e

/-- Round the function once, doubling the precision while the enclosure straddles a rounding boundary. -/
def Fun.roundGo (f : Fun) (s : Bool) (m : Nat) (e : Int) : Nat → Nat → Nat
  | 0, P => let (v, g) := f.value P s m e; encSigned v g
  | n + 1, P =>
    let (v, g) := f.value P s m e
    let lo := encSigned (v - 2 ^ 40) g
    if lo = encSigned (v + 2 ^ 40) g then lo else f.roundGo s m e n (2 * P)

/-- The correctly rounded function at a finite non-zero operand whose result is neither special nor out of range. -/
def Fun.round (f : Fun) (s : Bool) (m : Nat) (e : Int) : Nat := f.roundGo s m e 4 320

def one32 : Nat := 0x3F800000
def inf32 : Nat := 0x7F800000
def nan32 : Nat := 0x7FC00000
def neg32 : Nat := 0x80000000

/-- A dyadic number is an integer. -/
def isInteger (m : Nat) (e : Int) : Bool := decide (m * pow2 e % pow2 (-e) = 0)

/-- The magnitude of m · 2^e is at least n. -/
def atLeast (m : Nat) (e : Int) (n : Nat) : Bool := decide (m * pow2 e ≥ n * pow2 (-e))

/-- EXP, EXP2, LOG, LOG2, SIN, COS, TANH, SIGMOID and ERF of an FP32 value (R144, R145), and log10 for R308. -/
def Fun.eval (f : Fun) : Fp → Nat
  | .nan => nan32
  | .inf s =>
    match f with
    | .exp | .exp2 => if s then 0 else inf32
    | .log | .log2 | .log10 => if s then nan32 else inf32
    | .sin | .cos => nan32
    | .tanh | .erf => if s then neg32 + one32 else one32
    | .sigmoid => if s then 0 else one32
  | .fin s m e =>
    if m = 0 then
      match f with
      | .exp | .exp2 | .cos => one32
      | .log | .log2 | .log10 => neg32 + inf32
      | .sin | .tanh | .erf => fmt32.signW s
      | .sigmoid => 0x3F000000
    else
      match f with
      | .exp =>
        if atLeast m e 200 then (if s then 0 else inf32) else f.round s m e
      | .exp2 =>
        if atLeast m e 200 then (if s then 0 else inf32)
        else if isInteger m e then
          let k : Int := (m * pow2 e / pow2 (-e) : Nat)
          roundMag fmt32 none 1 1 (if s then -k else k)
        else f.round s m e
      | .log | .log2 | .log10 => if s then nan32 else f.round s m e
      | .sin | .cos => f.round s m e
      | .tanh => if atLeast m e 20 then fmt32.signW s + one32 else f.round s m e
      | .erf => if atLeast m e 5 then fmt32.signW s + one32 else f.round s m e
      | .sigmoid => if atLeast m e 200 then (if s then 0 else one32) else f.round s m e

end Sys2Proof.Machine
end

