-- ==== Sys2Proof/Machine/Operands.lean ====
section
/-!
DEFINITION. Every operand form: tensor descriptors and their checks, element and block reads, XC16 blocks, the
quantisers, and the writes of a running descriptor.
-/

namespace Sys2Proof.Machine

/-! ## Formats (R43, R49, R52) -/

def fFP32 : Nat := 0x01
def fBF16 : Nat := 0x02
def fFP32X : Nat := 0x03
def fW48 : Nat := 0x04
def fXC16 : Nat := 0x05
def fI32 : Nat := 0x06
def fU8 : Nat := 0x07

/-- A block format: element width, signed codes, qmax, outer scale, outlier plane. -/
structure Blk where
  bits : Nat
  signed : Bool
  qmax : Nat
  outer : Bool
  outl : Bool
deriving DecidableEq, Repr

/-- The block formats of R43 and R49. -/
def blkOf (f : Nat) : Option Blk :=
  match f with
  | 0x10 => some ⟨8, true, 127, false, false⟩
  | 0x11 => some ⟨8, false, 255, false, false⟩
  | 0x12 => some ⟨4, true, 7, true, false⟩
  | 0x13 => some ⟨4, false, 15, true, false⟩
  | 0x14 => some ⟨2, true, 1, true, false⟩
  | 0x22 => some ⟨4, true, 7, true, true⟩
  | 0x23 => some ⟨4, false, 15, true, true⟩
  | 0x24 => some ⟨2, true, 1, true, true⟩
  | _ => none

def isBlk (f : Nat) : Bool := (blkOf f).isSome

/-- Element size in bytes of a strided format (R160). -/
def stridedWidth (f : Nat) : Option Nat :=
  if f = fFP32 ∨ f = fI32 then some 4 else if f = fBF16 then some 2 else if f = fU8 then some 1 else none

/-- A format code of R43. -/
def isFormat (f : Nat) : Bool := (1 ≤ f && f ≤ 7) || isBlk f

/-- A quantiser may write the format (R66). -/
def isQuantised (f : Nat) : Bool := f == fBF16 || f == fI32 || isBlk f

/-! ## Tensor descriptors (R158 to R161) -/

/-- The tensor descriptor 64 bytes spell (R158). -/
def TensorDesc.parse (b : List Byte) : TensorDesc :=
  let w (o n : Nat) : Nat := leNat (sliceList b o n)
  let h := w 0 4
  { format := fld h 7 0, rank := fld h 9 8 + 1, blockDim := fld h 11 10, rmode := bitOf h 12, smode := bitOf h 13,
    sentryEn := bitOf h 14, sentryId := fld h 27 16, id := w 4 4, outer := w 8 4, ovfCap := w 0xC 4,
    size := [w 0x10 4, w 0x14 4, w 0x18 4, w 0x1C 4],
    word := [w 0x20 8 % 2 ^ 44, w 0x28 8, w 0x30 8, w 0x38 8],
    reserved := bitOf h 15 || decide (fld h 31 28 ≠ 0) || decide (w 0x20 8 ≥ 2 ^ 44) }

def TensorDesc.sz (t : TensorDesc) (i : Nat) : Nat := t.size.getD i 1
def TensorDesc.wd (t : TensorDesc) (i : Nat) : Nat := t.word.getD i 0
def TensorDesc.blk (t : TensorDesc) : Option Blk := blkOf t.format

/-- Stride of dimension `i` of a strided tensor. -/
def TensorDesc.stride (t : TensorDesc) (i : Nat) : Nat := if i = 0 then 1 else t.wd i

/-- Elements of a tensor. -/
def TensorDesc.count (t : TensorDesc) : Nat := t.sz 0 * t.sz 1 * t.sz 2 * t.sz 3

/-- Elements of one block (R51, R111). -/
def TensorDesc.blockLen (t : TensorDesc) : Nat := if t.format = fXC16 then 128 else 32

/-- The block shape (R54, R111). -/
def TensorDesc.blockShape (t : TensorDesc) : List Nat :=
  (List.range 4).map fun i => if i = t.blockDim then ceilDiv (t.sz i) t.blockLen else t.sz i

/-- Blocks of a block-format or XC16 tensor. -/
def TensorDesc.blocks (t : TensorDesc) : Nat := t.blockShape.foldl (· * ·) 1

/-- Coordinates of a logical element index (R160). -/
def coordsOf (size : List Nat) (i : Nat) : List Nat :=
  let a := max (size.getD 0 1) 1; let b := max (size.getD 1 1) 1; let c := max (size.getD 2 1) 1
  [i % a, i / a % b, i / (a * b) % c, i / (a * b * c)]

/-- The logical element index of coordinates (R160). -/
def indexOf (size c : List Nat) : Nat :=
  c.getD 0 0 + size.getD 0 1 * (c.getD 1 0 + size.getD 1 1 * (c.getD 2 0 + size.getD 2 1 * c.getD 3 0))

def TensorDesc.coords (t : TensorDesc) (i : Nat) : List Nat := coordsOf t.size i
def TensorDesc.index (t : TensorDesc) (c : List Nat) : Nat := indexOf t.size c

/-- Block number and position of an element (R54). -/
def TensorDesc.blockOf (t : TensorDesc) (i : Nat) : Nat × Nat :=
  let c := t.coords i
  let n := t.blockLen
  let b := (List.range 4).map fun k => if k = t.blockDim then c.getD k 0 / n else c.getD k 0
  (indexOf t.blockShape b, c.getD t.blockDim 0 % n)

/-- The logical indices of the elements of the block that holds element `i`, padding excluded (R56). -/
def TensorDesc.blockElems (t : TensorDesc) (i : Nat) : List Nat :=
  let c := t.coords i
  let lo := c.getD t.blockDim 0 / t.blockLen * t.blockLen
  let n := min t.blockLen (t.sz t.blockDim - lo)
  (List.range n).map fun k => t.index (c.set t.blockDim (lo + k))

/-- Address of an element of a strided tensor (R160). -/
def TensorDesc.elemAddr (t : TensorDesc) (i : Nat) : Nat :=
  let c := t.coords i
  t.wd 0 + (stridedWidth t.format).getD 1 *
    (c.getD 0 0 + t.stride 1 * c.getD 1 0 + t.stride 2 * c.getD 2 0 + t.stride 3 * c.getD 3 0)

/-- Bytes of one block in the element plane (R54). -/
def Blk.bytes (b : Blk) : Nat := 4 * b.bits

/-- The planes of a tensor: base and length in bytes (R54, R112, R159). -/
def TensorDesc.planes (t : TensorDesc) : List (Nat × Nat) :=
  let n := t.count
  if n = 0 then []
  else match stridedWidth t.format with
    | some w =>
      [(t.wd 0, w * ((t.sz 0 - 1) + (t.sz 1 - 1) * t.stride 1 + (t.sz 2 - 1) * t.stride 2 + (t.sz 3 - 1) * t.stride 3 + 1))]
    | none => match t.blk with
      | some b => [(t.wd 0, t.blocks * b.bytes), (t.wd 1, t.blocks)] ++
          (if b.outl then [(t.wd 2, 4 * t.blocks)] else []) ++ (if t.sentryEn then [(t.wd 3, t.blocks)] else [])
      | none =>
        if t.format = fFP32X then [(t.wd 0, 4 * n), (t.wd 1, 2 * n)]
        else if t.format = fXC16 then
          [(t.wd 0, 176 * t.blocks), (t.wd 1, 8 * ceilDiv t.blocks 32), (t.wd 2, 256 * t.ovfCap)]
        else [(t.wd 0, 8 * n)]

/-- A positive normal FP32 pattern (R52). -/
def isPosNormal (w : Nat) : Bool := decide (0x00800000 ≤ w ∧ w < 0x7F800000)

/-- What a descriptor does with a tensor: reads it, moves its planes, writes it without a quantiser, writes it by a quantiser,
lists it in a dump, or reads or writes it under an opcode that judges the quantiser fields itself (R326). -/
inductive TdRole where
  | read | moved | plain | quant | listed | addend | result
deriving DecidableEq, Repr

/-- A role in which the tensor is written. -/
def TdRole.writes (r : TdRole) : Bool := r == .plain || r == .quant || r == .result

/-- The opcode judges RMODE, SMODE, SENTRY_EN and SENTRY_ID (R326). -/
def TdRole.judged (r : TdRole) : Bool := r == .addend || r == .result

/-- RMODE, SMODE, SENTRY_EN and SENTRY_ID are zero where the format has no use for them (R158). -/
def TensorDesc.quantOk (t : TensorDesc) : Bool :=
  (!t.rmode || isQuantised t.format) && (!t.smode || isBlk t.format) && (!t.sentryEn || isBlk t.format) &&
  (decide (t.sentryId = 0) || isQuantised t.format)

/-- The fields R158 wants zero by what is done with the tensor: SMODE and SENTRY_EN unless it is an output, RMODE and
SENTRY_ID unless a quantiser writes it. A tensor that is read may have been written by a quantiser, and keeps its RMODE and
SENTRY_ID; moved planes include a sentry plane (R430); a dump shows a tensor as it is (DEDUCED, log entry 42). -/
def TensorDesc.roleOk (t : TensorDesc) : TdRole → Bool
  | .read => !t.smode && !t.sentryEn
  | .moved => !t.smode
  | .plain => !t.rmode && !t.smode && !t.sentryEn && t.sentryId == 0
  | .quant => true
  | .listed => true
  | .addend => true
  | .result => true

/-- The rules a tensor descriptor itself obeys (R43, R52, R54, R112, R158 to R161). BLOCK_DIM must name a dimension of the
tensor (DESIGN CHOICE, log entry 43: no rule says so). -/
def TensorDesc.fieldsOk (t : TensorDesc) : Bool :=
  !t.reserved && isFormat t.format &&
  ((List.range 4).all fun i => decide (i < t.rank ∨ t.sz i = 1)) &&
  (isBlk t.format || t.format == fXC16 || decide (t.blockDim = 0)) && decide (t.blockDim < t.rank) &&
  (match t.blk with
   | some b => if b.outer then isPosNormal t.outer else decide (t.outer = 0)
   | none => decide (t.outer = 0)) &&
  (decide (t.ovfCap = 0) || t.format == fXC16) &&
  (match stridedWidth t.format with
   | some w => decide (t.wd 0 % w = 0 ∧ t.wd 1 < 2 ^ 40 ∧ t.wd 2 < 2 ^ 40 ∧ t.wd 3 < 2 ^ 40)
   | none =>
     decide (t.wd 0 % 64 = 0 ∧ t.wd 1 % 64 = 0 ∧ t.wd 2 % 64 = 0 ∧ t.wd 3 % 64 = 0) &&
     decide (t.wd 1 < 2 ^ 44 ∧ t.wd 2 < 2 ^ 44 ∧ t.wd 3 < 2 ^ 44) &&
     (match t.blk with
      | some b => (b.outl || decide (t.wd 2 = 0)) && (t.sentryEn || decide (t.wd 3 = 0))
      | none =>
        if t.format = fFP32X then decide (t.wd 2 = 0 ∧ t.wd 3 = 0)
        else if t.format = fXC16 then decide (t.wd 3 = 0)
        else decide (t.wd 1 = 0 ∧ t.wd 2 = 0 ∧ t.wd 3 = 0)))

/-- span_i of R161 from span_(i−1), or none where the stride is too small. -/
def spanStep (size stride span : Nat) : Option Nat :=
  if size = 1 then some span else if span ≤ stride then some (stride * size) else none

/-- A written tensor maps no two elements to one address (R161). -/
def TensorDesc.injective (t : TensorDesc) : Bool :=
  match stridedWidth t.format with
  | none => true
  | some _ =>
    (((spanStep (t.sz 1) (t.stride 1) (t.sz 0)).bind (spanStep (t.sz 2) (t.stride 2))).bind
      (spanStep (t.sz 3) (t.stride 3))).isSome

/-! ## Ranges (R162, R274) -/

/-- A direct-view address: its stack and offset. -/
def directOf (a : Nat) : Option (Nat × Nat) :=
  if 0x40000000000 ≤ a ∧ a < 0x68000000000 then
    some ((a - 0x40000000000) / 0x2000000000, (a - 0x40000000000) % 0x2000000000) else none

/-- A range of bytes lies in the partition's HBM range: in the interleaved view, or in its direct window of one stack. -/
def State.inRange (s : State) (pt : Part) (a n : Nat) : Bool :=
  match directOf a with
  | none => decide (pt.ent.hbmBase ≤ a ∧ a + n ≤ pt.ent.hbmBase + pt.ent.hbmSize)
  | some (st, o) =>
    let ns := (s.healthyOf st).length
    let stripe := 256 * s.nHealthy
    decide (0 < stripe ∧ 256 * ns * ceilDiv pt.ent.hbmBase stripe ≤ o ∧
      o + n ≤ 256 * ns * ((pt.ent.hbmBase + pt.ent.hbmSize) / stripe))

/-- An address in the direct view of an absent stack (R279). -/
def State.absentStack (s : State) (a : Nat) : Option Nat :=
  match directOf a with
  | some (st, _) => if (s.healthyOf st).isEmpty then some st else none
  | none => none

/-- A range of bytes lies in the shared window (R241). -/
def Part.inWindow (pt : Part) (a n : Nat) : Bool :=
  decide (pt.winAddr 0 ≤ a ∧ a + n ≤ pt.winAddr 0 + pt.ent.winSize)

/-! ## Checks at admission -/

/-- A check that passes with a value or completes the descriptor with a status and a DETAIL. -/
abbrev Chk (α : Type) := Except (Nat × Nat) α

/-- Complete BAD_DESCRIPTOR with a check code and an operand. -/
def bad {α : Type} (code operand : Nat) : Chk α := .error (stBadDescriptor, badDetail code operand 0x7FF)

/-- Demand a condition, else BAD_DESCRIPTOR. -/
def need (c : Bool) (code operand : Nat) : Chk Unit := if c then .ok () else bad code operand

/-- A range must lie within the partition, else code 0x05, or ENGINE_ABSENT where its stack is absent. -/
def State.needRange (s : State) (pt : Part) (a n operand : Nat) : Chk Unit :=
  match s.absentStack a with
  | some st => .error (stEngineAbsent, absentDetail st 8)
  | none => need (s.inRange pt a n) 0x05 operand

/-- A range the device reads at fetch or admission must not be poisoned (R533). -/
def State.needClean (s : State) (a n : Nat) : Chk Unit :=
  match s.poisonIn a n with
  | some l => .error (stMemory, l)
  | none => .ok ()

/-- A job or a binding whose copy in the reserve an uncorrectable sector has broken serves nobody (R535). -/
def needWhole (broken : Option Nat) : Chk Unit := match broken with
  | some a => .error (stMemory, a)
  | none => .ok ()

/-- Read and check the tensor descriptor of a pointer (R158 to R163, R71). -/
def State.readTd (s : State) (p ptr operand : Nat) (role : TdRole) : Chk TensorDesc := do
  let pt := s.part p
  let a := pt.page.tdBase + 64 * ptr
  need (s.inRange pt a 64) 0x05 operand
  s.needClean a 64
  let t := TensorDesc.parse (s.rdBytes a 64)
  need (t.fieldsOk && (role.judged || t.quantOk) && t.roleOk role) 0x07 operand
  need (!role.writes || t.injective) 0x07 operand
  need (role.judged || decide (t.sentryId = 0) || s.inRange pt (pt.page.sentryBase + 32 * t.sentryId) 32) 0x07 operand
  for pl in t.planes do s.needRange pt pl.1 pl.2 operand
  return t

/-- Two byte ranges share a byte. -/
def overlap (a n b m : Nat) : Bool := decide (0 < n ∧ 0 < m ∧ a < b + m ∧ b < a + n)

/-- Two ranges of `n` and `m` bytes share a byte: by their addresses in one view, by where the lines are stored where the
views differ (R273). -/
def State.sharesByte (s : State) (a n b m : Nat) : Bool :=
  if (directOf a).isSome = (directOf b).isSome then overlap a n b m
  else
    let st := (linesOf b m).map fun l => (s.place l).map (· / 64)
    (linesOf a n).any fun l =>
      match s.place l with
      | none => false
      | some p => (linesOf b m).zip st |>.any fun e =>
          e.2 == some (p / 64) && overlap (max l a - l) (min (l + 64) (a + n) - max l a) (max e.1 b - e.1)
            (min (e.1 + 64) (b + m) - max e.1 b)

/-- The owner bit of a registered buffer's flag word: true for the device (R246). -/
def State.deviceOwns (s : State) (b : RegBuf) : Bool := bitOf (s.rdN b.flag 8) 63

/-- The first registered buffer a range overlaps that the host owns (R248). -/
def State.hostOwned (s : State) (pt : Part) (a n : Nat) : Option Nat :=
  (pt.bufs.find? fun e => s.sharesByte a n e.2.base e.2.len && !s.deviceOwns e.2).map (·.1)

/-- The ownership check of R248 over planes. -/
def State.needOwned (s : State) (pt : Part) (planes : List (Nat × Nat)) : Chk Unit :=
  match planes.findSome? fun pl => s.hostOwned pt pl.1 pl.2 with
  | some k => .error (stOwnership, k)
  | none => .ok ()

/-! ## XC16 blocks (R111 to R118) -/

/-- The bit `i` of a byte list. -/
def bitAt (l : List Byte) (i : Nat) : Bool := bitOf (l.getD (i / 8) 0).toNat (i % 8)

/-- One code of the stream at bit `i` (of `n` bits): the exponent and the bits it takes; none where the stream ends. The
offset code gives none for its exponent where EMAX − d is negative. -/
def xcCode (l : List Byte) (n emax i : Nat) : Option (Option Nat × Nat) :=
  let b (k : Nat) := bitAt l (i + k)
  let take (k d : Nat) : Option (Option Nat × Nat) :=
    if i + k > n then none else some (if d ≤ emax then some (emax - d) else none, k)
  if !b 0 then take 2 (if b 1 then 2 else 1)
  else if !b 1 then (if !b 2 then take 3 3 else take 4 (if b 3 then 4 else 0))
  else if !b 2 then take 4 (if b 3 then 6 else 5)
  else if i + 11 > n then none
  else some (some ((List.range 8).foldl (fun x k => if b (3 + k) then x + 2 ^ k else x) 0), 11)

/-- The exponents of `m` elements from bit `i` on; none where the block reads as NaN (R116). -/
def xcExps (l : List Byte) (emax : Nat) : Nat → Nat → Option (List Nat)
  | 0, _ => some []
  | m + 1, i =>
    match xcCode l 368 emax i with
    | some (some e, k) => (xcExps l emax m (i + k)).map (e :: ·)
    | _ => none

/-- The BF16 words of the first `m` elements of a slot (R113, R116). -/
def xcSlot (slot : List Byte) (m : Nat) : Option (List Nat) :=
  if (slot.getD 129 0) ≠ 0 then none
  else
    (xcExps (slot.drop 130) (slot.getD 128 0).toNat m 0).map fun es =>
      (es.zipIdx).map fun (e, i) =>
        (if bitAt slot i then 0x8000 else 0) + e * 128 +
        (List.range 7).foldl (fun x k => if bitAt (sliceList slot 16 112) (7 * i + k) then x + 2 ^ k else x) 0

/-- The bytes block `b` of an XC16 tensor is read from: address and length, or none where its overflow index is beyond
the capacity (R117, R118). The map entry is read first. -/
def TensorDesc.xcPlace (t : TensorDesc) (s : State) (b : Nat) : Option (Nat × Nat) :=
  let m := s.rdN (t.wd 1 + 8 * (b / 32)) 8
  let k := b % 32
  if bitOf m k then
    let v := fld m 63 32 + countBits k m
    if v < t.ovfCap then some (t.wd 2 + 256 * v, 256) else none
  else some (t.wd 0 + 176 * b, 176)

/-- The BF16 words of a block's first `m` elements; none: the block reads as a produced NaN. -/
def TensorDesc.xcBlock (t : TensorDesc) (s : State) (b m : Nat) : Option (List Nat) :=
  match t.xcPlace s b with
  | none => none
  | some (a, n) =>
    if n = 256 then some ((List.range m).map fun i => s.rdN (a + 2 * i) 2)
    else xcSlot (s.rdBytes a 176) m

/-! ## Element values (R53, R58, R59, R69) -/

/-- The element code at position `i` of a block (R55), as stored. -/
def Blk.rawAt (k : Blk) (s : State) (base b i : Nat) : Nat :=
  (s.rd (base + b * k.bytes + i * k.bits / 8)).toNat / 2 ^ (i * k.bits % 8) % 2 ^ k.bits

/-- The number an element code stands for. -/
def Blk.code (k : Blk) (raw : Nat) : Int := if k.signed then toSigned k.bits raw else raw

/-- A reserved T2 code (R49). -/
def Blk.reservedCode (k : Blk) (raw : Nat) : Bool := k.bits == 2 && raw == 2

/-- The outlier corrections that fall on position `i` (R57, R58). -/
def outlierAt (w i : Nat) : Int :=
  (if bitOf w 13 && fld w 12 8 == i then toSigned 8 (fld w 7 0) else 0) +
  (if bitOf w 27 && fld w 26 22 == i then toSigned 8 (fld w 21 14) else 0)

/-- The effective code of position `i` of block `b` (R58). -/
def TensorDesc.effCode (t : TensorDesc) (k : Blk) (s : State) (b i : Nat) : Int :=
  k.code (k.rawAt s (t.wd 0) b i) + (if k.outl then outlierAt (s.rdN (t.wd 2 + 4 * b) 4) i else 0)

/-- The scale code of a block. -/
def TensorDesc.scaleAt (t : TensorDesc) (s : State) (b : Nat) : Nat := (s.rd (t.wd 1 + b)).toNat

/-- A block with a reserved scale code or element code reads as NaN (R59); `n` positions are elements. -/
def TensorDesc.blockNaN (t : TensorDesc) (k : Blk) (s : State) (b n : Nat) : Bool :=
  t.scaleAt s b == 0xFF || (k.bits == 2 && (List.range n).any fun i => k.reservedCode (k.rawAt s (t.wd 0) b i))

/-- The outer scale as an exact value, 1 where there is none. -/
def TensorDesc.outerVal (t : TensorDesc) : Fp :=
  match t.blk with
  | some b => if b.outer then of32 t.outer else .fin false 1 0
  | none => .fin false 1 0

/-- An element's exact value and whether it reads as a NaN by a reserved code (R53, R59, R69, R116). -/
def TensorDesc.val (t : TensorDesc) (s : State) (i : Nat) : Fp × Bool :=
  match t.blk with
  | some k =>
    let (b, pos) := t.blockOf i
    if t.blockNaN k s b (t.blockElems i).length then (.nan, true)
    else ((Fp.ofInt (t.effCode k s b pos)).mul (t.outerVal.scale ((t.scaleAt s b : Int) - 127)), false)
  | none =>
    if t.format = fXC16 then
      let (b, pos) := t.blockOf i
      match t.xcBlock s b (t.blockElems i).length with
      | none => (.nan, true)
      | some l => (ofBf (l.getD pos 0), false)
    else if t.format = fFP32X then (ofX (s.rdN (t.wd 0 + 4 * i) 4) (s.rdN (t.wd 1 + 2 * i) 2), false)
    else if t.format = fBF16 then (ofBf (s.rdN (t.elemAddr i) 2), false)
    else if t.format = fI32 then (Fp.ofInt (toSigned 32 (s.rdN (t.elemAddr i) 4)), false)
    else if t.format = fU8 then (Fp.ofNat (s.rd (t.elemAddr i)).toNat, false)
    else (of32 (s.rdN (t.elemAddr i) 4), false)

/-- The stored word of an element of a strided tensor, or the main word of an FP32X element. -/
def TensorDesc.raw (t : TensorDesc) (s : State) (i : Nat) : Nat :=
  match stridedWidth t.format with
  | some w => s.rdN (t.elemAddr i) w
  | none => match t.blk with
    | some k => let (b, pos) := t.blockOf i; k.rawAt s (t.wd 0) b pos
    | none => s.rdN (t.wd 0 + 4 * i) 4

/-- The byte ranges an element's value is read from. -/
def TensorDesc.cells (t : TensorDesc) (s : State) (i : Nat) : List (Nat × Nat) :=
  match stridedWidth t.format with
  | some w => [(t.elemAddr i, w)]
  | none => match t.blk with
    | some k =>
      let (b, _) := t.blockOf i
      [(t.wd 0 + b * k.bytes, k.bytes), (t.wd 1 + b, 1)] ++ (if k.outl then [(t.wd 2 + 4 * b, 4)] else [])
    | none =>
      if t.format = fXC16 then
        let (b, _) := t.blockOf i
        (t.wd 1 + 8 * (b / 32), 8) :: (t.xcPlace s b).toList
      else [(t.wd 0 + 4 * i, 4), (t.wd 1 + 2 * i, 2)]

/-- The first poisoned line among byte ranges; none at once where nothing is poisoned and the ranges are in memory. -/
def State.poisonCells (s : State) (l : List (Nat × Nat)) : Option Nat := l.findSome? fun c => s.poisonIn c.1 c.2

/-! ## Row groups (R128) -/

/-- Row groups of an iteration space: 32 positions of dimension 1 across all of dimension 0 (R128). -/
def rowGroups (size : List Nat) : Nat := ceilDiv (size.getD 1 1) 32 * size.getD 2 1 * size.getD 3 1

/-- Row group `g`: its first dimension-1 position and its coordinates in dimensions 2 and 3. -/
def groupAt (size : List Nat) (g : Nat) : Nat × Nat × Nat :=
  let n := max 1 (ceilDiv (size.getD 1 1) 32)
  (g % n * 32, g / n % max 1 (size.getD 2 1), g / (n * max 1 (size.getD 2 1)))

/-- The row group of an element. -/
def groupOf (size : List Nat) (i : Nat) : Nat :=
  let c := coordsOf size i
  c.getD 1 0 / 32 + ceilDiv (size.getD 1 1) 32 * (c.getD 2 0 + size.getD 2 1 * c.getD 3 0)

/-- The element indices of row group `g`, rising. -/
def groupElems (size : List Nat) (g : Nat) : List Nat :=
  let (r0, c2, c3) := groupAt size g
  (List.range (min 32 (size.getD 1 1 - r0))).flatMap fun r =>
    (List.range (size.getD 0 1)).map fun c => indexOf size [c, r0 + r, c2, c3]

/-- The index of the first element of block `b`. -/
def TensorDesc.blockFirst (t : TensorDesc) (b : Nat) : Nat :=
  let c := coordsOf t.blockShape b
  t.index (c.set t.blockDim (c.getD t.blockDim 0 * t.blockLen))

/-! ## A running descriptor's reads and writes -/

/-- What an operation gathers while it runs: the state, each write, the first poisoned line read, the first NaN of the
present unit and of each finished unit. -/
structure Run where
  s : State
  part : Nat
  kind : Nat
  clusters : List Nat
  engines : Nat
  seed : Nat
  step : Nat
  wrote : List (Nat × Nat)
  bad : Option Nat
  place : Nat × Nat
  nan : Option NanEvt
  nans : List NanEvt
  base : Nat
deriving DecidableEq, Repr

/-- Start an operation of descriptor `d` on clusters of which each has `engines` engines of the kind. An uncorrectable word of
on-chip storage that the slice meets is read as a poisoned line (R532). -/
def Run.start (s : State) (part kind engines : Nat) (clusters : List Nat) (d : Desc) : Run :=
  ⟨s, part, kind, clusters, engines, d.seed, d.step, [], if (d.slice.bind (·.chip)).isSome then some chipAddr else none, (0, 0),
   none, [], 0⟩

/-- Note the first poisoned line of byte ranges that are read. -/
def Run.reads (r : Run) (l : List (Nat × Nat)) : Run :=
  match r.bad with
  | some _ => r
  | none => { r with bad := r.s.poisonCells l }

/-- Note the elements of a tensor that are read. -/
def Run.readsElems (r : Run) (t : TensorDesc) (l : List Nat) : Run := r.reads (l.flatMap fun i => t.cells r.s i)

/-- Store bytes, keeping the write in mind. -/
def Run.wr (r : Run) (a : Nat) (bs : List Byte) : Run :=
  { r with s := r.s.wrRaw a bs, wrote := (a, bs.length) :: r.wrote }

def Run.wrN (r : Run) (a n x : Nat) : Run := r.wr a (leBytes n x)

/-- The NaN of a tensor's element. -/
def Run.evt (r : Run) (cause tensorId : Nat) (size : List Nat) (index : Nat) : NanEvt :=
  ⟨cause, r.kind, tensorId, coordsOf size index, index, r.clusters, r.engines, r.place, r.base⟩

/-- The lowest INDEX of NaNs that arise together comes first (R79); the unit's first stands. -/
def Run.raise (r : Run) (l : List NanEvt) : Run :=
  match r.nan with
  | some _ => r
  | none => { r with nan := l.foldl (fun (o : Option NanEvt) e => match o with
      | none => some e
      | some x => if e.index < x.index then some e else some x) none }

/-- End a unit. -/
def Run.endUnit (r : Run) : Run :=
  match r.nan with
  | some e => { r with nan := none, nans := r.nans ++ [e] }
  | none => r

/-- Add to the counts of a sentry entry (R71, R72). -/
def State.addSentry (s : State) (p id : Nat) (f : SentryAcc → SentryAcc) : State :=
  if id = 0 then s
  else s.updPart p fun q => { q with sentry := tput q.sentry id (f (tget SentryAcc.dflt q.sentry id)) }

/-! ## The block quantiser (R67, R68) -/

/-- A quantised block. -/
structure QBlk where
  codes : List Nat
  e : Nat
  outl : Nat
  clipped : Nat
  outliers : Nat
  nonfinite : Nat
  met : List Nat
deriving DecidableEq, Repr

/-- |a| > |b| of finite values. -/
def Fp.absGt (a b : Fp) : Bool := decide (a.abs.cmp b.abs > 0)

/-- The position of the finite input of largest magnitude that is not excluded, ties to the lower position. -/
def largestPos (xs : List Fp) (ex : List Nat) : Option Nat :=
  (xs.zipIdx).foldl (fun (o : Option Nat) (x, i) =>
    if !x.isFin || ex.contains i then o
    else match o with
      | none => some i
      | some j => if x.absGt (xs.getD j .zero) then some i else some j) none

/-- The AMAX scale code: the smallest e with a ≤ qmax · o · 2^(e − 127), or 254. -/
def amaxCode (k : Blk) (o a : Fp) : Nat :=
  match a, o with
  | .fin _ m e, .fin _ om oe =>
    if m = 0 then 0
    else
      -- the smallest c with m·2^e ≤ qmax·om·2^(oe + c)
      let c := ceilLog2Rat (m * pow2 (e - oe)) (k.qmax * om * pow2 (oe - e))
      min (max (c + 127) 0).toNat 254
  | _, _ => 254

/-- The rounded quotient x / (o · 2^(e − 127)) of a finite input. -/
def quantInt (r : Rnd) (x o : Fp) (e : Nat) : Int :=
  match x, o with
  | .fin s m me, .fin _ om oe =>
    let g : Int := me - (oe + ((e : Int) - 127))
    let n := roundRat r (m * pow2 g) (om * pow2 (-g))
    if s then -(n : Int) else n
  | _, _ => 0

/-- What one input becomes: the element code, the outlier value if it takes a slot, clipped, non-finite, NaN. -/
def quantOne (k : Blk) (o : Fp) (e : Nat) (cand : Bool) (r : Rnd) (x : Fp) : Int × Option Int × Bool × Bool × Bool :=
  let qmax : Int := k.qmax
  let qmin : Int := if k.signed then -qmax else 0
  match x with
  | .nan => (0, none, false, true, true)
  | .inf s => (if s then qmin else qmax, none, true, true, false)
  | .fin _ _ _ =>
    let q := quantInt r x o e
    if cand && decide ((q.natAbs : Int) > qmax) then
      (0, some (max (-127) (min 127 q)), decide (q.natAbs > 127), false, false)
    else (max qmin (min qmax q), none, decide (q < qmin ∨ q > qmax), false, false)

/-- Quantise one block (R67): `us` gives the upper half of each element's draw under SR. -/
def quantBlock (k : Blk) (o : Fp) (given : Option Nat) (xs : List Fp) (us : Option (List Nat)) : QBlk :=
  let c0 := if k.outl then largestPos xs [] else none
  let c1 := if k.outl then largestPos xs c0.toList else none
  let cand := c0.toList ++ c1.toList
  let a := match largestPos xs cand with
    | some i => xs.getD i .zero
    | none => .zero
  let e := given.getD (amaxCode k o a)
  let out := (xs.zipIdx).map fun (x, i) =>
    quantOne k o e (cand.contains i) (us.map fun (l : List Nat) => l.getD i 0) x
  let slots := (out.zipIdx).filterMap fun (q, i) => q.2.1.map fun v => (i, v)
  let word := match slots with
    | [] => 0
    | (i, v) :: rest => ofSigned 8 v + i * 256 + 8192 + (match rest with
      | [] => 0
      | (j, w) :: _ => ofSigned 8 w * 2 ^ 14 + j * 2 ^ 22 + 2 ^ 27)
  { codes := out.map fun q => ofSigned k.bits q.1
    e := e
    outl := word
    clipped := (out.filter fun q => q.2.2.1).length
    outliers := slots.length
    nonfinite := (out.filter fun q => q.2.2.2.1).length
    met := ((out.zipIdx).filter fun (q, _) => q.2.2.2.2).map (·.2) }

/-- The element-plane bytes of 32 codes (R55). -/
def packCodes (bits : Nat) (codes : List Nat) : List Byte :=
  leBytes (4 * bits) ((codes.zipIdx).foldl (fun x (c, i) => x + c * 2 ^ (bits * i)) 0)

/-! ## Quantising writes (R66 to R71) -/

/-- The draw of an output element under SR (R61, R63). -/
def Run.rnd (r : Run) (t : TensorDesc) (i : Nat) : Rnd :=
  if t.rmode then some (drawU (drawKey r.seed r.step t.id) i) else none

/-- Write one element of a tensor that is in no block format (R48, R66, R68, R69). A NaN met is reported with the
element `src` names: tensor, size, index. -/
def Run.writeElem (r : Run) (t : TensorDesc) (i : Nat) (x : Fp) (src : Nat × List Nat × Nat) : Run :=
  if t.format = fFP32X then
    let (h, q) := encX x
    (r.wrN (t.wd 0 + 4 * i) 4 h).wrN (t.wd 1 + 2 * i) 2 q
  else if t.format = fBF16 then
    let w := encBf (r.rnd t i) x
    let clip := x.isFin && decide (w % 2 ^ 15 = 0x7F80)
    let r1 := r.wrN (t.elemAddr i) 2 w
    let r2 := { r1 with s := r1.s.addSentry r.part t.sentryId fun c =>
      { c with elems := c.elems + 1, clipped := c.clipped + (if clip then 1 else 0),
               nonfinite := c.nonfinite + (if x.isFin then 0 else 1) } }
    if x.isNaN then r2.raise [r.evt 1 src.1 src.2.1 src.2.2] else r2
  else if t.format = fI32 then
    let (w, clip, nf) := encI32 (r.rnd t i) x
    let r1 := r.wrN (t.elemAddr i) 4 w
    let r2 := { r1 with s := r1.s.addSentry r.part t.sentryId fun c =>
      { c with elems := c.elems + 1, clipped := c.clipped + (if clip then 1 else 0),
               nonfinite := c.nonfinite + (if nf then 1 else 0) } }
    if x.isNaN then r2.raise [r.evt 1 src.1 src.2.1 src.2.2] else r2
  else r.wrN (t.elemAddr i) 4 (enc32 x)

/-- Write the whole block of a block-format tensor that holds element `i` (R67); `xs` are its inputs in block order, and
`src` names the tensor and shape that hold them, which a met NaN is reported with (R80). -/
def Run.writeBlock (r : Run) (t : TensorDesc) (k : Blk) (i : Nat) (xs : List Fp) (src : Nat × List Nat) : Run :=
  let idx := t.blockElems i
  let (b, _) := t.blockOf i
  let given := if t.smode then some (t.scaleAt r.s b) else none
  let r0 := if t.smode then r.reads [(t.wd 1 + b, 1)] else r
  if given = some 0xFF then
    let r1 := r0.wr (t.wd 0 + b * k.bytes) (List.replicate k.bytes 0)
    let r2 := if k.outl then r1.wrN (t.wd 2 + 4 * b) 4 0 else r1
    let r3 := if t.sentryEn then r2.wrN (t.wd 3 + b) 1 0 else r2
    let r4 := { r3 with s := r3.s.addSentry r.part t.sentryId fun c => { c with elems := c.elems + idx.length } }
    r4.raise [r.evt 2 t.id t.size (idx.getD 0 0)]
  else
    let us := if t.rmode then some (idx.map fun j => drawU (drawKey r.seed r.step t.id) j) else none
    let q := quantBlock k t.outerVal given xs us
    let r1 := r0.wr (t.wd 0 + b * k.bytes) (packCodes k.bits q.codes)
    let r2 := r1.wrN (t.wd 1 + b) 1 q.e
    let r3 := if k.outl then r2.wrN (t.wd 2 + 4 * b) 4 q.outl else r2
    let r4 := if t.sentryEn then r3.wrN (t.wd 3 + b) 1 (q.clipped + 64 * q.outliers) else r3
    let r5 := { r4 with s := r4.s.addSentry r.part t.sentryId fun c =>
      { elems := c.elems + idx.length, clipped := c.clipped + q.clipped, outliers := c.outliers + q.outliers,
        nonfinite := c.nonfinite + q.nonfinite } }
    r5.raise (q.met.map fun m => r.evt 1 src.1 src.2 (idx.getD m 0))

/-! ## The end of a run (R249, R283, R533) -/

/-- Every byte of a line is among the writes. -/
def coversLine (wrote : List (Nat × Nat)) (l : Nat) : Bool :=
  (List.range 64).all fun k => wrote.any fun w => decide (w.1 ≤ l + k ∧ l + k < w.1 + w.2)

/-- Poison of the written sectors: one written whole loses it; one written in part keeps it and is an access to a
poisoned line (R283). -/
def Run.settlePoison (r : Run) : Run :=
  let lines := if r.s.poison.isEmpty then [] else (r.wrote.reverse.flatMap fun w => linesOf w.1 w.2).filter r.s.isPoison
  let whole := lines.filter fun l => coversLine r.wrote l
  let part := lines.find? fun l => !coversLine r.wrote l
  { r with s := foldS State.unpoison r.s whole, bad := r.bad <|> part }

/-- Device writes to buffers the host owns count in LATE_WRITES, saturating (R249). How many writes the bytes make is
free: at least one, at most one a byte (log entry 6). -/
def State.lateWrites (s : State) (p : Nat) (wrote : List (Nat × Nat)) : State :=
  let pt := s.part p
  foldS (fun (t : State) (e : Nat × RegBuf) =>
    let hits := wrote.filter fun w => t.sharesByte w.1 w.2 e.2.base e.2.len
    if hits.isEmpty || t.deviceOwns e.2 then t
    else
      let (x, u) := t.freeBelow (hits.foldl (fun n w => n + w.2) 0)
      let a := pt.page.bufBase + 32 * e.1 + 0x18
      u.wrN a 2 (min (u.rdN a 2 + 1 + x) 0xFFFF)) s pt.bufs

/-- `n` free bytes at an address, whatever they were: an area the device uses and no rule gives contents (log entry 6).
-/
def State.blurMem (s : State) (a n : Nat) : State :=
  { (s.wrRaw a ((List.range n).map (Config.clusterByte (s.fresh + 1)))) with fresh := s.fresh + 1 }

/-- Decide MEMORY_UNCORRECTABLE with the first poisoned line met, or with an uncorrectable word of on-chip storage, which the
descriptor then names (R185, R525). -/
def Desc.decideMemory (d : Desc) (l : Nat) : Desc :=
  if d.status.isNone then
    { (d.decide' stMemory l) with chip := if l = chipAddr then (d.slice.bind (·.chip)) <|> d.chip else none }
  else d

/-- Finish a run of descriptor `ref`: poison, the memory decision, the seed trap. Outputs of a run that read poison are
written poisoned (R533). -/
def Run.finish (r : Run) (ref : DRef) : State :=
  let r1 := r.endUnit.settlePoison
  let s1 := r1.s.lateWrites r.part r1.wrote
  let s2 := match r1.bad with
    | none => s1
    | some l =>
      (foldS State.setPoison s1 (r1.wrote.flatMap fun (w : Nat × Nat) => linesOf w.1 w.2)).updDesc ref fun d => d.decideMemory l
  s2.seedTraps ref r1.nans

/-- Move bytes: the destination sectors of poisoned source lines are written poisoned. The first poisoned line met, in the
source or as a destination written in part, comes with the state (R283, R533). -/
def State.moveBytes (s : State) (src dst n : Nat) : State × Option Nat :=
  let badSrc := (linesOf src n).filter s.isPoison
  let part := s.poisonPart dst n
  let s1 := s.wrBytes dst (s.rdBytes src n)
  let hit := badSrc.flatMap fun l => linesOf (dst + (max l src - src)) (min (l + 64) (src + n) - max l src)
  (foldS State.setPoison s1 hit, badSrc.head? <|> part)

/-- Decide MEMORY_UNCORRECTABLE for a descriptor that met a poisoned line, if it met one. -/
def State.noteBad (s : State) (r : DRef) (l : Option Nat) : State :=
  match l with
  | some a => s.updDesc r fun d => d.decideMemory a
  | none => s

/-- The contents of the clusters' buffers and operand buffers after a descriptor has run there are free (log entry 6). -/
def State.touchClusters (s : State) (cl : List Nat) : State :=
  if cl.isEmpty then s
  else { s with
    clbuf := foldS (fun l c => tset 0 l c (s.fresh + 1)) s.clbuf cl
    opbuf := foldS (fun l c => tset 0 l c (s.fresh + 1)) s.opbuf cl
    fresh := s.fresh + 1 }

end Sys2Proof.Machine
end

