-- ==== Sys2Proof/Machine/Sched.lean ====
section
/-!
DEFINITION. Time, idle causes, and what starts and sizes slices.
-/

namespace Sys2Proof.Machine

/-! ## What an opcode's parameters must satisfy at fetch (R155, R164, R165, R173) -/

/-- The fetch checks of one descriptor's opcode: the bits of PARAMS its layout defines (bit offset from 0x40, width),
whether its encodings are accepted, its tensor pointers, its addresses in the HBM range and in the window (address,
length, alignment), whether CLUSTER_SET is 0 zero, 1 required or 2 optional, the units it names (number, kind), and
whether what it names lies in the partition's assignment. -/
structure OpSpec where
  mask : List (Nat × Nat)
  encOk : Bool
  tdps : List Nat
  ranges : List (Nat × Nat × Nat)
  win : List (Nat × Nat × Nat)
  set : Nat
  units : List (Nat × Nat)
  assigned : Bool
deriving DecidableEq, Repr

/-- A spec with nothing but its defined bits. -/
def OpSpec.plain (mask : List (Nat × Nat)) (set : Nat) : OpSpec := ⟨mask, true, [], [], [], set, [], true⟩

/-- Bits of a 32-bit word at offset `o`. -/
def bits32 (o : Nat) : Nat × Nat := ((o - 0x40) * 8, 32)
/-- An address field of 44 bits at offset `o`. -/
def bits44 (o : Nat) : Nat × Nat := ((o - 0x40) * 8, 44)
/-- `w` bits from bit `b` of the word at offset `o`. -/
def bitsAt (o b w : Nat) : Nat × Nat := ((o - 0x40) * 8 + b, w)

/-- A pointer is absent exactly where it must be (R155). -/
def ptrRule (ptr : Nat) (present : Bool) : Bool := if present then ptr != noTensor else ptr == noTensor

/-! ## Opcode classes (R164, R207, R215) -/

/-- Opcodes whose work is cut into slices. -/
def isSliced (op : Nat) : Bool :=
  op == 2 || op == 3 || op == 4 || op == 5 || op == 0x100 || (0x110 ≤ op && op ≤ 0x112) || (0x118 ≤ op && op ≤ 0x11A) ||
  (0x200 ≤ op && op ≤ 0x202) || (0x300 ≤ op && op ≤ 0x303) || (0x310 ≤ op && op ≤ 0x312)

/-- Opcodes that may run on lent clusters (R215). -/
def mayBorrow (op : Nat) : Bool :=
  op == 0x100 || (0x110 ≤ op && op ≤ 0x112) || op == 0x118 || (0x200 ≤ op && op ≤ 0x202) || (0x300 ≤ op && op ≤ 0x303)

/-- A descriptor placed under R101: RESIDENT, or an output mode that keeps. -/
def Desc.fixedPlace (d : Desc) : Bool := d.opcode == 0x100 && (d.keeps || fld (d.w32 0x50) 6 5 == 2)

/-- A started descriptor that has not completed. -/
def Desc.active (d : Desc) : Bool := d.started && d.phase != .done

/-- Units that the sequences of a DECODE_STEP may run now (R370, R374); Machine/Attn.lean says how `seqStat` holds
them. -/
def Desc.seqUnits (d : Desc) : Nat :=
  d.seqStat.foldl (fun n e => n + if bitOf e.2 12 && !bitOf e.2 13 && !bitOf e.2 15 then e.2 % 512 else 0) 0

/-- Units left before the descriptor is done: the waiting sequences of a DECODE_STEP have theirs too (R370, R440). -/
def Desc.unitsOpen (d : Desc) : Nat :=
  (if d.opcode = 0x0310 then d.seqStat.foldl (fun n e => n + if bitOf e.2 12 then e.2 % 512 else 0) 0
   else d.units - d.doneUnits) - (match d.slice with | some c => c.count | none => 0)

/-- Units left that may issue now. -/
def Desc.unitsLeft (d : Desc) : Nat :=
  (if d.opcode = 0x0310 then d.seqUnits else d.units - d.doneUnits) - (match d.slice with | some c => c.count | none => 0)

/-! ## Times (R23, R27, R31) -/

/-- The end of the present tick in ns: the pending RESYNC's boundary, else start + period. -/
def State.nextBoundary (s : State) : Nat :=
  match s.tick.pendingResync with
  | some r => r.at'
  | none => s.tick.start + s.tick.period * 1000

/-- The period of the next tick in µs: an accepted stage applies at its tick (R27). -/
def State.nextPeriod (s : State) : Nat :=
  match s.tick.pendingResync with
  | some r => r.period
  | none => match s.tick.stage with
    | some (p, a) => if a ≤ s.tick.count + 1 then p else s.tick.period
    | none => s.tick.period

/-! ## Idle causes (R438 to R440) -/

/-- The slice that runs on a cluster, if any. -/
def Part.sliceOn (pt : Part) (c : Nat) : Option (Desc × Slice) :=
  pt.descs.findSome? fun d => match d.slice with
    | some sl => if sl.clusters.contains c then some (d, sl) else none
    | none => none

/-- A cluster is lent to a descriptor for the tick. -/
def Part.lentTo (pt : Part) (c : Nat) : Option Lent := pt.lent.find? fun l => l.cluster == c

/-- A descriptor uses cluster `c`: its own set, or lent to it. -/
def Part.uses (pt : Part) (d : Desc) (c : Nat) : Bool :=
  bitOf d.clusterMask c || (match pt.lentTo c with | some l => l.ring == d.ring && l.num == d.num | none => false)

/-- Issue order of R206: admitted first, then the higher PRIO, then the earlier admission (or fetch). -/
def Part.before (pt : Part) (a b : Desc) : Bool :=
  let adm (d : Desc) : Bool := d.phase != .waiting
  let pa := (pt.subRing a.ring).prio
  let pb := (pt.subRing b.ring).prio
  if adm a != adm b then adm a
  else if pa ≠ pb then decide (pa > pb)
  else decide (a.order < b.order)

/-- The first of a list in an order. -/
def firstBy {α : Type} (lt : α → α → Bool) (l : List α) : Option α :=
  l.foldl (fun (o : Option α) x => match o with
    | none => some x
    | some y => if lt x y then some x else some y) none

/-- The next work of a cluster (R440): the fetched, uncompleted descriptor with units left that would issue there first. -/
def Part.nextWork (pt : Part) (c : Nat) : Option Desc :=
  firstBy pt.before (pt.descs.filter fun d =>
    isSliced d.opcode && d.status.isNone && pt.uses d c && (d.phase == .waiting || decide (d.unitsOpen > 0)))

/-- A channel of a descriptor's collective is retransmitting as this end sees it: a frame sent again and not acknowledged, or
one held beyond a gap (R395). -/
def State.retransmits (s : State) (p : Nat) (d : Desc) : Bool :=
  s.chans.any fun e => (match e.2.user with | some u => u == d.ref p | none => false) &&
    (e.2.unacked.any (·.resent) || !e.2.held.isEmpty)

/-- The code a wait on a descriptor is charged to (R438, R440 order 5). -/
def State.waitCode (s : State) (p : Nat) (d : Desc) : Nat :=
  let op := d.opcode
  if op = 0x500 ∨ op = 0x503 ∨ op = 0x505 then (if s.retransmits p d then 12 else 1)
  else if op = 0x501 ∨ op = 0x502 then (if s.retransmits p d then 12 else 2)
  else if op = 0x504 ∨ d.isWait then 3
  else if op = 0x400 then 4
  else 11

/-- A descriptor lists a sequence: as admitted, or, before it is admitted, as its list stands in memory (R440). -/
def State.lists (s : State) (d : Desc) (seq : Nat) : Bool :=
  if d.phase == .waiting then
    d.opcode == 0x0310 && (List.range (fld (d.w64 0x50) 55 44 + 1)).any fun i => s.rdN (d.addr 0x50 + 2 * i) 2 == seq
  else d.seqStat.any fun e => e.1 == seq

/-- The idle cause of a cluster without a running slice (R440). -/
def State.idleCode (s : State) (p : Nat) (pt : Part) (c : Nat) : Nat :=
  match pt.nextWork c with
  | none => 6
  | some d =>
    let ring := pt.subRing d.ring
    let cq := pt.comRing ring.cq
    let full := decide ((cq.written - cq.consumed).toNat ≥ 2 ^ cq.log2)
    let firstDep := (d.deps.find? fun e => e.status.isNone).bind fun e =>
      pt.descs.find? fun x => x.ring == d.ring && x.num == e.num
    if s.pwr.drowsed.contains c || bitOf pt.page.drowse c || pt.mirror.hold || ring.stopped || full then 6
    else if (pt.swaps.any fun w => s.lists d w.seq) ||
        (match firstDep with | some x => x.opcode == 0x311 | none => false) then 10
    else if d.phase != .waiting && d.slack then 7
    else if d.phase != .waiting then 11
    else match firstDep with
      | some x => s.waitCode p x
      | none => 11

/-- Add time to a cluster's account for the tick. -/
def Part.addIdle (pt : Part) (c code ns : Nat) : Part :=
  if ns = 0 then pt else { pt with idle := tset 0 pt.idle (c * 16 + code) (tget 0 pt.idle (c * 16 + code) + ns) }

/-- Charge slice time of `t` ns on cluster `c`, of which `stall` was lost to operand starvation (R439). -/
def Part.chargeSlice (pt : Part) (gov : PwrSt) (c t stall f : Nat) : Part :=
  let st := min stall t
  let lost := (t - st) * (1800 - f) / 1800
  let q := (pt.addIdle c 5 st).addIdle c (if gov.reason = 2 then 9 else 8) lost
  q.addIdle c 0 (t - st - lost)

/-- Let device time pass to `t`: every idle cluster of every ready partition is charged its cause. -/
def State.advance (s : State) (t : Nat) : State :=
  if t ≤ s.now ∨ s.halted ∨ s.tick.running = false then { s with now := max s.now t }
  else
    let dt := t - s.now
    let charge (p : Nat) (pt : Part) : Part :=
      if pt.ent.ready then
        foldS (fun q c => if (pt.sliceOn c).isSome then q else q.addIdle c (s.idleCode p pt c) dt) pt pt.clusterList
      else pt
    { s with now := t, parts := tmap charge s.parts }

/-! ## Start (R98, R174, R187, R189, R481) -/

/-- A started descriptor holds one of `d`'s slots on one of its clusters (R98). -/
def Part.slotTaken (pt : Part) (d : Desc) : Bool :=
  pt.descs.any fun e => !(e.ring == d.ring && e.num == d.num) && e.active &&
    e.slots.any (fun k => d.slots.contains k) && decide (e.clusterMask &&& d.clusterMask ≠ 0)

/-- Nothing of the partition's own state keeps an admitted descriptor from starting. -/
def State.mayStart (s : State) (p : Nat) (d : Desc) : Bool :=
  let pt := s.part p
  let q := pt.subRing d.ring
  let dump := d.opcode == 3
  d.phase == .admitted && d.status.isNone && !s.halted && s.tick.running && pt.ent.ready && !pt.mirror.hold &&
  (dump || (!q.stopped && (match q.stopNum with | some n => numLe d.num n | none => true))) &&
  !(pt.descs.any fun e => e.opcode == 3 && e.active) &&
  (!dump || !(pt.descs.any fun e => e.active && !e.isWait)) &&
  !pt.slotTaken d && decide (d.clusterMask &&& pt.page.drowse = 0)

/-- Mark a descriptor started in the present tick. -/
def Desc.begin' (d : Desc) (tick : Nat) : Desc :=
  if d.started then d else { d with started := true, startTick := tick, phase := .running }

/-! ## Rates (R85, R86, R153, R209) -/

/-- Operations a core performs in a cycle for an operand pair (R85, R86). -/
def pairRate (a b : Nat) : Nat :=
  match blkOf a, blkOf b with
  | some x, some y =>
    let base := if x.bits = 8 ∨ y.bits = 8 then 2048 else if x.bits = 2 ∧ y.bits = 2 then 8192 else 4096
    if x.outl && y.outl then base / 2 else base
  | _, _ => 512

/-- Clocks an instruction occupies an engine's lanes (R153); LD and ST, 0x01 and 0x02, use the port. -/
def vecClocks (op : Nat) : Nat :=
  if op = 0x00 ∨ op = 0x09 ∨ op = 0x32 then 1
  else if op = 0x01 ∨ op = 0x02 then 0
  else if 0x60 ≤ op ∧ op ≤ 0x63 then 6
  else if op = 0x18 ∨ op = 0x19 ∨ op = 0x20 ∨ op = 0x21 ∨ op = 0x50 ∨ op = 0x51 ∨ op = 0x48 ∨ op = 0x49 ∨ op = 0x70 then 8
  else if op = 0x26 ∨ op = 0x27 ∨ op = 0x2A then 32
  else if 0x22 ≤ op ∧ op ≤ 0x29 then 16
  else 4

/-- Clocks an LD or ST of one tile occupies the port of 256 bytes per clock (R153): 32 rows of the columns of the view (R128), no
more than a tile has, of the slot's elements. Of an FP32X tensor LD moves the main word and ST both. -/
def Desc.portClocks (d : Desc) (w tileW : Nat) : Nat :=
  match d.td (d.w32 (0x58 + 4 * fld w 50 48)) with
  | some t =>
    let cols := min (if fld w 11 8 ≤ 1 then 32 else 64) tileW
    let bits := match blkOf t.format with
      | some b => b.bits
      | none => if t.format = fFP32X then (if w % 256 = 0x02 then 48 else 32) else 8 * (stridedWidth t.format).getD 2
    ceilDiv (cols * bits) 64
  | none => 0

/-- Clocks of one row group of a VEC program (R129, R153): the lanes' and the port's overlap, and the longer of the two counts.
An instruction outside the body runs once, one in it for every tile in each of its passes. -/
def Desc.vecGroupClocks (d : Desc) (tiles tileW : Nat) : Nat :=
  let b := fld (d.w32 0x48) 24 16
  let e := fld (d.w32 0x4C) 8 0
  let times (w i : Nat) : Nat := if i < b ∨ e ≤ i then 1
    else tiles * countBits 4 (if w % 256 = 0x09 ∨ w % 256 = 0x70 then fld w 24 21 else fld w 43 40)
  let total (f : Nat → Nat) : Nat := (d.prog.zipIdx).foldl (fun n (w, i) => n + f w * times w i) 0
  max (total fun w => vecClocks (w % 256))
    (total fun w => if w % 256 = 0x01 ∨ w % 256 = 0x02 then d.portClocks w tileW else 0)

/-- The operand formats, the length of the reduction and the parts per tile of an operation on the matrix array: MATMUL, a
convolution on the direct path, ATTN_SCORE and ATTN_PV (R85, R332 to R334, R353, R357). -/
def Desc.arrayWork (d : Desc) : Option (Nat × Nat × Nat × Nat) :=
  let pair (x y k split : Nat) : Option (Nat × Nat × Nat × Nat) :=
    match d.td (d.w32 x), d.td (d.w32 y) with
    | some a, some b => some (a.format, b.format, k, split)
    | _, _ => none
  let sz (ptr i : Nat) : Nat := match d.td (d.w32 ptr) with | some t => t.size.getD i 1 | none => 1
  if d.opcode = 0x0100 then pair 0x40 0x44 d.matShape.2.2 (fld (d.w32 0x50) 11 9)
  else if 0x0110 ≤ d.opcode ∧ d.opcode ≤ 0x0112 ∧ bitOf (d.w32 0x50) 12 = false then
    let taps := d.w8 0x58 * d.w8 0x59
    let k := if d.opcode = 0x0110 then taps * sz 0x44 2
      else if d.opcode = 0x0111 then taps * (sz 0x44 3 / max 1 (d.at' 0x54 2))
      else sz 0x44 0 * sz 0x44 1 * sz 0x44 3
    pair 0x40 0x44 k (fld (d.w32 0x50) 9 7)
  else if d.opcode = 0x0300 then pair 0x40 0x44 (sz 0x40 0) (fld (d.w32 0x78) 22 20)
  else if d.opcode = 0x0302 then pair 0x48 0x54 (fld (d.w32 0x78) 19 0 + 1) (fld (d.w32 0x78) 22 20)
  else none

/-- The rated rate of a descriptor on `nc` clusters at `f` MHz, where the spec gives one (R85, R86, R153). A unit on the array
is one part of a tile of 32 × 32 outputs, a unit of VEC one row group. -/
def Desc.rated (d : Desc) (nc f : Nat) : Option Rate :=
  if d.opcode = 0x0200 then
    match d.td (d.w32 0x58) with
    | some t =>
      let w := if bitOf (d.w32 0x4C) 12 then 64 else 32
      some ⟨nc * 4 * f, max (d.vecGroupClocks (ceilDiv (t.sz 0) w) w) 1 * 1000, nc, f⟩
    | none => none
  else d.arrayWork.map fun (a, b, k, split) =>
    ⟨nc * coresPerCluster * f * pairRate a b * 2 ^ split, 2048 * max k 1 * 1000, nc, f⟩

/-- The key of the partition's last measured rate: the formats in the order of the tensors, and the opcode (R209). -/
def Desc.rateKey (d : Desc) : Nat := d.tds.foldl (fun k e => k * 256 + e.2.format) 0 * 65536 + d.opcode

/-- The rate a slice of `d` is sized from, unscaled: the descriptor's own, the partition's last of the kind, 75 % of the
rated rate, or a free rate where the spec rates none (R209; log entry 6). -/
def State.baseRate (s : State) (p : Nat) (d : Desc) (nc : Nat) : Rate × State :=
  let f := s.pwr.fMhz
  match d.rate with
  | some r => (r, s)
  | none => match tlook (s.part p).rates d.rateKey with
    | some r => (r, s)
    | none => match d.rated nc f with
      | some r => ({ r with units := 3 * r.units, ns := 4 * r.ns }, s)
      | none =>
        let (a, s1) := s.free
        let (b, s2) := s1.free
        (⟨a + 1, b + 1, nc, f⟩, s2)

/-- Units per ns as a fraction: a rate scaled to `nc` clusters at `f` MHz (R209). -/
def Rate.scaled (r : Rate) (nc f : Nat) : Nat × Nat := (r.units * f * nc, max 1 (r.ns * r.f * r.nc))

/-- What R208 decides for a slice. -/
inductive SliceChoice where
  | issue (k : Nat)
  | hold
deriving DecidableEq, Repr

/-- The procedure of R208: at time `t` before boundary `b`, the period `p` of this tick and `p1` of the next in µs, the
rate num/den in units per ns, the units left. Times are scaled by 128 so that the margin is exact. -/
def sliceChoice (t b p p1 num den left : Nat) : SliceChoice :=
  let m := max 128000 (p * 1000)
  let m1 : Int := (p1 * 1000 * 128 : Nat) - (m : Int) - 2000 * 128
  let avail : Int := ((b : Int) - t) * 128 - m
  let k : Int := avail * num / (128 * den : Nat)
  if k ≥ 1 then .issue (min k.toNat left)
  else if ((den * 128 : Nat) : Int) ≤ m1 * num then .hold
  else .issue 1

/-- The clusters a descriptor uses in the tick: its set and those lent to it (R207, R217). -/
def Part.clustersNow (pt : Part) (d : Desc) : List Nat := (List.range 80).filter fun c => pt.uses d c

/-- Cluster `c` works at time `t`, and is not lent to another descriptor than `d` (R217, R481). -/
def State.clusterOpen (s : State) (p t : Nat) (d : Desc) (c : Nat) : Bool :=
  !s.pwr.drowsed.contains c && decide (tget 0 s.pwr.waking c ≤ t) &&
  (match (s.part p).lentTo c with | some l => l.ring == d.ring && l.num == d.num | none => true)

/-- A descriptor of higher rank needs one of the clusters at time `t` and keeps its claim (R206): it could issue but for slices
that run. One that waits for a lent cluster waits alone, till the boundary (R217), and one held for tick slack claims nothing. -/
def State.claimed (s : State) (p t : Nat) (d : Desc) (cl : List Nat) : Bool :=
  let pt := s.part p
  pt.descs.any fun e => !(e.ring == d.ring && e.num == d.num) && isSliced e.opcode && e.status.isNone &&
    e.slice.isNone && !e.slack && decide (e.unitsLeft > 0) && pt.before e d &&
    (e.phase == .running || s.mayStart p e) && (pt.clustersNow e).all (s.clusterOpen p t e) && cl.any fun c => pt.uses e c

/-- The clusters are free for a slice of `d` at time `t`: no slice runs on them, none of its own is lent away, none is
drowsed or still waking, and no higher claim holds them (R206, R217, R481). -/
def State.clustersFree (s : State) (p t : Nat) (d : Desc) (cl : List Nat) : Bool :=
  cl.all (fun c => ((s.part p).sliceOn c).isNone && s.clusterOpen p t d c) && !s.claimed p t d cl

/-- Issue a slice of the chosen size (R207, R208), which meets the uncorrectable word `chip` of on-chip storage, if any. -/
def State.beginSlice (s : State) (r : DRef) (d : Desc) (cl : List Nat) (k t : Nat) (chip : Option (Nat × Nat)) : State :=
  s.updDesc r fun d' =>
    { (d'.begin' s.tickNo) with slice := some ⟨d.doneUnits, k, cl, s.tickNo, t, t, s.pwr.fMhz, false, chip⟩, slack := false }

/-- Size and issue, or hold, a slice of a descriptor whose clusters are free (R208). -/
def State.sizeSlice (s : State) (r : DRef) (d : Desc) (cl : List Nat) (t : Nat) (chip : Option (Nat × Nat)) : State :=
  let nc := max 1 cl.length
  let (rate, s1) := s.baseRate r.part d nc
  let (num, den) := rate.scaled nc s.pwr.fMhz
  match sliceChoice t s.nextBoundary s.tick.period s.nextPeriod num den d.unitsLeft with
  | .issue k => s1.beginSlice r d cl (max 1 k) t chip
  | .hold => s1.updDesc r fun d' => { d' with slack := true }

/-! ## The end of a slice and of a descriptor (R209, R211, R218) -/

/-! ## Slices run -/

/-- Run `f` on the running slice of descriptor `r`, if it has not run and the opcode is `op`. Waits on words it wrote test
their conditions (R182). -/
def State.runSlice (s : State) (r : DRef) (op : Nat) (f : State → Desc → Slice → State) : State :=
  match s.desc r with
  | none => s
  | some d => match d.slice with
    | none => s
    | some sl =>
      if d.opcode ≠ op ∨ sl.ran ∨ s.halted then s
      else
        let s1 := (f s d sl).touchClusters sl.clusters
        (s1.updDesc r fun d' => { d' with slice := some { sl with ran := true } }).testWaits r.part

end Sys2Proof.Machine
end

