-- ==== Sys2Proof/Machine/Ecc.lean ====
section
/-!
DEFINITION. Errors of storage: the lanes of stacked memory, uncorrectable sectors and their consequences, and what the
reads of a command find (R281 to R285, R525, R530, R532, R535).
-/

namespace Sys2Proof.Machine

/-! ## Stacks and lanes (R265 to R267, R285) -/

def State.stack (s : State) (st : Nat) : StackSt := tget StackSt.dflt s.memc.stackTab st
def State.updStack (s : State) (st : Nat) (f : StackSt → StackSt) : State :=
  { s with memc := { s.memc with stackTab := tset StackSt.dflt s.memc.stackTab st (f (s.stack st)) } }

/-- Stack, channel and pseudo-channel of a local address. -/
def State.sectorHome (s : State) (a : Nat) : Option (Nat × Nat × Nat) :=
  (s.place a).bind fun q => (s.interOffset q).map fun d =>
    let (st, ch) := s.channelOf d
    (st, ch, q / 64 % 2)

/-- The key of a lane: 68 lanes of each channel, 34 of each pseudo-channel. -/
def laneKey (st ch pc lane : Nat) : Nat := (st * 32 + ch) * 68 + pc * 34 + lane

def State.lane (s : State) (k : Nat) : LaneSt := tget LaneSt.dflt s.memc.lanes k
def State.updLane (s : State) (k : Nat) (f : LaneSt → LaneSt) : State :=
  { s with memc := { s.memc with lanes := tset LaneSt.dflt s.memc.lanes k (f (s.lane k)) } }

/-- Another lane of the same pseudo-channel is in erasure decoding. -/
def State.otherErased (s : State) (k : Nat) : Bool :=
  s.memc.lanes.any fun (e : Nat × LaneSt) => e.2.erased && e.1 != k && e.1 / 34 == k / 34

/-- A channel has a suspect lane. -/
def State.channelSuspect (s : State) (st ch : Nat) : Bool :=
  s.memc.lanes.any fun (e : Nat × LaneSt) => e.2.suspect && e.1 / 68 == st * 32 + ch

/-- Set RETIRE_PENDING of a channel, with its record where it was clear. -/
def State.retirePending (s : State) (st ch : Nat) : State :=
  if bitOf (s.stack st).retirePending ch then s
  else (s.updStack st fun (x : StackSt) => { x with retirePending := setBit x.retirePending ch }).record
    srcMemory 0x0201 sevWarn none (st / 5) (leBytes 2 (st + ch * 256))

/-- A lane has reached the threshold (R285). -/
def State.markSuspect (s : State) (k : Nat) : State :=
  let st := k / 68 / 32
  let ch := k / 68 % 32
  let s1 := s.record srcMemory 0x0202 sevWarn none (st / 5) (leBytes 3 (st + ch * 256 + k % 68 * 65536))
  if s.otherErased k then (s1.updLane k fun (l : LaneSt) => { l with suspect := true }).retirePending st ch
  else s1.updLane k fun (l : LaneSt) => { l with suspect := true, erased := true }

/-- A symbol error corrected on a lane. -/
def State.laneError (s : State) (k : Nat) : State :=
  let n := (s.lane k).count + 1
  let s1 := s.updLane k fun (l : LaneSt) => { l with count := n }
  if 8 ≤ n ∧ (s.lane k).suspect = false then s1.markSuspect k else s1

/-! ## Uncorrectable sectors (R283, R530, R535) -/

/-- The partition whose range holds an interleaved address. -/
def State.ownerOf (s : State) (q : Nat) : Option Nat :=
  (s.parts.find? fun (e : Nat × Part) => (e.2.ent.valid || e.2.ent.ready) && decide (e.2.ent.hbmBase ≤ q ∧ q < e.2.ent.hbmBase + e.2.ent.hbmSize)).map
    (·.1)

/-- What the sector may belong to in the part of the reserve whose layout no rule gives: a binding's copies, or the
staging of a descriptor in flight. -/
inductive StagedUse where
  | binding (part bind : Nat)
  | descriptor (r : DRef)
deriving DecidableEq, Repr

/-- What the undescribed part of the reserve holds copies of. -/
def State.stagedUses (s : State) : List StagedUse :=
  s.parts.flatMap fun (e : Nat × Part) =>
    (e.2.binds.map fun (b : Nat × Binding) => StagedUse.binding e.1 b.1) ++
      (e.2.descs.filter fun (d : Desc) => d.status.isNone).map fun (d : Desc) => StagedUse.descriptor (d.ref e.1)

/-- A descriptor names a binding (R447, R448): by its fields, or, once admitted, by what it gathers or updates. -/
def Desc.namesBinding (d : Desc) (n : Nat) : Bool :=
  (match d.upd with | some u => u.bind == n | none => false) ||
  (match d.coll with | some c => c.wc == some n | none => false) ||
  (0x0600 ≤ d.opcode && d.opcode ≤ 0x0603 && fld (d.w32 0x40) 9 0 == n)

/-- A descriptor completes MEMORY_UNCORRECTABLE: one that has started at its end, any other at once. -/
def Desc.loseCopy (d : Desc) (a : Nat) : Desc := if d.started then d.decide' stMemory a else d.finish stMemory a

/-- A binding is broken, and with it the admitted descriptors that name it, but for the one that unbinds it; those not admitted meet
it there. Or a descriptor completes MEMORY_UNCORRECTABLE (R535). -/
def State.breakUse (s : State) (a : Nat) : StagedUse → State
  | .binding p b => s.updPart p fun (q : Part) =>
      { q with
        binds := q.binds.map fun (x : Nat × Binding) => if x.1 == b then (b, { x.2 with broken := some a }) else x
        descs := q.descs.map fun (d : Desc) =>
          if d.namesBinding b && !d.unbinds && (d.phase == .admitted || d.phase == .running) then d.loseCopy a else d }
  | .descriptor r => s.updDesc r fun (x : Desc) => x.loseCopy a

/-- The sector at `a` lies in a job's descriptor or rank table. -/
def Job.holds (j : Job) (a : Nat) : Bool := overlap j.desc 64 a 64 || overlap j.table (4 * j.ranks) a 64

/-- The consequence of an uncorrectable sector of the reserve (R535). Which of the copies in the undescribed part it hits,
if any, is free (log entry 6). -/
def State.reserveLoss (s : State) (a : Nat) : State :=
  let s1 := s.record srcMemory 0x0204 sevError none (((s.sectorHome a).getD (0, 0, 0)).1 / 5) (leBytes 8 a)
  if s.parts.any fun (e : Nat × Part) => match e.2.job with | some j => j.holds a | none => false then
    { s1 with parts := tmap (fun _ (q : Part) => match q.job with
        | some j => if j.holds a then { q with job := some { j with broken := some a } } else q
        | none => q) s1.parts }
  else if 0x1DFF0000000 ≤ a ∧ a < 0x1DFF4000000 then s1.unpoison a
  else if 0x1DFF4000000 ≤ a ∧ a < 0x1DFF8800000 ∨ 0x1DFFFF80000 ≤ a ∨ 0x1DFEC000000 ≤ a ∧ a < 0x1DFF0000000 then s1
  else
    let l := s1.stagedUses
    let (x, s2) := s1.freeBelow (l.length + 1)
    match l[x]? with
    | some u => s2.breakUse a u
    | none => s2

/-- An uncorrectable codeword in the sector at `a`: the sector is poisoned and reported once, with the finding descriptor's
tag. -/
def State.poisonSector (s : State) (a finder tag : Nat) : State :=
  match s.place a, s.sectorHome a with
  | some q, some (st, _, _) =>
    if s.isPoison a then s
    else
      let s1 := (s.setPoison a).updStack st fun (x : StackSt) => { x with uncorrectable := x.uncorrectable + 1 }
      match s1.ownerOf q with
      | some p => (s1.exception p (s1.memErrorBytes tag s1.tickNo (a / 64 * 64) finder 1) false).1
      | none => if reserveBase ≤ q then s1.reserveLoss (q / 64 * 64) else s1
  | _, _ => s

/-- What a read of the sector at `a` meets (R281, R283, R285): a wrong symbol is corrected, or, while another lane of its
pseudo-channel is in erasure decoding, detected as uncorrectable; either way it counts towards its lane's threshold (DEDUCED,
log entry 40). An undetected error leaves the bytes the read returned in the sector (DESIGN CHOICE, log entry 40). -/
def State.readSector (s : State) (a : Nat) (ecc : Ecc) (finder tag : Nat) : State :=
  match ecc, s.sectorHome a with
  | .corrected lane, some (st, ch, pc) =>
    let k := laneKey st ch pc lane
    if s.otherErased k then (s.poisonSector a finder tag).laneError k
    else (s.updStack st fun (x : StackSt) => { x with corrected := x.corrected + 1 }).laneError k
  | .uncorrectable, _ => s.poisonSector a finder tag
  | .undetected bytes, _ => s.wrRaw (a / 64 * 64) (bytes.take 64)
  | _, _ => s

/-! ## What a command's reads find (R281, R532) -/

/-- The state after what the device's reads find wrong: sectors as `readSector` says, corrected words of on-chip storage
counted: one unbounded count per WHERE code, which every reset and the entry of DORMANT or OFF empties (DESIGN CHOICE, log entry
56). An uncorrectable word acts on the engine that reads it. -/
def State.findAll (s : State) (finder tag : Nat) (l : List Found) : State :=
  foldS (fun (t : State) (f : Found) => match f with
    | .sector a e => t.readSector a e finder tag
    | .word store _ true => { t with chipFixed := tset 0 t.chipFixed store (tget 0 t.chipFixed store + 1) }
    | .word _ _ false => t) s l

/-- What the reads of descriptor `r` find; the sectors newly poisoned are counted for its record (R530). -/
def State.foundBy (s : State) (r : DRef) (l : List Found) : State :=
  let t := s.findAll 0 (((s.desc r).map Desc.tag).getD 0) l
  if t.poison.length ≤ s.poison.length then t
  else t.updDesc r fun d => { d with memSectors := d.memSectors + (t.poison.length - s.poison.length) }

/-- What the reads of a descriptor's command find, where the package runs. -/
def State.finds (s : State) (r : DRef) (l : List Found) : State := if s.halted then s else s.foundBy r l

/-- The first uncorrectable word of on-chip storage among what is found: WHERE and cluster. -/
def chipOf (l : List Found) : Option (Nat × Nat) :=
  l.findSome? fun f => match f with
    | .word store cluster false => some (store, cluster)
    | _ => none

end Sys2Proof.Machine
end

