-- ==== Sys2Proof/Machine/Coll.lean ====
section
/-!
DEFINITION. Collectives: the six opcodes, their chunks and frames, the fixed tree, the integrity check, digests, working-copy
gathers (R408 to R437, R465 to R469).
-/

namespace Sys2Proof.Machine

/-! ## Parameters (R412) -/

def Desc.gSize (d : Desc) : Nat := fld (d.w32 0x50) 18 0 + 1
def Desc.pack (d : Desc) : Bool := bitOf (d.w32 0x50) 19
def Desc.isUpd (d : Desc) : Bool := d.opcode == 0x0501 && bitOf (d.w32 0x50) 20
def Desc.chOff (d : Desc) : Nat := fld (d.w32 0x50) 29 24
def Desc.root (d : Desc) : Nat := fld (d.w32 0x54) 18 0
def Desc.moveCount (d : Desc) : Nat := fld (d.w32 0x70) 23 0
def Desc.lateTicks (d : Desc) : Nat := if d.at' 0x74 2 = 0 then 1024 else d.at' 0x74 2
def Desc.isColl (d : Desc) : Bool := 0x0500 ≤ d.opcode && d.opcode ≤ 0x0505

/-- L (R409). -/
def Desc.steps (d : Desc) : Nat := ceilLog2 d.gSize

/-- Channels a collective uses (R413). -/
def Desc.chans (d : Desc) : Nat := if d.opcode = 0x0505 then 4 else 2 * d.steps

def MiB : Nat := 2 ^ 20

/-- Bytes of SCRATCH (R413). -/
def Desc.scratchLen (d : Desc) : Nat :=
  if d.opcode = 0x0501 ∨ d.opcode = 0x0502 then 2 * MiB * d.steps else if d.opcode = 0x0505 then 2 * MiB else 0

/-- Fetch checks of a collective (R409, R412, R413). The pointers of BROADCAST depend on the group and are checked at
admission. -/
def collSpec (s : State) (p : Nat) (d : Desc) : OpSpec :=
  let op := d.opcode
  let red := op == 0x0501 || op == 0x0502
  let (ti, to') := (d.w32 0x40, d.w32 0x44)
  { mask := [bits32 0x40, bits32 0x44, bits44 0x48, bitsAt 0x50 0 21, bitsAt 0x50 24 6, bitsAt 0x50 32 19, bits44 0x58,
      bits44 0x60, bits44 0x68, bitsAt 0x70 0 24, bitsAt 0x70 32 16]
    encOk := (op == 0x0503 || d.root == 0) && (op != 0x0503 || d.root < d.gSize) && (red || !d.pack) &&
      (op == 0x0501 || !bitOf (d.w32 0x50) 20) && (op == 0x0505 || (d.addr 0x68 == 0 && d.moveCount == 0)) &&
      ((op == 0x0504) == (d.addr 0x60 == 0)) &&
      (if op == 0x0500 || op == 0x0502 then ptrRule ti true && ptrRule to' true
       else if op == 0x0501 then ptrRule ti true && ptrRule to' (!d.isUpd)
       else op == 0x0503 || (ptrRule ti false && ptrRule to' false))
    tdps := [ti, to']
    ranges := [(d.addr 0x48, 4 * d.gSize, 64)] ++
      (if d.scratchLen = 0 then [] else [(d.addr 0x58, d.scratchLen, 4096)]) ++
      (if op = 0x0504 then [] else [(d.addr 0x60, 64 * d.chans, 64)]) ++
      (if op = 0x0505 then [(d.addr 0x68, 32 * d.moveCount, 64)] else [])
    win := []
    set := 2
    units := []
    assigned := (d.chans == 0 || decide (d.chOff + d.chans ≤ (s.part p).ent.chCount)) && decide (d.addr 0x58 % 4096 = 0) }

/-! ## Bindings and digest trees, as gathers read them (R460, R464, R465) -/

/-- Planes of a working copy that its tree covers: base and length (R464). -/
def TensorDesc.treePlanes (t : TensorDesc) : List (Nat × Nat) := { t with sentryEn := false }.planes

/-- Leaves of a plane. -/
def leavesOf (len : Nat) : Nat := ceilDiv len 4096

/-- NLEAF of planes. -/
def nLeaf (planes : List (Nat × Nat)) : Nat := planes.foldl (fun n p => n + leavesOf p.2) 0

/-- Index of the leaf at byte `off` of plane `p`. -/
def leafIndex (planes : List (Nat × Nat)) (p off : Nat) : Nat :=
  (planes.take p).foldl (fun n q => n + leavesOf q.2) 0 + off / 4096

/-- The leaf digests of planes as they stand. -/
def State.leafDigests (s : State) (planes : List (Nat × Nat)) : List (List Byte) :=
  planes.flatMap fun p => (List.range (leavesOf p.2)).map fun j =>
    digestOf (s.rdBytes (p.1 + 4096 * j) (min 4096 (p.2 - 4096 * j)))

/-- Store levels of digests one after another. -/
def State.storeLevels (s : State) (a : Nat) (ls : List (List (List Byte))) : State :=
  s.wrBytes a (ls.flatMap fun l => l.flatten)

/-- The root of a tree whose levels above the leaves are given. -/
def rootOf (leaves : List (List Byte)) (ls : List (List (List Byte))) : List Byte :=
  ((ls.getLast?.getD leaves).headD (List.replicate 16 0))

/-- The 64-byte header of R460. -/
def treeHeader (step : Nat) (valid part : Bool) (n : Nat) (root : List Byte) : List Byte :=
  leBytes 8 (step + (if valid then 2 ^ 32 else 0) + (if part then 2 ^ 33 else 0)) ++ leBytes 8 n ++ padTo 16 root ++
    List.replicate 32 0

/-- Write the upper levels over the leaves that stand in the TREE area, and the header (R460, R464). -/
def State.closeTree (s : State) (tree step : Nat) (planes : List (Nat × Nat)) (part : Bool) : State :=
  let n := nLeaf planes
  let leaves := (List.range n).map fun j => s.rdBytes (tree + 64 + 16 * j) 16
  let up := treeLevels 64 leaves
  (s.storeLevels (tree + 64 + 16 * n) up).wrBytes tree (treeHeader step true part n (rootOf leaves up))

/-- The stamp permits a gather of `step` (R465). -/
def State.stampOk (s : State) (tree step : Nat) : Bool :=
  bitOf (s.rdN tree 8) 32 && decide (seqSub (s.rdN tree 4) step < 2 ^ 31)

def Part.binding (pt : Part) (n : Nat) : Option Binding := tlook pt.binds n

/-- The planes of a binding's master, working copy and states. -/
def Binding.ownPlanes (b : Binding) : List (Nat × Nat) := ([b.master, b.wc] ++ b.states).flatMap TensorDesc.planes

/-- The binding whose working copy a pointer names (R465). -/
def Part.wcBinding (pt : Part) (ptr : Nat) : Option Nat := (pt.binds.find? fun b => b.2.wcPtr == ptr).map (·.1)

/-- The binding whose GRAD_ID is a tensor's identifier (R450). -/
def Part.gradBinding (pt : Part) (id : Nat) : Option Nat := (pt.binds.find? fun b => b.2.gradId == id).map (·.1)

/-! ## Admission (R408, R413, R414, R430, R434, R450) -/

/-- Strides of a dense strided tensor (R430); the stride of a dimension of size 1 is free (R161). -/
def TensorDesc.dense (t : TensorDesc) : Bool :=
  match stridedWidth t.format with
  | some _ => (t.sz 1 == 1 || t.stride 1 == t.sz 0) && (t.sz 2 == 1 || t.stride 2 == t.sz 0 * t.sz 1) &&
      (t.sz 3 == 1 || t.stride 3 == t.sz 0 * t.sz 1 * t.sz 2)
  | none => true

/-- GATHER's rules on IN alone (R46, R430). -/
def gatherInOk (i : TensorDesc) : Bool :=
  i.format != fW48 && i.dense && (!isBlk i.format || (if i.rank = 1 then i.sz 0 % 32 == 0 else decide (i.blockDim ≠ i.rank - 1))) &&
  (i.format != fXC16 || i.blocks % 32 == 0)

/-- GATHER's rules on OUT (R430). A sentry plane of OUT needs one of IN to come from (DESIGN CHOICE, log entry 29). -/
def gatherOutOk (g : Nat) (i o : TensorDesc) : Bool :=
  i.format == o.format && i.rank == o.rank && i.blockDim == o.blockDim && o.dense && (i.sentryEn || !o.sentryEn) &&
  ((List.range 4).all fun k => if k = i.rank - 1 then o.sz k == g * i.sz k else o.sz k == i.sz k) &&
  (i.format != fXC16 || o.ovfCap == g * i.ovfCap)

/-- One move of a PERMUTE (R434). -/
structure Move where
  round : Nat
  peer : Nat
  recv : Bool
  local' : Nat
  len : Nat
  ok : Bool
deriving DecidableEq, Repr

/-- Parse a move table entry; a reserved field makes it not `ok`. -/
def moveOf (l : List Byte) : Move :=
  let w (o n : Nat) : Nat := leNat (sliceList l o n)
  { round := w 0 4, peer := fld (w 4 4) 18 0, recv := bitOf (w 4 4) 19, local' := w 8 8 % 2 ^ 44,
    len := fld (w 0x10 8) 20 0,
    ok := decide (fld (w 4 4) 31 20 = 0 ∧ w 8 8 < 2 ^ 44 ∧ fld (w 0x10 8) 63 21 = 0 ∧ w 0x18 8 = 0 ∧
      1 ≤ fld (w 0x10 8) 20 0 ∧ fld (w 0x10 8) 20 0 ≤ MiB) }

/-- The moves a PERMUTE has read. -/
def Desc.moves (d : Desc) : List Move := (List.range (d.list.length / 32)).map fun k => moveOf (sliceList d.list (32 * k) 32)

/-- ROUND ascends, and a round holds at most one send and one receive (R434). -/
def movesAscend : List Move → Bool
  | [] => true
  | [_] => true
  | a :: b :: t =>
    (decide (a.round < b.round) || (a.round == b.round && a.recv != b.recv &&
      (match t with | c :: _ => decide (b.round < c.round) | [] => true))) && movesAscend (b :: t)

/-- The rules of R434 on a move table, ranges apart. -/
def State.movesOk (s : State) (g i : Nat) (l : List Move) : Bool :=
  let rx := l.filter (·.recv)
  let tx := l.filter fun m => !m.recv
  movesAscend l && l.all (fun m => m.ok && decide (m.peer < g) && m.peer != i) &&
  (rx.zipIdx).all (fun (a, j) => (rx.drop (j + 1)).all fun b => !s.sharesByte a.local' a.len b.local' b.len) &&
  rx.all fun a => tx.all fun b => !s.sharesByte a.local' a.len b.local' b.len || decide (b.round ≤ a.round)

/-- Ascending, of ranks below `n`. -/
def ranksOk (n : Nat) : List Nat → Bool
  | [] => true
  | [a] => decide (a < n)
  | a :: b :: t => decide (a < b) && ranksOk n (b :: t)

/-! ## Moved bytes (R415, R420, R430, R432) -/

/-- The planes of a tensor as bytes that are moved: base and length. A strided tensor's are its elements, whatever lies
between them (DEDUCED, log entry 29). -/
def TensorDesc.movePlanes (t : TensorDesc) : List (Nat × Nat) :=
  match stridedWidth t.format with
  | some w => if t.count = 0 then [] else [(t.wd 0, w * t.count)]
  | none => t.planes

/-- Bytes moved in all. -/
def TensorDesc.moveLen (t : TensorDesc) : Nat := t.movePlanes.foldl (fun n q => n + q.2) 0

/-- Where moved byte `off` of a plane lies, from the plane's base. -/
def TensorDesc.memOff (t : TensorDesc) (off : Nat) : Nat :=
  match stridedWidth t.format with
  | some w => if t.dense then off else t.elemAddr (off / w) - t.wd 0 + off % w
  | none => off

/-- Bytes that lie one after another from moved byte `off` on, at most a frame's. -/
def TensorDesc.rowRest (t : TensorDesc) (off : Nat) : Nat :=
  match stridedWidth t.format with
  | some w => if t.dense then 8192 else min 8192 (w * t.sz 0 - off % (w * t.sz 0))
  | none => 8192

/-- The moved byte that lies `m` bytes from the plane's base. -/
def TensorDesc.moveOff (t : TensorDesc) (m : Nat) : Nat :=
  match stridedWidth t.format with
  | some w =>
    if t.dense then m
    else
      let at' (e : Nat) : Nat := t.elemAddr e - t.wd 0
      let e := ((List.range t.count).find? fun e => decide (at' e ≤ m ∧ m < at' e + w)).getD 0
      w * e + (m - at' e)
  | none => m

/-- The number of plane `p` in OUT_BASE: the sentry plane has number 3 (R158, R422). -/
def TensorDesc.planeNo (t : TensorDesc) (p : Nat) : Nat := if t.sentryEn ∧ p + 1 = t.planes.length then 3 else p

/-- Cut `n` moved bytes from `off` on into frames: offset and length. -/
def cutRuns (rest : Nat → Nat) : Nat → Nat → Nat → List (Nat × Nat)
  | 0, _, _ => []
  | k + 1, off, n =>
    if n = 0 then []
    else
      let len := min n (max 1 (rest off))
      (off, len) :: cutRuns rest k (off + len) (n - len)

/-- The elements of shard `k` of `e` over `g` (R414). -/
def shardAt (e g k : Nat) : Nat := k * e / g

/-- Admission of a collective: its state holds the group, this rank's index and the peers' rank-table entries. -/
def admitColl (s : State) (p : Nat) (d : Desc) : Chk Desc := do
  let pt := s.part p
  let g := d.gSize
  let job ← match pt.job with
    | some j => (.ok j : Chk Job)
    | none => bad 0x08 0xFF
  needWhole job.broken
  s.needClean (d.addr 0x48) (4 * g)
  let raw := (List.range g).map fun k => s.rdN (d.addr 0x48 + 4 * k) 4
  need (raw.all (· < 2 ^ 19) && ranksOk job.ranks raw) 0x08 0xFF
  for r in raw do s.needClean (job.table + 4 * r) 4
  let entries := raw.map fun r => s.rdN (job.table + 4 * r) 4
  let me := s.fab.pkg + p * 65536
  let i := entries.findIdx (· == me)
  need (decide (i < g)) 0x08 0xFF
  let hasIn := d.w32 0x40 != noTensor
  let hasOut := d.w32 0x44 != noTensor
  need (d.opcode != 0x0503 || (hasIn == (i == d.root) && (hasOut || i == d.root))) 0x08 0xFF
  let red := d.opcode == 0x0501 || d.opcode == 0x0502
  let ti ← if hasIn then (s.readTd p (d.w32 0x40) 0 (if red then .read else .moved)).map some
    else (.ok none : Chk (Option TensorDesc))
  let to' ← if hasOut then (s.readTd p (d.w32 0x44) 1 (if red then .quant else .moved)).map some
    else (.ok none : Chk (Option TensorDesc))
  let fb (t : TensorDesc) : Bool := t.format == fFP32 || t.format == fBF16
  match to' with
  | some o => need (red || (o.injective && !o.rmode && (o.sentryEn || decide (o.sentryId = 0)))) 0x07 1
  | none => .ok ()
  let e := (ti.map TensorDesc.count).getD 0
  let count ← match d.opcode, ti, to' with
    | 0x0500, some t, some o => do
      need (gatherInOk t) 0x08 0
      need (gatherOutOk g t o) 0x08 1
      (.ok o.moveLen : Chk Nat)
    | 0x0501, some t, o => do
      need (fb t) 0x08 0
      need (match o with
        | some o => fb o && decide (o.count = shardAt e g (i + 1) - shardAt e g i)
        | none => true) 0x08 1
      (.ok e : Chk Nat)
    | 0x0502, some t, some o => do
      need (fb t) 0x08 0
      need (fb o && decide (o.count = e)) 0x08 1
      (.ok e : Chk Nat)
    | 0x0503, t, o => do
      need ((ti.map (·.format)) != some fW48) 0x08 0
      need ((to'.map (·.format)) != some fW48) 0x08 1
      (.ok (((t <|> o).map TensorDesc.moveLen).getD 0) : Chk Nat)
    | _, _, _ => (.ok 0 : Chk Nat)
  let moves ← if d.opcode = 0x0505 then do
      s.needClean (d.addr 0x68) (32 * d.moveCount)
      (.ok (s.rdBytes (d.addr 0x68) (32 * d.moveCount)) : Chk (List Byte))
    else (.ok [] : Chk (List Byte))
  let d1 := { d with list := moves }
  need (s.movesOk g i d1.moves) 0x08 0xFF
  need (d1.moves.all fun m => s.inRange pt m.local' m.len) 0x05 0xFF
  let bind := if d.isUpd then (ti.map (·.id)).bind pt.gradBinding else none
  match d.isUpd, bind.bind pt.binding with
  | true, some b => do
    needWhole b.broken
    need (e % (32 * g) == 0 && b.master.sz 0 == e / g) 0x08 0xFF
  | true, none => bad 0x08 0xFF
  | false, _ => .ok ()
  match (if d.opcode = 0x0500 then pt.wcBinding (d.w32 0x40) else none).bind pt.binding with
  | some b => needWhole b.broken
  | none => .ok ()
  s.needOwned pt ((ti.map TensorDesc.planes).getD [] ++ (to'.map TensorDesc.planes).getD [] ++
    d1.moves.map (fun m => (m.local', m.len)) ++ ((bind.bind pt.binding).map Binding.ownPlanes).getD [] ++ (if d.scratchLen = 0 then [] else [(d.addr 0x58, d.scratchLen)]))
  let upd ← match bind, bind.bind pt.binding with
    | some n, some b => do
      s.needClean b.scalarsAt 64
      let now := [s.rdN (pt.use.sentryBase + 32 * b.wc.sentryId + 0x10) 8,
        s.rdN (pt.use.sentryBase + 32 * b.wc.sentryId + 0x18) 4, s.rdN (pt.use.sentryBase + 32 * b.wc.sentryId + 0x1C) 4]
      let delta (k w : Nat) : Nat := match b.prevSentry with
        | some l => if b.wc.sentryId = 0 then 0 else (now.getD k 0 + 2 ^ w - l.getD k 0) % 2 ^ w
        | none => 0
      (.ok (some ⟨n, (List.range 16).map fun k => s.rdN (b.scalarsAt + 4 * k) 4,
        [enc32 (Fp.ofNat (delta 0 64)), enc32 (Fp.ofNat (delta 1 32)), enc32 (Fp.ofNat (delta 2 32))], [], [], false⟩) :
        Chk (Option UpdRun))
    | _, _ => (.ok none : Chk (Option UpdRun))
  return { d1 with
    tds := (ti.map fun t => (d.w32 0x40, t)).toList ++ (to'.map fun t => (d.w32 0x44, t)).toList
    upd := upd
    coll := some {
      g := g, i := i, elems := count, ranks := raw, entries := entries, bound := [], basesSent := [],
      basesGot := [], recv := [], ownDone := false, red := [], rxBuf := [], sends := [], got := [],
      leaves := [], checked := [], tokensSent := [], tokensGot := [], grantsSent := [], grantsGot := [], arrived := [],
      moved := [], suspects := [], attempts := [], wc := if d.opcode = 0x0500 then pt.wcBinding (d.w32 0x40) else none,
      cur := [], progressTick := s.tickNo, lateReported := false,
      lostToken := false } }

/-- An admitted REDUCE_SCATTER with UPDATE 1 latches the sentry counts for its binding's next delta (R455). -/
def State.latchSentry (s : State) (r : DRef) : State :=
  match (s.desc r).bind (·.upd) with
  | none => s
  | some u => s.updPart r.part fun q => match q.binding u.bind with
      | some b =>
        let a := q.use.sentryBase + 32 * b.wc.sentryId
        { q with binds := tput q.binds u.bind { b with
          prevSentry := some [s.rdN (a + 0x10) 8, s.rdN (a + 0x18) 4, s.rdN (a + 0x1C) 4] } }
      | none => q

/-! ## Blocks and chunks (R414, R415) -/

def Desc.tin (d : Desc) : Option TensorDesc := d.td (d.w32 0x40)
def Desc.tout (d : Desc) : Option TensorDesc := d.td (d.w32 0x44)

/-- The tensor whose planes a BROADCAST rank reads and writes, or OUT. -/
def Desc.wholeTensor (d : Desc) : Option TensorDesc :=
  if d.opcode = 0x0503 then (if d.w32 0x40 != noTensor then d.tin else d.tout) else d.tout

/-- The planes moved: base and length. -/
def Desc.wholePlanes (d : Desc) : List (Nat × Nat) := (d.wholeTensor.map TensorDesc.movePlanes).getD []

/-- Where a moved byte lies, from its plane's base. -/
def Desc.memOff (d : Desc) (off : Nat) : Nat := (d.wholeTensor.map fun t => t.memOff off).getD off

/-- The base of plane `p` among plane bases by number (R422). -/
def Desc.baseOf (d : Desc) (out : List Nat) (p : Nat) : Nat := out.getD ((d.wholeTensor.map fun t => t.planeNo p).getD p) 0

/-- The plane bases of a tensor by number. -/
def TensorDesc.outBases (t : TensorDesc) : List Nat :=
  (List.range 4).map fun k => ((t.movePlanes.zipIdx.find? fun e => t.planeNo e.2 == k).map (·.1.1)).getD 0

/-- The bases of this rank's own moved planes. -/
def Desc.ownBases (d : Desc) : List Nat := (d.wholeTensor.map TensorDesc.outBases).getD []

/-- Element width of OUT of an ALL_REDUCE. -/
def Desc.outWidth (d : Desc) : Nat := ((d.tout.map (·.format)).bind stridedWidth).getD 4

/-- Start and length of block `o` within plane `p` (R415, R420, R430). -/
def Desc.blockSpan (d : Desc) (c : Coll) (o p : Nat) : Nat × Nat :=
  let len := (d.wholePlanes.getD p (0, 0)).2
  if d.opcode = 0x0500 then (o * (len / c.g), len / c.g)
  else if d.opcode = 0x0502 then
    let w := d.outWidth
    (w * shardAt c.elems c.g o, w * (shardAt c.elems c.g (o + 1) - shardAt c.elems c.g o))
  else (0, len)

/-- The chunks of block `o`: plane, offset within the block, bytes. -/
def Desc.pieces (d : Desc) (c : Coll) (o : Nat) : List (Nat × Nat × Nat) :=
  (List.range d.wholePlanes.length).flatMap fun p =>
    let n := (d.blockSpan c o p).2
    (List.range (ceilDiv n MiB)).map fun j => (p, j * MiB, min MiB (n - j * MiB))

/-- The key of chunk `j` of block `o`. -/
def blockKey (o j : Nat) : Nat := o * 2 ^ 32 + j

/-- The chunk a key names: its block, plane, offset in the plane and length. -/
def Desc.chunkOf (d : Desc) (c : Coll) (key : Nat) : Nat × Nat × Nat × Nat :=
  let o := key / 2 ^ 32
  let (p, off, n) := (d.pieces c o).getD (key % 2 ^ 32) (0, 0, 0)
  (o, p, (d.blockSpan c o p).1 + off, n)

/-- The plane whose moved bytes hold byte `a` of memory, for the planes at `bases`, and the moved byte it is. -/
def Desc.movedAt (d : Desc) (bases : List Nat) (a : Nat) : Option (Nat × Nat) :=
  (d.wholeTensor.map fun t => (t.planes.zipIdx).findSome? fun (q, p) =>
    let b := d.baseOf bases p
    if b ≤ a ∧ a < b + q.2 then some (p, t.moveOff (a - b)) else none).getD none

/-- The key of the chunk that holds byte `a` of memory, for the planes at `bases`. -/
def Desc.keyAt (d : Desc) (c : Coll) (bases : List Nat) (a : Nat) : Option Nat :=
  let blocks := if d.opcode = 0x0503 then [0] else List.range c.g
  (d.movedAt bases a).bind fun (q, m) =>
    blocks.findSome? fun o => ((d.pieces c o).zipIdx).findSome? fun ((p, off, n), j) =>
      let lo := (d.blockSpan c o p).1 + off
      if p = q ∧ lo ≤ m ∧ m < lo + n then some (blockKey o j) else none

/-- The chunk lies in a sentry plane, which no tree covers (R464, R466). -/
def Desc.bareKey (d : Desc) (c : Coll) (key : Nat) : Bool :=
  (d.wholeTensor.map (·.sentryEn)).getD false && (d.chunkOf c key).2.1 + 1 == d.wholePlanes.length

/-- Elements of a reduction chunk (R415). -/
def redLen : Nat := 262144

/-- The reduction chunks in order: owner, first element, elements. Its place in the list is a chunk's number c. -/
def Coll.chunks (c : Coll) : List (Nat × Nat × Nat) :=
  (List.range c.g).flatMap fun o =>
    let (a, b) := (shardAt c.elems c.g o, shardAt c.elems c.g (o + 1))
    (List.range (ceilDiv (b - a) redLen)).map fun j => (o, a + j * redLen, min redLen (b - a - j * redLen))

/-- The chunk id of chunk `k` (R415). -/
def Coll.chunkId (c : Coll) (k : Nat) : Nat := k + (c.chunks.getD k (0, 0, 0)).1 * 2 ^ 32

/-- The relative index of this rank in the tree of shard `o` (R417). -/
def Coll.rel (c : Coll) (o : Nat) : Nat := (c.i + c.g - o) % c.g

/-- The schedule of sends (R417, R420, R431, R432, R435), in order of step. -/
def Desc.schedule (d : Desc) (c : Coll) : List SendItem :=
  let item (k m : Nat) (red : Bool) (key : Nat) : SendItem := ⟨k, m, red, key, false, 0, false, false⟩
  let redPart := if d.opcode = 0x0501 ∨ d.opcode = 0x0502 then
      (List.range d.steps).flatMap fun k => (c.chunks.zipIdx).filterMap fun (ch, n) =>
        if c.rel ch.1 % 2 ^ (k + 1) = 2 ^ k then some (item k (2 * k + 1) true n) else none
    else []
  let blocks := if d.opcode = 0x0500 ∨ d.opcode = 0x0502 then
      (List.range d.steps).flatMap fun k => (List.range (min (2 ^ k) (c.g - 2 ^ k))).flatMap fun t =>
        let o := (c.i + t) % c.g
        (List.range (d.pieces c o).length).map fun j => item k (2 * k + 1) false (blockKey o j)
    else if d.opcode = 0x0503 then
      let r := c.rel d.root
      (List.range d.steps).flatMap fun k => if r < 2 ^ k ∧ r + 2 ^ k < c.g then
        (List.range (d.pieces c 0).length).map fun j => item k (2 * k) false (blockKey 0 j) else []
    else []
  let moves := (d.moves.zipIdx).filterMap fun (m, n) =>
    if m.recv then none else some (item m.round (2 * (m.round % 2)) false n)
  redPart ++ blocks ++ moves

/-! ## Peers and channels (R409, R411) -/

/-- The local channel with relative number `m`. -/
def Part.collChan (pt : Part) (d : Desc) (m : Nat) : Nat := pt.ent.chBase + d.chOff + m

/-- The move a PERMUTE's channel serves in a round: a send on even channels, a receive on odd ones. -/
def Desc.moveAt (d : Desc) (round m : Nat) : Option Move :=
  d.moves.find? fun x => x.round == round && x.recv == (m % 2 == 1)

/-- Group index of the peer on channel `m`. -/
def Desc.peerIdx (d : Desc) (c : Coll) (m : Nat) : Nat :=
  if d.opcode = 0x0505 then ((tlook c.bound m).bind fun r => d.moveAt r m).elim c.i (·.peer)
  else if m % 2 = 0 then (c.i + 2 ^ (m / 2)) % c.g
  else (c.i + c.g - 2 ^ (m / 2)) % c.g

/-- The peer of channel `m`: the rank table's package and partition, and the paired channel. -/
def Part.collPeer (pt : Part) (d : Desc) (c : Coll) (m : Nat) : Peer :=
  let e := c.entries.getD (d.peerIdx c m) 0
  ⟨e % 65536, fld e 18 16, pt.collChan d (m ^^^ 1)⟩

/-- Change a descriptor's collective state. -/
def State.updColl (s : State) (r : DRef) (f : Coll → Coll) : State :=
  s.updDesc r fun d => { d with coll := d.coll.map f }

/-- The running collective of a reference. -/
def State.collOf (s : State) (r : DRef) : Option (Desc × Coll) :=
  match s.desc r with
  | some d => if d.isColl && d.phase == .running then d.coll.map fun c => (d, c) else none
  | none => none

/-- Bind channel `m` for a descriptor (R411): an OPEN channel of that peer keeps its state, any other is reset. The digest of
what it sent starts anew with another descriptor (R428). -/
def State.bindChan (s : State) (r : DRef) (d : Desc) (c : Coll) (m : Nat) : State :=
  let pt := s.part r.part
  let n := pt.collChan d m
  let peer := pt.collPeer d c m
  let old := s.chan n
  let ch := { old with sent := if old.user = some r then old.sent else Digest.empty }
  if ch.takes peer then s.setChan n { ch with user := some r }
  else (s.setChan n { ch with user := some r, peer := some peer, st := .closed }).startReset n r.part true true

/-- The 64-byte BASES payload (R422). -/
def Desc.basesBytes (d : Desc) (c : Coll) : List Byte :=
  let out := if d.opcode = 0x0500 ∨ d.opcode = 0x0502 ∨ d.opcode = 0x0503 then
      (d.tout.map TensorDesc.outBases).getD [] else []
  leBytes 4 d.opcode ++ leBytes 4 d.tag ++ leBytes 8 (c.g - 1) ++ leBytes 8 c.elems ++ leBytes 8 (d.addr 0x58) ++
    (List.range 4).flatMap fun k => leBytes 8 (out.getD k 0)

/-- Parse a BASES payload. -/
def basesOf (l : List Byte) : Bases :=
  let w (o n : Nat) : Nat := leNat (sliceList l o n)
  ⟨w 0 2, w 4 4, fld (w 8 8) 18 0, w 0x10 8, w 0x18 8 % 2 ^ 44, (List.range 4).map fun k => w (0x20 + 8 * k) 8 % 2 ^ 44⟩

/-- OP of a collective frame (R421). -/
def opField (kind step : Nat) (suspect : Bool) : Nat := kind + step % 32 * 8 + (if suspect then 256 else 0)

/-- The step of channel `m` in OP. -/
def Desc.stepOf (d : Desc) (m : Nat) : Nat := if d.opcode = 0x0505 then 0 else m / 2

/-- Note progress of a collective (R437). -/
def Coll.progress (c : Coll) (tick : Nat) : Coll := { c with progressTick := tick, lateReported := false }

/-! ## The end of a collective (R428, R460, R474) -/

/-- A digest table entry (R428); `a` is the digest of what channel `m` sent. -/
def Desc.digestEntry (d : Desc) (c : Coll) (m : Nat) (a : Digest) : List Byte :=
  let b := tget Digest.empty c.recv m
  padTo 64 (a.bytes ++ b.bytes ++ leBytes 8 a.len ++ leBytes 8 b.len ++ leBytes 8 (c.ranks.getD (d.peerIdx c m) 0))

/-- The stamp after a REDUCE_SCATTER with UPDATE 1 (R460, R474): the tree is closed and the stamp advances, or PARTIAL is
set. -/
def State.stampUpdate (s : State) (r : DRef) (d : Desc) (u : UpdRun) (whole : Bool) : State :=
  match (s.part r.part).binding u.bind with
  | none => s
  | some b =>
    let h := s.rdN b.tree 8
    if whole && !u.failed then
      let t := s.noteBad r (s.poisonIn (b.tree + 64) (16 * nLeaf b.wc.treePlanes))
      t.closeTree b.tree ((d.step + 1) % 2 ^ 32) b.wc.treePlanes (bitOf h 33)
    else (s.noteBad r (s.poisonIn b.tree 8)).wrN b.tree 8 (if bitOf h 33 then h else h + 2 ^ 33)

/-- A descriptor leaves channel `m`: what it has not sent stays unsent, and a BASES it has not had is not the next one's
(R422, DEDUCED, log entry 29). -/
def Coll.leave (c : Coll) (r : DRef) (m : Nat) (ch : Chan) : Chan :=
  if ch.user ≠ some r then ch
  else
    let due := (tlook c.bound m).isSome && (tlook c.basesGot m).isNone
    { ch with
      user := none, waiting := [], bases := if due then ch.bases.drop 1 else ch.bases
      stale := if due && ch.bases.isEmpty then ch.stale + 1 else ch.stale }

/-- The digest of what the descriptor sent on channel `m`: an empty stream where it was never bound for it (R428). -/
def Coll.sentOn (c : Coll) (m : Nat) (sent : Digest) : Digest := if (tlook c.bound m).isSome then sent else Digest.empty

/-- End a collective: digests, stamp and channels, then its status. `whole` says that its schedule is complete. -/
def State.collEnd (s : State) (r : DRef) (d : Desc) (c : Coll) (whole : Bool) (st detail : Nat) : State :=
  let pt := s.part r.part
  let s1 := if d.addr 0x60 = 0 then s else
    foldS (fun (t : State) m =>
      t.wrBytes (d.addr 0x60 + 64 * m) (d.digestEntry c m (c.sentOn m (t.chan (pt.collChan d m)).sent))) s (List.range d.chans)
  let s2 := match d.upd with
    | some u => s1.stampUpdate r d u whole
    | none => s1
  let s3 := foldS (fun (t : State) m => t.updChan (pt.collChan d m) (c.leave r m)) s2 (List.range d.chans)
  s3.updDesc r fun x => x.finish st detail

/-! ## Reduction chunks (R417, R419, R424 to R427) -/

/-- The FP32 word of a contribution element; a NaN is canonical (R69, R74, R414). -/
def contribution (s : State) (t : TensorDesc) (e : Nat) : Nat :=
  let w := if t.format = fBF16 then t.raw s e * 65536 else t.raw s e
  if (of32 w).isNaN then 0x7FC00000 else w

/-- A finite FP32 word on the grid of 2^−149. -/
def gridOf (w : Nat) : Int :=
  match of32 w with
  | .fin sg m e => signedAt sg m e (-149)
  | _ => 0

def gridSum (ws : List Nat) : Int := ws.foldl (fun n w => n + gridOf w) 0
def gridAbs (ws : List Nat) : Nat := ws.foldl (fun n w => n + (gridOf w).natAbs) 0

/-- The leaf of chunk `k` at this rank, and its first poisoned contribution line. -/
def State.leafOf (s : State) (d : Desc) (c : Coll) (k : Nat) : Partial × Option Nat :=
  match d.tin with
  | none => (⟨[], 0, 0, 0, false⟩, none)
  | some t =>
    let (_, a, n) := c.chunks.getD k (0, 0, 0)
    let es := (List.range n).map (a + ·)
    let ws := es.map (contribution s t)
    let bad := s.poisonCells (es.flatMap (t.cells s))
    let fin := ws.filter fun w => (of32 w).isFin
    (⟨ws, gridSum fin, gridAbs fin, n - fin.length, bad.isSome⟩, bad)

/-- A child of relative index `r` exists at step `k` (R417). -/
def childAt (r g k : Nat) : Bool := r % 2 ^ (k + 1) == 0 && decide (r + 2 ^ k < g)

/-- Add a child's partial; the elements at which the addition makes a NaN come with it (R417, R419, R425). -/
def Partial.add (a b : Partial) : Partial × List Nat :=
  let zs := (a.words.zip b.words).map fun (x, y) =>
    let z := enc32 ((of32 x).add (of32 y))
    (z, !(of32 x).isNaN && !(of32 y).isNaN && (of32 z).isNaN)
  (⟨zs.map (·.1), a.sum + b.sum, a.abs' + b.abs', a.nonfinite + b.nonfinite, a.poison || b.poison⟩,
    ((zs.zipIdx).filter fun (z, _) => z.2).map (·.2))

/-- Take the children that have come, in step order, as far as they go. -/
def RedChunk.advance (g r : Nat) (x : RedChunk) : Nat → RedChunk × List Nat
  | 0 => (x, [])
  | n + 1 =>
    if x.step ≥ ceilLog2 g ∨ r % 2 ^ (x.step + 1) ≠ 0 then (x, [])
    else if childAt r g x.step then
      match tlook x.early x.step with
      | none => (x, [])
      | some y =>
        let (v, nan) := x.val.add y
        let (z, more) := RedChunk.advance g r { x with val := v, step := x.step + 1, early := tdel x.early x.step } n
        (z, nan ++ more)
    else RedChunk.advance g r { x with step := x.step + 1 } n

/-- Every child of relative index `r` is in the partial: it may be sent, or is the result. -/
def RedChunk.full (x : RedChunk) (g r : Nat) : Bool := decide (x.step ≥ ceilLog2 g) || r % 2 ^ (x.step + 1) != 0

/-- The chunk as it stands at this rank; its leaf is read with first use. -/
def State.redChunk (s : State) (d : Desc) (c : Coll) (k : Nat) : RedChunk × Option Nat :=
  match tlook c.red k with
  | some x => (x, none)
  | none =>
    let (leaf, bad) := s.leafOf d c k
    let r := c.rel (c.chunks.getD k (0, 0, 0)).1
    ((RedChunk.advance c.g r ⟨leaf, 0, [], false⟩ (d.steps + 1)).1, bad)

/-- The collective engine of the home die (R419). -/
def Part.homeDie (pt : Part) (d : Desc) : Nat := (pt.subRing d.ring).homeDie

/-- Raise the seed trap for NaNs made at elements of a chunk (R419): named by IN's element (DESIGN CHOICE, log entry 55). -/
def State.treeNan (s : State) (r : DRef) (d : Desc) (c : Coll) (k : Nat) (at' : List Nat) : State :=
  match at', d.tin with
  | j :: rest, some t =>
    let e := (c.chunks.getD k (0, 0, 0)).2.1 + rest.foldl min j
    let die := (s.part r.part).homeDie d
    s.seedTrap r ⟨0, 5, t.id, coordsOf t.size e, e, [], 0, (die, die), 0⟩
  | _, _ => s

/-- floor(log2) of a positive number over 2^47, for the record of R427. -/
def expOf (n : Nat) : Int := (Nat.log2 n : Int) - 47

/-- The integrity record (R427): the difference and the bound are on the grid of 2^−149, scaled by 2^47. -/
def integrityRecord (tag tick id diff bound : Nat) : List Byte :=
  leBytes 4 (0x08 + 0x0A * 256) ++ leBytes 4 tag ++ leBytes 8 tick ++ leBytes 8 id ++
    leBytes 4 (ofSigned 16 (expOf diff - 149) + (if bound = 0 then 0x8000 else ofSigned 16 (expOf bound - 149)) * 65536) ++
    List.replicate 36 0

/-- The check of R426 on a result: none where it is skipped or passes, else the difference and bound, scaled by 2^47. -/
def checkFails (steps : Nat) (v : Partial) : Option (Nat × Nat) :=
  if v.nonfinite ≠ 0 ∨ v.poison ∨ !(v.words.all fun w => (of32 w).isFin) then none
  else
    let diff := (gridSum v.words - v.sum).natAbs * 2 ^ 47
    let bound := (steps * 2 ^ 23 + steps * steps) * v.abs'
    if diff ≤ bound then none else some (diff, bound)

/-- COLL_INJECT on a completed chunk: the first element with BIT inverted, where it is armed for the partition in TEST
(R556). -/
def State.inject (s : State) (p : Nat) (v : Partial) : Partial × State :=
  let q := s.collInject
  if q.arm && q.part == p && (s.part p).ent.mode == 2 then
    ({ v with words := v.words.mapIdx fun i w => if i = 0 then w ^^^ 2 ^ q.bit else w },
      { s with collInject := { q with arm := false } })
  else (v, s)

/-- Write a chunk's result to OUT (R414), poisoned where the chunk is (R533). A NaN met in the rounding is named by OUT's element
(DESIGN CHOICE, log entry 55). -/
def State.writeResult (s : State) (r : DRef) (d : Desc) (c : Coll) (k : Nat) (v : Partial) : State :=
  match d.tout with
  | none => s
  | some o =>
    let (own, a, _) := c.chunks.getD k (0, 0, 0)
    let base := if d.opcode = 0x0501 then a - shardAt c.elems c.g own else a
    let die := (s.part r.part).homeDie d
    let run := { Run.start s r.part 5 0 [] d with place := (die, die) }
    let r1 := foldS (fun (w : Run) (e : Nat × Nat) => w.writeElem o (base + e.2) (of32 e.1) (o.id, o.size, base + e.2)) run
      v.words.zipIdx
    if v.poison then
      let lines := r1.wrote.reverse.flatMap fun w => linesOf w.1 w.2
      (foldS State.setPoison (r1.finish r) lines).noteBad r lines.head?
    else r1.finish r

/-- A chunk's result is complete at its owner: the check, then OUT or the update engine it goes to, unless the update is
cancelled (R426, R427, R450, R451, R474). -/
def State.ownerDone (s : State) (r : DRef) (d : Desc) (c : Coll) (k : Nat) (v0 : Partial) : State :=
  let (v, s0) := s.inject r.part v0
  let fails := checkFails d.steps v
  let s1 := match fails with
    | none => s0
    | some (diff, bound) =>
      let (t, n) := s0.exception r.part (integrityRecord d.tag s0.tickNo (c.chunkId k) diff bound) false
      ((t.markExc (some r) n).updPart r.part fun q => { q with integrity := q.integrity + 1 }).updDesc r fun x =>
        { (x.decide' stIntegrity (c.chunkId k)) with coll := x.coll.map fun (y : Coll) => { y with suspects := y.suspects ++ [k] } }
  if d.isUpd then
    let e := match d.upd.bind fun u => ((s.part r.part).binding u.bind).map fun b => s.engineFor b u.bind k with
      | some e => e
      | none => 0
    s1.updDesc r fun x => { x with upd := x.upd.map fun (u : UpdRun) =>
      if v.poison || x.cancel then { u with doneChunks := u.doneChunks ++ [k], failed := true }
      else { u with ready := u.ready ++ [⟨k, e, s1.nextTurn e, if fails.isSome then [] else v.words⟩] } }
  else s1.writeResult r d c k v

/-- Store a chunk and act on it where it is complete at its owner. -/
def State.storeRed (s : State) (r : DRef) (d : Desc) (c : Coll) (k : Nat) (x : RedChunk) : State :=
  let own := (c.chunks.getD k (0, 0, 0)).1
  let rel := c.rel own
  let fin := rel == 0 && x.full c.g rel && !x.done
  let s1 := s.updColl r fun y => { y with red := tput y.red k { x with done := x.done || fin } }
  if fin then s1.ownerDone r d c k x.val else s1

/-- A child's partial of chunk `k` has arrived whole at step `step` (R418). -/
def State.takeChild (s : State) (r : DRef) (d : Desc) (c : Coll) (k step : Nat) (v : Partial) : State :=
  let (x, bad) := s.redChunk d c k
  let rel := c.rel (c.chunks.getD k (0, 0, 0)).1
  let (y, nan) := RedChunk.advance c.g rel { x with early := tput x.early step v } (d.steps + 1)
  ((s.noteBad r bad).treeNan r d c k nan).storeRed r d c k y

/-- Chunks of which this rank is the owner and that need no child, and G = 1: they are complete at the start. -/
def State.startOwn (s : State) (r : DRef) : State :=
  match s.collOf r with
  | none => s
  | some (_, c0) =>
    foldS (fun (t : State) k =>
      match t.collOf r with
      | none => t
      | some (d, c) =>
        if c.rel (c.chunks.getD k (0, 0, 0)).1 = 0 then
          let (x, bad) := t.redChunk d c k
          (t.noteBad r bad).storeRed r d c k x
        else t) s (List.range c0.chunks.length)

/-! ## Sending a chunk (R415, R416, R421, R428, R466) -/

/-- Cut bytes into payloads of at most 8,192. -/
def cut8k : Nat → List Byte → List (List Byte)
  | 0, _ => []
  | n + 1, l => if l.isEmpty then [] else l.take 8192 :: cut8k n (l.drop 8192)

/-- The DATA frames of a chunk of memory bytes, cut as `runs` says: the planes' bases here and at the peer, where a moved
byte lies from them, and whether a frame's bytes are suspect. -/
def State.dataFrames (s : State) (src dst step : Nat) (mem : Nat → Nat) (suspect : Nat → Nat → Bool)
    (runs : List (Nat × Nat)) : List TxFrame :=
  (runs.zipIdx).map fun ((off, len), j) =>
    ⟨decide (j + 1 = runs.length), false, (s.poisonIn (src + mem off) len).isSome, opField 0 step (suspect off len),
      dst + mem off, s.rdBytes (src + mem off) len⟩

/-- The frames of a chunk of a moved plane: rows that lie apart, and reduction chunks (R427), share none. -/
def Desc.runsOf (d : Desc) (c : Coll) (key : Nat) : List (Nat × Nat) :=
  let (o, p, off, n) := d.chunkOf c key
  let w := d.outWidth * redLen
  let rest (x : Nat) : Nat := (d.wholeTensor.map fun t => t.rowRest x).getD 8192
  cutRuns (fun x => if d.opcode = 0x0502 then min (rest x) (w - (x - (d.blockSpan c o p).1) % w) else rest x) n off n

/-- The frames of a reduction partial and its trailer (R423, R424). -/
def redFrames (d : Desc) (step dst id : Nat) (v : Partial) : List TxFrame :=
  let raw := v.words.flatMap (leBytes 4)
  let loads := if d.pack then packFrames [] ((groups64 (v.words.length + 1) v.words).map packGroup)
    else cut8k (raw.length + 1) raw
  let len (l : List Byte) : Nat := if d.pack then ((unpack l).map List.length).getD 0 else l.length
  let addr (j : Nat) : Nat := dst + (loads.take j).foldl (fun n l => n + len l) 0
  (loads.zipIdx).map (fun (l, j) =>
    ⟨decide (j + 1 = loads.length), d.pack, v.poison, opField 0 step false, addr j, l⟩) ++
  [⟨false, false, false, opField 1 step false, 0,
    padTo 128 (leBytes 8 id ++ leBytes 8 (v.nonfinite + (if v.poison then 2 ^ 32 else 0)) ++ leBytes 40 (ofSigned 320 v.sum) ++
      leBytes 40 v.abs')⟩]

/-- The staging slot of the `n`-th partial of a step at the receiver's SCRATCH (R413): the step's two slots by turns. -/
def stagingAddr (scratch step n : Nat) : Nat := scratch + 2 * MiB * step + MiB * (n % 2)

/-- The chunk's block is this rank's own. -/
def Coll.ownBlock (c : Coll) (key : Nat) : Bool := key / 2 ^ 32 == c.i

/-- The reduction chunks whose results a piece of OUT holds (R420). -/
def Desc.coveredBy (d : Desc) (c : Coll) (off n : Nat) : List Nat :=
  let w := d.outWidth
  ((c.chunks.zipIdx).filter fun (x, _) => overlap (w * x.2.1) (w * x.2.2) off n).map (·.2)

/-- What an item of the schedule sends is here. -/
def State.itemInputs (s : State) (r : DRef) (d : Desc) (c : Coll) (x : SendItem) : Bool :=
  if x.red then
    let rel := c.rel (c.chunks.getD x.key (0, 0, 0)).1
    (s.redChunk d c x.key).1.full c.g rel
  else if d.opcode = 0x0500 then
    if c.ownBlock x.key then c.ownDone && (match c.wc.bind (s.part r.part).binding with
      | some b => s.stampOk b.tree d.step || s.isPoison b.tree
      | none => true)
    else c.got.contains x.key && (c.wc.isNone || (tlook c.leaves x.key).isSome || d.bareKey c x.key)
  else if d.opcode = 0x0502 then
    if c.ownBlock x.key then
      let (_, _, off, n) := d.chunkOf c x.key
      (d.coveredBy c off n).all fun k => match tlook c.red k with
        | some y => y.done
        | none => false
    else c.got.contains x.key
  else if d.opcode = 0x0503 then c.i == d.root || c.got.contains x.key
  else c.grantsGot.contains x.step && tlook c.bound x.chan == some x.step

/-- An item of the schedule may begin: what it sends is here, its channel is OPEN, the peer's BASES have come, and the
channel's window takes its first frame at once, with which it counts against the quota (R416). -/
def State.itemReady (s : State) (r : DRef) (d : Desc) (c : Coll) (x : SendItem) : Bool :=
  let ch := s.chan ((s.part r.part).collChan d x.chan)
  !x.begun && s.itemInputs r d c x && (tlook c.basesGot x.chan).isSome && ch.st == .open' && ch.resetting.isNone &&
    ch.user == some r && ch.waiting.isEmpty && decide (ch.unacked.length < 256)

/-- The leaves a working-copy chunk is sent with: the owner's from TREE, else those received (R466). -/
def State.leavesFor (s : State) (d : Desc) (c : Coll) (b : Binding) (key : Nat) : List Byte :=
  if c.ownBlock key then
    let (_, p, off, n) := d.chunkOf c key
    let inOff := off - (d.blockSpan c c.i p).1
    s.rdBytes (b.tree + 64 + 16 * leafIndex b.wc.treePlanes p inOff) (16 * leavesOf n)
  else (tlook c.leaves key).getD []

/-- The trailer of a working-copy chunk (R466); the stamp is the owner's. -/
def wcTrailer (step off p owner stamp : Nat) (leaves : List Byte) : TxFrame :=
  ⟨false, false, false, opField 1 step false, 0,
    leBytes 8 (off + p * 2 ^ 44) ++ leBytes 4 owner ++ leBytes 4 stamp ++ leBytes 8 (leaves.length / 16) ++
      List.replicate 40 0 ++ leaves⟩

/-- The first poisoned line of the tree that an owner's chunk is sent with: the header's or the leaves' (R533). -/
def State.leavesBad (s : State) (d : Desc) (c : Coll) (b : Binding) (key : Nat) : Option Nat :=
  if c.ownBlock key then
    let (_, p, off, n) := d.chunkOf c key
    let inOff := off - (d.blockSpan c c.i p).1
    s.poisonIn b.tree 8 <|> s.poisonIn (b.tree + 64 + 16 * leafIndex b.wc.treePlanes p inOff) (16 * leavesOf n)
  else none

/-- Frames kept with the leaves: the stamp in the first four bytes of a kept entry. -/
def State.wcStamp (s : State) (c : Coll) (b : Binding) (key : Nat) : Nat :=
  if c.ownBlock key then s.rdN b.tree 4 else leNat (((tlook c.leaves (key + 2 ^ 60)).getD []).take 4)

/-- UPD_INJECT on the first frame of an owner's working-copy chunk (R556). -/
def State.injectWc (s : State) (p : Nat) (fs : List TxFrame) : List TxFrame × State :=
  let q := s.updInject
  if q.arm && q.part == p && (s.part p).ent.mode == 2 then
    (fs.mapIdx fun i f => if i = 0 then
        { f with payload := f.payload.mapIdx fun j b => if j = 0 then b ^^^ BitVec.ofNat 8 (2 ^ q.bit) else b }
      else f, { s with updInject := { q with arm := false } })
  else (fs, s)

/-- Queue DATA frames of a descriptor on channel `m`. -/
def State.sendData (s : State) (r : DRef) (d : Desc) (m : Nat) (fs : List TxFrame) : State :=
  s.pushFrames ((s.part r.part).collChan d m) fs

/-- The frames of a block chunk sent to the peer of channel `m`; a tree that reads poisoned decides MEMORY_UNCORRECTABLE. -/
def State.blockFrames (s : State) (r : DRef) (d : Desc) (c : Coll) (m key : Nat) : List TxFrame × State :=
  let bs := (tget ⟨0, 0, 0, 0, 0, []⟩ c.basesGot m)
  let (o, p, off, _) := d.chunkOf c key
  let src := (d.wholePlanes.getD p (0, 0)).1
  let bad (x n : Nat) : Bool := d.opcode == 0x0502 && (d.coveredBy c x n).any c.suspects.contains
  let fs := s.dataFrames src (d.baseOf bs.out p) (d.stepOf m) d.memOff bad (d.runsOf c key)
  match if d.bareKey c key then none else c.wc.bind (s.part r.part).binding with
  | none => (fs, s)
  | some b =>
    let (fs1, s1) := if c.ownBlock key then (s.noteBad r (s.leavesBad d c b key)).injectWc r.part fs else (fs, s)
    (fs1 ++ [wcTrailer (d.stepOf m) (off - (d.blockSpan c o p).1) p o (s.wcStamp c b key) (s.leavesFor d c b key)], s1)

/-- Begin an item: its frames are queued whole, and it counts against the quota (R416). -/
def State.beginItem (s : State) (r : DRef) (d : Desc) (c : Coll) (n : Nat) (x : SendItem) : State :=
  let pt := s.part r.part
  let bs := (tget ⟨0, 0, 0, 0, 0, []⟩ c.basesGot x.chan)
  let (fs, s1) : List TxFrame × State :=
    if x.red then
      let (y, bad) := s.redChunk d c x.key
      let sent := (c.sends.filter fun z => z.red && z.chan == x.chan && z.begun).length
      (redFrames d (d.stepOf x.chan) (stagingAddr bs.scratch (x.chan / 2) sent) (c.chunkId x.key) y.val, s.noteBad r bad)
    else if d.opcode = 0x0505 then
      match d.moves[x.key]? with
      | some mv => (s.dataFrames mv.local' (bs.scratch + MiB * (x.step % 2)) 0 id (fun _ _ => false)
            (cutRuns (fun _ => 8192) mv.len 0 mv.len), s.noteBad r (s.poisonIn mv.local' mv.len))
      | none => ([], s)
    else
      let base := (d.wholePlanes.getD (d.chunkOf c x.key).2.1 (0, 0)).1
      let (fs, t) := s.blockFrames r d c x.chan x.key
      (fs, if d.opcode = 0x0503 ∧ c.i = d.root then
          t.noteBad r ((d.runsOf c x.key).findSome? fun e => s.poisonIn (base + d.memOff e.1) e.2) else t)
  let seq := ((s1.chan (pt.collChan d x.chan)).nextSeq + fs.length + 2 ^ 32 - 1) % 2 ^ 32
  let s2 := s1.updColl r fun y => { y with sends := y.sends.set n { x with begun := true, lastSeq := seq } }
  (s2.updPart r.part fun q => { q with chunksBegun := q.chunksBegun + 1 }).sendData r d x.chan fs

/-- The items of the schedule that may begin, with their places. A channel's items begin in schedule order (R416, R431); a
cancelled descriptor passes over those it no longer owes (R436). -/
def State.readyItems (s : State) (r : DRef) (d : Desc) (c : Coll) : List (SendItem × Nat) :=
  c.sends.zipIdx.filter fun x => s.itemReady r d c x.1 &&
    (d.cancel || !((c.sends.take x.2).any fun y => y.chan == x.1.chan && !y.begun))

/-- The first item ready to begin. -/
def State.firstReady (s : State) (r : DRef) (d : Desc) (c : Coll) : Option (SendItem × Nat) := (s.readyItems r d c).head?

/-- Chunks of a partition's collectives that are ready to begin, those that wait their turn on a channel among them. -/
def State.readyCount (s : State) (p : Nat) : Nat :=
  (s.part p).descs.foldl (fun n d => match s.collOf (d.ref p) with
    | some (e, c) => n + (c.sends.filter (s.itemReady (d.ref p) e c)).length
    | none => n) 0

/-- The quota leaves the descriptor a chunk (R416). -/
def State.quotaOk (s : State) (p : Nat) (d : Desc) : Bool :=
  let pt := s.part p
  let q := pt.use.quota
  q == 0 || (decide (pt.chunksBegun < q) &&
    (decide (s.readyCount p ≤ q - pt.chunksBegun) ||
      !(pt.descs.any fun e => (e.num != d.num || e.ring != d.ring) && pt.before e d && (match s.collOf (e.ref p) with
        | some (x, c) => (s.firstReady (e.ref p) x c).isSome
        | none => false))))

/-- The own shard of a GATHER goes into OUT at the own index; XC16 map entries move with their overflow area (R430,
R431). -/
def State.copyOwn (s : State) (r : DRef) (d : Desc) (c : Coll) : State :=
  match d.tin, d.tout with
  | some t, some o =>
    let ps := t.movePlanes.zip o.movePlanes
    let s1 := foldS (fun (u : State) (q : (Nat × Nat) × (Nat × Nat)) =>
      let (v, bad) := u.moveBytes q.1.1 (q.2.1 + c.i * q.1.2) q.1.2
      (v.noteBad r bad).lateWrites r.part [(q.2.1 + c.i * q.1.2, q.1.2)]) s ps
    let s2 := if t.format = fXC16 then
        foldS (fun (u : State) j =>
          let a := o.wd 1 + c.i * (t.planes.getD 1 (0, 0)).2 + 8 * j
          u.wrRaw (a + 4) (leBytes 4 (u.rdN (a + 4) 4 + c.i * t.ovfCap))) s1 (List.range (ceilDiv t.blocks 32))
      else s1
    s2.updColl r fun y => { y with ownDone := true }
  | _, _ => s.updColl r fun y => { y with ownDone := true }

/-- Copy the own shard once its stamp permits (R42, R465); a stamp that reads poisoned holds nothing up, but decides
MEMORY_UNCORRECTABLE (R533). -/
def State.tryOwn (s : State) (r : DRef) : State :=
  match s.collOf r with
  | none => s
  | some (d, c) =>
    if c.ownDone || d.opcode != 0x0500 then s
    else match c.wc.bind (s.part r.part).binding with
      | some b => if s.stampOk b.tree d.step || s.isPoison b.tree then (s.noteBad r (s.poisonIn b.tree 8)).copyOwn r d c else s
      | none => s.copyOwn r d c

/-! ## Waiting and completion (R431 to R437, R467) -/

/-- Latch the items whose frames are all acknowledged (R386); a completed send is progress. -/
def State.latchAcks (s : State) (r : DRef) : State :=
  match s.collOf r with
  | none => s
  | some (d, c) =>
    let pt := s.part r.part
    let now (x : SendItem) : Bool := x.begun && !x.acked && !x.lost && (s.chan (pt.collChan d x.chan)).ackedTo x.lastSeq
    if c.sends.any now then
      s.updColl r fun y => { y with sends := y.sends.map fun x => if now x then { x with acked := true } else x }.progress s.tickNo
    else s

/-- Push the BASES frames that are due on OPEN channels. -/
def State.pushBases (s : State) (r : DRef) : State :=
  match s.collOf r with
  | none => s
  | some (d, c) =>
    let pt := s.part r.part
    foldS (fun (t : State) m =>
      let n := pt.collChan d m
      let ch := t.chan n
      if (tlook c.bound m).isSome && !c.basesSent.contains m && ch.st == .open' && ch.resetting.isNone && ch.user == some r then
        (t.updColl r fun y => { y with basesSent := y.basesSent ++ [m] }).pushFrames n
          [⟨false, false, false, opField 2 (d.stepOf m) false, 0, d.basesBytes c⟩]
      else t) s (List.range d.chans)

/-- Take the BASES that have come on bound channels; one that disagrees ends the descriptor (R422). -/
def State.takeBases (s : State) (r : DRef) : State :=
  match s.collOf r with
  | none => s
  | some (d, c0) =>
    let pt := s.part r.part
    foldS (fun (t : State) m =>
      let n := pt.collChan d m
      let ch := t.chan n
      match t.collOf r, ch.bases with
      | some (_, c), b :: rest =>
        if (tlook c.bound m).isSome && (tlook c.basesGot m).isNone && ch.user == some r then
          let t1 := t.setChan n { ch with bases := rest }
          if b.opcode = d.opcode ∧ b.gsize + 1 = c.g ∧ b.count = c.elems then
            t1.updColl r fun y => { y with basesGot := tput y.basesGot m b }
          else t1.collEnd r d c false stBadDescriptor (badCode 0x08)
        else t
      | _, _ => t) s ((List.range d.chans).filter fun m => (tlook c0.basesGot m).isNone)

/-- Push a TOKEN or GRANT. -/
def State.pushToken (s : State) (r : DRef) (d : Desc) (m kind step addr : Nat) : State :=
  s.pushFrames ((s.part r.part).collChan d m) [⟨false, false, false, opField kind step false, addr, []⟩]

/-- Tokens of a BARRIER that are due (R433). -/
def State.barrierTokens (s : State) (r : DRef) : State :=
  match s.collOf r with
  | none => s
  | some (d, c0) =>
    if d.opcode ≠ 0x0504 then s
    else foldS (fun (t : State) k =>
      match t.collOf r with
      | none => t
      | some (_, c) =>
        if !c.tokensSent.contains k && (k == 0 || c.tokensGot.contains (k - 1)) && (tlook c.basesGot (2 * k)).isSome then
          (t.updColl r fun y => { y with tokensSent := y.tokensSent ++ [k] }).pushToken r d (2 * k) 3 k k
        else t) s (List.range (ceilLog2 c0.g))

/-- Keys of the chunks a rank receives on channel `m` (R420, R431, R432). -/
def Desc.expected (d : Desc) (c : Coll) (m : Nat) : List Nat :=
  let k := m / 2
  if d.opcode = 0x0500 ∨ d.opcode = 0x0502 then
    if m % 2 = 0 then (List.range (min (2 ^ k) (c.g - 2 ^ k))).flatMap fun t =>
      let o := (c.i + 2 ^ k + t) % c.g
      (List.range (d.pieces c o).length).map (blockKey o)
    else []
  else if d.opcode = 0x0503 then
    let r := c.rel d.root
    if m % 2 = 1 ∧ 2 ^ k ≤ r ∧ r < 2 ^ (k + 1) then (List.range (d.pieces c 0).length).map (blockKey 0) else []
  else []

/-- The chunk whose child a rank awaits first on channel `m` of a reduction. -/
def Desc.nextChild (d : Desc) (c : Coll) (m : Nat) : Option Nat :=
  if (d.opcode = 0x0501 ∨ d.opcode = 0x0502) ∧ m % 2 = 0 then
    ((c.chunks.zipIdx).find? fun (x, k) =>
      childAt (c.rel x.1) c.g (m / 2) && (match tlook c.red k with
        | some y => decide (y.step ≤ m / 2) && (tlook y.early (m / 2)).isNone
        | none => true)).map (·.2)
  else none

/-- The token address that says every chunk of a channel has been checked (R467). -/
def tokenChecked : Nat := 0xFFFFFFFFFFF

/-- Tokens of a working-copy gather for channels all of whose chunks are checked (R467). -/
def State.wcTokens (s : State) (r : DRef) : State :=
  match s.collOf r with
  | none => s
  | some (d, c) =>
    if c.wc.isNone then s
    else foldS (fun (t : State) m =>
      let keys := d.expected c m
      let done (k : Nat) : Bool := c.checked.contains k || (d.bareKey c k && c.got.contains k)
      if keys.isEmpty || c.tokensSent.contains m || !(keys.all done) then t
      else (t.updColl r fun y => { y with tokensSent := y.tokensSent ++ [m] }).pushToken r d m 3 31 tokenChecked) s
      (List.range d.chans)

/-- The round a PERMUTE's channel serves now: the first send not acknowledged, the first receive not moved (R435). -/
def Desc.roundNow (d : Desc) (c : Coll) (m : Nat) : Option Nat :=
  ((d.moves.zipIdx).find? fun (x, n) => x.round % 2 == m / 2 && x.recv == (m % 2 == 1) &&
    (if x.recv then !c.moved.contains x.round else (c.sends.any fun y => y.key == n && !y.acked))).map (·.1.round)

/-- Bind a PERMUTE's channels for their next rounds, and grant the empty slots (R411, R435). -/
def State.permuteRounds (s : State) (r : DRef) : State :=
  match s.collOf r with
  | none => s
  | some (d, _) =>
    if d.opcode ≠ 0x0505 then s
    else foldS (fun (t : State) m =>
      match t.collOf r with
      | none => t
      | some (e, c) =>
        match e.roundNow c m with
        | none => t
        | some round =>
          if tlook c.bound m = some round then
            if m % 2 = 1 && (tlook c.basesGot m).isSome && !c.grantsSent.contains round then
              (t.updColl r fun y => { y with grantsSent := y.grantsSent ++ [round] }).pushToken r e m 4 0 round
            else t
          else
            let c1 := { c with
              bound := tput c.bound m round, basesSent := c.basesSent.filter (· != m), basesGot := tdel c.basesGot m }
            let t1 := t.updColl r fun _ => c1
            t1.bindChan r e c1 m) s (List.range 4)

/-- Every receive is here. -/
def Desc.received (d : Desc) (c : Coll) : Bool :=
  let blocks := (List.range d.chans).all fun m => (d.expected c m).all c.got.contains
  if d.opcode = 0x0500 then blocks && c.ownDone
  else if d.opcode = 0x0501 ∨ d.opcode = 0x0502 then
    blocks && (c.chunks.zipIdx).all fun (x, k) => x.1 != c.i || (match tlook c.red k with
      | some y => y.done
      | none => false)
  else if d.opcode = 0x0503 then blocks
  else if d.opcode = 0x0504 then (List.range d.steps).all c.tokensGot.contains
  else d.moves.all fun m => !m.recv || c.moved.contains m.round

/-- Channels on which a working-copy gather sent blocks have all answered (R467). -/
def Coll.tokensIn (c : Coll) : Bool :=
  c.wc.isNone || c.sends.all fun x => c.tokensGot.contains x.chan

/-- A BARRIER has sent every token of its own (R433). -/
def Desc.tokensOut (d : Desc) (c : Coll) : Bool := d.opcode != 0x0504 || (List.range d.steps).all c.tokensSent.contains

/-- Every chunk of an update is applied, or failed (R460). -/
def Desc.updateDone (d : Desc) (c : Coll) : Bool :=
  match d.upd with
  | none => true
  | some u => (c.chunks.zipIdx).all fun (x, k) => x.1 != c.i || u.doneChunks.contains k

/-- The whole schedule is complete: sends acknowledged, receives here, tokens and updates done. -/
def State.collWhole (s : State) (r : DRef) (d : Desc) (c : Coll) : Bool :=
  let pt := s.part r.part
  c.sends.all (·.acked) && !c.lostToken && d.received c && c.tokensIn && d.updateDone c && d.tokensOut c &&
  ((List.range d.chans).all fun m => (tlook c.bound m).isNone ||
    (c.basesSent.contains m && (s.chan (pt.collChan d m)).idle))

/-- The result of reduction chunk `n` has what it needs: each child's partial has come or begun to come (R436). -/
def State.redBegun (s : State) (r : DRef) (d : Desc) (c : Coll) (n : Nat) : Bool :=
  let rel := c.rel (c.chunks.getD n (0, 0, 0)).1
  let y := (s.redChunk d c n).1
  (List.range d.steps).all fun k => decide (k < y.step) || !childAt rel c.g k || (tlook y.early k).isSome ||
    (!(tget [] c.rxBuf (2 * k)).isEmpty && d.nextChild c (2 * k) == some n)

/-- What an item of the schedule sends has come or begun to come (R436). -/
def State.itemBegun (s : State) (r : DRef) (d : Desc) (c : Coll) (x : SendItem) : Bool :=
  let arrives := c.got.contains x.key || c.cur.any fun e => e.2 == x.key
  if x.red then s.redBegun r d c x.key
  else if d.opcode = 0x0505 then c.grantsGot.contains x.step
  else if d.opcode = 0x0503 then c.i == d.root || arrives
  else if c.ownBlock x.key then
    if d.opcode = 0x0500 then c.ownDone
    else
      let (_, _, off, n) := d.chunkOf c x.key
      (d.coveredBy c off n).all fun k => s.redBegun r d c k
  else arrives

/-- A cancelled collective still owes an item (R436): its inputs have come or begun to come, its channel has not failed
and the peer's BASES are here. What a CH_RESET of the peer has lost is not sent again (R392). -/
def State.owed (s : State) (r : DRef) (d : Desc) (c : Coll) (x : SendItem) : Bool :=
  let ch := s.chan ((s.part r.part).collChan d x.chan)
  !x.acked && !x.lost && ch.st != .failed && (tlook c.basesGot x.chan).isSome && (x.begun || s.itemBegun r d c x)

/-- No chunk of the descriptor waits at an update engine (R474). -/
def Desc.enginesLeft (d : Desc) : Bool := match d.upd with
  | some u => u.ready.isEmpty
  | none => true

/-- End the collective where its schedule, or what a cancel leaves of it, is complete; a cancelled update does not advance the
stamp (R474). -/
def State.collFinish (s : State) (r : DRef) : State :=
  match s.collOf r with
  | none => s
  | some (d, c) =>
    if s.collWhole r d c then s.collEnd r d c (!d.cancel) stOk 0
    else if d.cancel && !(c.sends.any fun x => s.owed r d c x) && d.enginesLeft then s.collEnd r d c false stCancelled 0
    else s

/-- Do everything that waits on nothing more: acknowledged sends, rounds, BASES (the own before the peer's), tokens, the own
shard, the end. Waits on words it wrote test their conditions (R182). -/
def State.collSettle (s : State) (r : DRef) : State :=
  let s1 := (s.latchAcks r).permuteRounds r
  let s2 := (s1.pushBases r).takeBases r
  let s3 := (s2.tryOwn r).permuteRounds r
  ((((s3.barrierTokens r).wcTokens r)).collFinish r).testWaits r.part

/-! ## The commands of a collective (R411, R416) -/

/-- The binding a REDUCE_SCATTER with UPDATE 1 needs is free (R448). -/
def Part.bindFree (pt : Part) (n : Nat) : Bool :=
  match pt.binding n with
  | some b => b.holder.isNone
  | none => true

/-- Take a binding (R448). -/
def Part.takeBinding (pt : Part) (n : Nat) (r : DRef) : Part :=
  match pt.binding n with
  | some b => { pt with binds := tput pt.binds n { b with holder := some r } }
  | none => pt

/-- Start a collective of an opcode, or let a started one go on. -/
def State.collRow (s : State) (r : DRef) (op : Nat) : State :=
  match s.desc r with
  | none => s
  | some d =>
    if d.opcode ≠ op ∨ s.halted then s
    else if d.phase = .running then s.collSettle r
    else
      let free := match d.upd with
        | some u => (s.part r.part).bindFree u.bind
        | none => true
      match d.coll with
      | none => s
      | some c =>
        if !s.mayStart r.part d || !free then s
        else
          let ms := if op = 0x0505 then [] else List.range d.chans
          let c1 := { c with sends := d.schedule c, bound := ms.map fun m => (m, 0) }.progress s.tickNo
          let s1 := (s.updDesc r fun x => x.begin' s.tickNo).updColl r fun _ => c1
          let s2 := match d.upd with
            | some u => s1.updPart r.part fun q => q.takeBinding u.bind r
            | none => s1
          let s3 := foldS (fun (t : State) m => t.bindChan r d c1 m) s2 ms
          let s4 := if op = 0x0501 ∨ op = 0x0502 then s3.startOwn r else s3
          s4.collSettle r

/-- GATHER. -/
def execGather (r : Reading) (s : State) : Host.Outcome State Fault Refusal :=
  .next ((s.finds r.ref r.found).collRow r.ref 0x0500)
/-- REDUCE_SCATTER. -/
def execReduceScatter (r : Reading) (s : State) : Host.Outcome State Fault Refusal :=
  .next ((s.finds r.ref r.found).collRow r.ref 0x0501)
/-- ALL_REDUCE. -/
def execAllReduce (r : Reading) (s : State) : Host.Outcome State Fault Refusal :=
  .next ((s.finds r.ref r.found).collRow r.ref 0x0502)
/-- BROADCAST. -/
def execBroadcast (r : DRef) (s : State) : Host.Outcome State Fault Refusal := .next (s.collRow r 0x0503)
/-- BARRIER. -/
def execBarrier (r : DRef) (s : State) : Host.Outcome State Fault Refusal := .next (s.collRow r 0x0504)
/-- PERMUTE. -/
def execPermute (r : DRef) (s : State) : Host.Outcome State Fault Refusal := .next (s.collRow r 0x0505)

/-- The descriptor begins its next ready chunk, as far as the quota goes (R416). -/
def State.chunkSend (s : State) (r : DRef) : State :=
  match s.collOf r with
  | none => s
  | some (d, c) =>
    if s.halted || !s.quotaOk r.part d then s
    else match s.firstReady r d c with
      | some (x, n) => (s.beginItem r d c n x).collSettle r
      | none => s

/-- CHUNK_SEND. -/
def execChunkSend (r : Reading) (s : State) : Host.Outcome State Fault Refusal :=
  .next ((s.finds r.ref r.found).chunkSend r.ref)

/-- PERMUTE_MOVE: the whole chunk of a round goes from its slot to LOCAL, once no unacknowledged send of this or an
earlier round overlaps it; a chunk of another length is not moved (R435). -/
def State.permuteMove (s : State) (r : DRef) (round : Nat) : State :=
  match s.collOf r with
  | none => s
  | some (d, c) =>
    match d.moves.find? fun m => m.recv && m.round == round, tlook c.arrived round with
    | some m, some len =>
      let blocked := c.sends.any fun x => !x.acked && decide (x.step ≤ round) &&
        (match d.moves[x.key]? with | some y => s.sharesByte y.local' y.len m.local' m.len | none => false)
      if s.halted || c.moved.contains round || blocked then s
      else
        let s1 := if len = m.len then
            let (t, bad) := s.moveBytes (d.addr 0x58 + MiB * (round % 2)) m.local' m.len
            (t.noteBad r bad).lateWrites r.part [(m.local', m.len)]
          else s.updDesc r fun x => x.decide' stBadDescriptor (badCode 0x08)
        (s1.updColl r fun y => { y with moved := y.moved ++ [round] }).collSettle r
    | _, _ => s

/-- PERMUTE_MOVE. -/
def execPermuteMove (r : Reading) (round : Nat) (s : State) : Host.Outcome State Fault Refusal :=
  .next ((s.finds r.ref r.found).permuteMove r.ref round)

/-! ## Late contributions (R437) -/

/-- What a collective awaits on channel `m`: step or round, and chunk id or all ones. -/
def Desc.awaits (d : Desc) (c : Coll) (m : Nat) : Option (Nat × Nat) :=
  let ones := 2 ^ 64 - 1
  match tlook c.bound m with
  | none => none
  | some round =>
    if d.opcode = 0x0505 then
      if (tlook c.basesGot m).isNone then some (round, ones)
      else if m % 2 = 0 then (if c.grantsGot.contains round then none else some (round, ones))
      else if (tlook c.arrived round).isNone then some (round, ones) else none
    else if (tlook c.basesGot m).isNone then some (m / 2, ones)
    else match d.nextChild c m with
      | some k => some (m / 2, c.chunkId k)
      | none =>
        if !(d.expected c m).all c.got.contains then some (m / 2, ones)
        else if d.opcode = 0x0504 ∧ m % 2 = 1 then (if c.tokensGot.contains (m / 2) then none else some (m / 2, ones))
        else if c.wc.isSome && (c.sends.any fun x => x.chan == m) && !c.tokensGot.contains m then some (m / 2, ones)
        else none

/-- The channel a late record names, with step and chunk: the lowest with an awaited frame, else the lowest with an
awaited acknowledgement, else the first. -/
def State.awaited (s : State) (r : DRef) (d : Desc) (c : Coll) : Nat × Nat × Nat :=
  match (List.range d.chans).find? fun m => (d.awaits c m).isSome with
  | some m => (m, (d.awaits c m).getD (0, 0))
  | none =>
    let m := ((List.range d.chans).find? fun m => !(s.chan ((s.part r.part).collChan d m)).unacked.isEmpty).getD 0
    (m, d.stepOf m, 2 ^ 64 - 1)

/-- LATE_REPORT: one record after LATE_TICKS ticks without progress (R437). -/
def State.lateReport (s : State) (r : DRef) : State :=
  match s.collOf r with
  | none => s
  | some (d, c) =>
    let stalled := s.tickNo - c.progressTick - 1
    if s.halted || c.lateReported || stalled < d.lateTicks then s
    else
      let pt := s.part r.part
      let (m, step, id) := s.awaited r d c
      let peer := pt.collPeer d c m
      let bytes := leBytes 4 0x07 ++ leBytes 4 d.tag ++ leBytes 8 s.tickNo ++
        leBytes 4 (pt.collChan d m % 512 + peer.pkg * 65536) ++
        leBytes 4 (c.ranks.getD (d.peerIdx c m) 0 + step % 32 * 2 ^ 19) ++ leBytes 8 id ++ leBytes 4 stalled ++
        List.replicate 28 0
      let (t, n) := s.exception r.part bytes false
      ((t.markExc (some r) n).updPart r.part fun q => { q with late := q.late + 1 }).updColl r fun y =>
        { y with lateReported := true }

/-- LATE_REPORT. -/
def execLateReport (r : DRef) (s : State) : Host.Outcome State Fault Refusal := .next (s.lateReport r)

/-! ## Received frames (R387, R421, R427, R466 to R469) -/

/-- Relative channel of a descriptor. -/
def Part.relChan (pt : Part) (d : Desc) (n : Nat) : Nat := n - pt.ent.chBase - d.chOff

/-- A divergence record (R469). -/
def divergenceRecord (source policy tag tick shard peer leaf step attempts : Nat) : List Byte :=
  leBytes 4 (0x09 + 0x0B * 256 + source * 65536 + policy * 2 ^ 18) ++ leBytes 4 tag ++ leBytes 8 tick ++ leBytes 4 shard ++
    leBytes 4 peer ++ leBytes 8 leaf ++ leBytes 4 step ++ leBytes 4 attempts ++ List.replicate 24 0

/-- The divergence policy in effect: the reserved value reads as HALT. -/
def Part.policy (pt : Part) : Nat := if pt.page.diverge = 3 then 0 else pt.page.diverge

/-- A replica divergence under HALT (R468): the rings stop at the next boundary, and the descriptor's status is decided. -/
def State.divergeHalt (s : State) (r : DRef) (shard leaf : Nat) : State :=
  (s.updPart r.part fun q => { q with haltAtBoundary := true }).updDesc r fun x =>
    x.decide' stDivergence (shard + leaf % 2 ^ 32 * 2 ^ 32)

/-- A DATA payload is written and routed to the collective on its channel. -/
def State.takeData (s : State) (n p : Nat) (f : TxFrame) (bytes : List Byte) : State :=
  let part := s.poisonPart f.addr bytes.length
  let s0 := (s.wrBytes f.addr bytes).lateWrites p [(f.addr, bytes.length)]
  let lines := linesOf f.addr bytes.length
  let s1 := if f.poison then foldS State.setPoison s0 lines else s0
  let bad := if f.poison then lines.head? else part
  match (s.chan n).user with
  | none => s1
  | some r => match s1.collOf r with
    | none => s1
    | some (d, c) =>
      let pt := s1.part r.part
      let m := pt.relChan d n
      let s2 := (s1.noteBad r bad).updColl r fun y =>
        { y with recv := tput y.recv m ((tget Digest.empty y.recv m).add bytes) }.progress s.tickNo
      let whole (t : State) : State := t.updPart p fun q => { q with chunksReceived := q.chunksReceived + 1 }
      let red := (d.opcode == 0x0501 || d.opcode == 0x0502) && decide (d.addr 0x58 ≤ f.addr ∧ f.addr < d.addr 0x58 + d.scratchLen)
      if red then s2.updColl r fun y => { y with rxBuf := tput y.rxBuf m (tget [] y.rxBuf m ++ bytes) }
      else if d.opcode = 0x0505 then
        let len := (tget [] c.rxBuf m).length + bytes.length
        if f.last then
          (whole (s2.updColl r fun y =>
            { y with rxBuf := tdel y.rxBuf m, arrived := tput y.arrived ((tlook y.bound m).getD 0) len })).collSettle r
        else s2.updColl r fun y => { y with rxBuf := tput y.rxBuf m (tget [] y.rxBuf m ++ bytes) }
      else
        let key := (d.keyAt c d.ownBases f.addr).getD 0
        let s3 := if bitOf f.op 8 then
            match d.coveredBy c ((d.movedAt d.ownBases f.addr).getD (0, 0)).2 1 with
            | k :: _ => s2.updDesc r fun x => { (x.decide' stIntegrity (c.chunkId k)) with
                coll := x.coll.map fun (y : Coll) => { y with suspects := if y.suspects.contains k then y.suspects else y.suspects ++ [k] } }
            | [] => s2
          else s2
        if f.last then
          (whole (s3.updColl r fun y =>
            { y with cur := tdel y.cur m, got := if y.got.contains key then y.got else y.got ++ [key] })).collSettle r
        else s3.updColl r fun y => { y with cur := tput y.cur m key }

/-- Words of little-endian bytes. -/
def words32 : Nat → List Byte → List Nat
  | 0, _ => []
  | n + 1, l => leNat (l.take 4) :: words32 n (l.drop 4)

/-- A reduction trailer: the child's partial is whole (R424, R425). -/
def State.redTrailer (s : State) (r : DRef) (d : Desc) (c : Coll) (m : Nat) (l : List Byte) : State :=
  let w (o n : Nat) : Nat := leNat (sliceList l o n)
  let k := w 0 4
  let buf := tget [] c.rxBuf m
  let v : Partial := ⟨words32 (buf.length / 4) buf, toSigned 320 (w 0x10 40), w 0x38 40, w 8 4, bitOf (w 8 8) 32⟩
  let s1 := s.updColl r fun y => { y with rxBuf := tdel y.rxBuf m }
  let s2 := s1.updPart r.part fun q => { q with chunksReceived := q.chunksReceived + 1 }
  match s2.collOf r with
  | some (d1, c1) =>
    if d.nextChild c m |>.isSome then (s2.takeChild r d1 c1 k (m / 2) v).collSettle r else s2
  | none => s2

/-- A working-copy trailer: the leaves are kept and compared with the chunk as written (R466 to R468). -/
def State.wcTrailerIn (s : State) (r : DRef) (d : Desc) (c : Coll) (m : Nat) (l : List Byte) : State :=
  let w (o n : Nat) : Nat := leNat (sliceList l o n)
  let (p, owner) := (fld (w 0 8) 45 44, fld (w 8 4) 18 0)
  let off := w 0 8 % 2 ^ 44
  let nl := fld (w 0x10 8) 8 0
  let leaves := sliceList l 0x40 (16 * nl)
  let base := (d.wholePlanes.getD p (0, 0)).1
  let start := (d.blockSpan c owner p).1 + off
  match d.keyAt c d.ownBases (base + start) with
  | none => s
  | some key =>
    let (_, _, _, n) := d.chunkOf c key
    let s1 := s.updColl r fun y => { y with leaves := tput (tput y.leaves key leaves) (key + 2 ^ 60) (leBytes 4 (w 0xC 4)) }
    let bad := (List.range nl).find? fun j =>
      digestOf (s.rdBytes (base + start + 4096 * j) (min 4096 (n - 4096 * j))) != sliceList leaves (16 * j) 16
    let clean (t : State) : State := t.updColl r fun y =>
      { y with checked := if y.checked.contains key then y.checked else y.checked ++ [key] }
    match bad with
    | none =>
      let tried := tget 0 c.attempts key
      (clean (if tried = 0 then s1 else s1.updDesc r fun x => { x with exc := true })).collSettle r
    | some j =>
      let pt := s.part r.part
      let tried := tget 0 c.attempts key
      let pol := if pt.policy = 2 ∧ tried ≥ 3 then 0 else pt.policy
      let planes := ((d.tin.map TensorDesc.treePlanes).getD [])
      let leaf := leafIndex planes p off + j
      let rec' := divergenceRecord 0 pol d.tag s.tickNo owner (c.ranks.getD (d.peerIdx c m) 0) leaf (w 0xC 4) tried
      let (t, x) := s1.exception r.part rec' false
      let t1 := t.markExc (some r) x
      if pol = 0 then ((clean t1).divergeHalt r owner leaf).collSettle r
      else if pol = 1 then (clean (t1.updDesc r fun e => { e with exc := true })).collSettle r
      else
        (t1.updColl r fun y => { y with attempts := tput y.attempts key (tried + 1) }).pushToken r d m 3 31 (base + start)

/-- A TRAILER reaches the collective engine. -/
def State.takeTrailer (s : State) (n : Nat) (f : TxFrame) : State :=
  match (s.chan n).user with
  | none => s
  | some r => match s.collOf r with
    | none => s
    | some (d, c) =>
      let m := (s.part r.part).relChan d n
      if d.opcode = 0x0500 then (if c.wc.isSome then s.wcTrailerIn r d c m f.payload else s)
      else s.redTrailer r d c m f.payload

/-- A TOKEN or GRANT: a barrier's step, a working-copy channel checked or asked again, a round granted (R433, R435, R467,
R468). -/
def State.takeToken (s : State) (n kind : Nat) (f : TxFrame) : State :=
  match (s.chan n).user with
  | none => s
  | some r => match s.collOf r with
    | none => s
    | some (d, c) =>
      let m := (s.part r.part).relChan d n
      let add (l : List Nat) (k : Nat) : List Nat := if l.contains k then l else l ++ [k]
      let s1 := s.updColl r fun y => y.progress s.tickNo
      if kind = 4 then (s1.updColl r fun y => { y with grantsGot := add y.grantsGot f.addr }).collSettle r
      else if d.opcode = 0x0504 then (s1.updColl r fun y => { y with tokensGot := add y.tokensGot f.addr }).collSettle r
      else if f.addr = tokenChecked then (s1.updColl r fun y => { y with tokensGot := add y.tokensGot m }).collSettle r
      else
        let bs := (tget ⟨0, 0, 0, 0, 0, []⟩ c.basesGot m)
        match d.keyAt c bs.out f.addr with
        | none => s1
        | some key =>
          let (fs, s2) := s1.blockFrames r d c m key
          s2.sendData r d m fs

/-- Deliver one frame of channel `n` of partition `p`, in SEQ order. -/
def State.deliver (s : State) (n p : Nat) (f : TxFrame) : State :=
  let kind := f.op % 8
  if kind = 0 then match f.expanded with
    | some b => s.takeData n p f b
    | none => s
  else if kind = 1 then s.takeTrailer n f
  else if kind = 2 then
    let s1 := s.updChan n fun ch => if ch.stale = 0 then { ch with bases := ch.bases ++ [basesOf f.payload] }
      else { ch with stale := ch.stale - 1 }
    match (s1.chan n).user with
    | some r => s1.collSettle r
    | none => s1
  else if kind ≤ 4 then s.takeToken n kind f
  else s

/-- The bytes of a DATA frame lie within the partition's HBM range (R384, R423). -/
def State.dataInRange (s : State) (p : Nat) (f : TxFrame) : Bool :=
  f.op % 8 != 0 || (match f.expanded with
    | some b => s.inRange (s.part p) f.addr b.length
    | none => true)

/-- Settle the collective on a channel after its state changed. -/
def State.settleUser (s : State) (n : Nat) : State :=
  match (s.chan n).user with
  | some r => s.collSettle r
  | none => s

/-- A data frame in range on channel `n`: accepted, the payloads now in sequence delivered, and an acknowledgement sent where
one is due. -/
def State.rxTake (s : State) (n : Nat) (f : RxFrame) : State :=
  let x := s.acceptData n f.seq f.tx
  let s1 := foldS (fun (t : State) g => t.deliver n f.dstPart g) x.1 x.2.1
  let s2 := if x.2.2 && ((s1.chan n).ackDue ≠ 0 || x.2.1.isEmpty) then s1.sendAck n else s1
  (s2.settleUser n).testWaits f.dstPart

/-- A DATA frame of kind `kind` arrives (R380, R384, R387, R388). One of a reserved kind counts as DATA: it takes its SEQ and
does nothing. -/
def State.rxData (s : State) (f : RxFrame) (kind : Nat) : State :=
  let v := s.macVerdict f
  if v ≠ .take then s.countFrame f v
  else if f.typ ≠ 0 ∨ (if f.kind ≤ 4 then f.kind else 0) ≠ kind then s
  else if f.tx.packed && f.tx.expanded.isNone then s.countFrame f .e2e
  else
    let s0 := s.countFrame f .take
    let n := f.dstCh
    if !(s0.chan n).takes f.src then s0
    else
      let s1 := s0.takeAck n f.ackNo f.sackNo
      if !s1.dataInRange f.dstPart f.tx then (s1.settleUser n).failChan n 2 else s1.rxTake n f

/-- What the reads that a taken frame causes find wrong is there before it acts. -/
def State.rxFinds (s : State) (f : RxFrame) (found : List Found) : State :=
  if s.macVerdict f = .take then s.findAll 2 0 found else s

/-- DATA. -/
def execData (f : FrameReading) (s : State) : Host.Outcome State Fault Refusal :=
  .next ((s.rxFinds f.frame f.found).rxData f.frame 0)
/-- TRAILER. -/
def execTrailer (f : FrameReading) (s : State) : Host.Outcome State Fault Refusal :=
  .next ((s.rxFinds f.frame f.found).rxData f.frame 1)
/-- BASES. -/
def execBases (f : RxFrame) (s : State) : Host.Outcome State Fault Refusal := .next (s.rxData f 2)
/-- TOKEN. -/
def execToken (f : FrameReading) (s : State) : Host.Outcome State Fault Refusal :=
  .next ((s.rxFinds f.frame f.found).rxData f.frame 3)
/-- GRANT. -/
def execGrant (f : RxFrame) (s : State) : Host.Outcome State Fault Refusal := .next (s.rxData f 4)

/-- ACK: acknowledgements, the window, and the sends they complete (R386, R388, R389). -/
def State.rxAckFrame (s : State) (f : RxFrame) : State :=
  let v := s.macVerdict f
  if v ≠ .take then s.countFrame f v
  else if f.typ ≠ 1 then s
  else ((s.countFrame f .take).rxAck f).settleUser f.dstCh

/-- ACK. -/
def execAck (f : RxFrame) (s : State) : Host.Outcome State Fault Refusal := .next (s.rxAckFrame f)

/-- A CH_RESET of the peer on channel `m` loses frames: BASES is sent again, a chunk that has begun is never acknowledged, nor is
a TOKEN or GRANT (R392, R443). -/
def Coll.loseSent (c : Coll) (m : Nat) (frames : List TxFrame) : Coll :=
  { c with
    basesSent := c.basesSent.filter (· != m)
    sends := c.sends.map fun x => if x.chan == m && x.begun && !x.acked then { x with lost := true } else x
    lostToken := c.lostToken || frames.any fun f => f.op % 8 == 3 || f.op % 8 == 4 }

/-- CH_RESET: a new number discards the channel's state and is answered; a repeat is only answered (R392). A BASES frame
lost with it is sent again. -/
def State.rxReset (s : State) (f : RxFrame) : State :=
  let v := s.macVerdict f
  if v ≠ .take then s.countFrame f v
  else if f.typ ≠ 4 then s
  else
    let s0 := s.countFrame f .take
    let n := f.dstCh
    let ch := s0.chan n
    let key := (f.src, f.seq)
    let s1 := if ch.answered.contains key then s0 else
      let again := ch.peer == some f.src && ch.st == .failed
      let c1 := { ch.discard with answered := ch.answered ++ [key], st := if again then .open' else ch.st }
      let t := s0.setChan n c1
      match ch.user with
      | some r => match t.collOf r with
        | some (d, _) =>
          let m := (t.part r.part).relChan d n
          t.updColl r fun y => y.loseSent m (ch.unacked.map (·.frame) ++ ch.waiting)
        | none => t
      | none => t
    (s1.sendFrame n 5 f.src f.seq TxFrame.none 0).settleUser n

/-- CH_RESET. -/
def execChReset (f : RxFrame) (s : State) : Host.Outcome State Fault Refusal := .next (s.rxReset f)

/-- CH_RESET_ACK: the reset is complete; a rebound channel is OPEN, any other CLOSED and bound to no peer (R392). -/
def State.rxResetAck (s : State) (f : RxFrame) : State :=
  let v := s.macVerdict f
  if v ≠ .take then s.countFrame f v
  else if f.typ ≠ 5 then s
  else
    let s0 := s.countFrame f .take
    let n := f.dstCh
    let ch := s0.chan n
    match ch.resetting with
    | none => s0
    | some q =>
      if q.to' ≠ f.src ∨ ch.resetNo ≠ f.seq then s0
      else
        let st : ChanState := if q.rebind.isSome then .open' else .closed
        ((s0.setChan n { ch with resetting := none, peer := q.rebind, st := st }).pump n).settleUser n

/-- CH_RESET_ACK. -/
def execChResetAck (f : RxFrame) (s : State) : Host.Outcome State Fault Refusal := .next (s.rxResetAck f)

end Sys2Proof.Machine
end

