-- ==== Sys2Proof/Machine/Xc16.lean ====
section
/-!
DEFINITION. XC16_ENCODE and XC16_DECODE (R111 to R122, R169).
-/

namespace Sys2Proof.Machine

/-! ## The encoder (R113 to R117, R119) -/

/-- A bit string from its lowest bit. -/
def bitsNat (l : List Bool) : Nat := l.foldr (fun b n => (if b then 1 else 0) + 2 * n) 0

/-- The bits of a number, lowest first. -/
def natBits (n x : Nat) : List Bool := (List.range n).map fun i => bitOf x i

/-- The code of exponent `e` under EMAX (R114). -/
def xcBits (emax e : Nat) : List Bool :=
  match emax - e with
  | 0 => [true, false, true, false]
  | 1 => [false, false]
  | 2 => [false, true]
  | 3 => [true, false, false]
  | 4 => [true, false, true, true]
  | 5 => [true, true, false, false]
  | 6 => [true, true, false, true]
  | _ => [true, true, true] ++ natBits 8 e

/-- The exponent field of a BF16 word. -/
def bfExp (w : Nat) : Nat := fld w 14 7

/-- A BF16 word as the encoder keeps it: a NaN is canonical (R74, R119). -/
def xcWord (w : Nat) : Nat := if (ofBf w).isNaN then 0x7FC0 else w

/-- EMAX of a block (R113). -/
def xcEmax (ws : List Nat) : Nat := ws.foldl (fun m w => max m (bfExp w)) 0

/-- The code stream of a block (R114). -/
def xcStream (ws : List Nat) : List Bool := ws.flatMap fun w => xcBits (xcEmax ws) (bfExp w)

/-- A block fits (R115). -/
def xcFits (ws : List Nat) : Bool := decide ((xcStream ws).length ≤ 368)

/-- The 176 bytes of a slot (R113). -/
def xcSlotBytes (ws : List Nat) : List Byte :=
  leBytes 16 (bitsNat (ws.map fun w => bitOf w 15)) ++
  leBytes 112 (bitsNat (ws.flatMap fun w => natBits 7 w)) ++
  [BitVec.ofNat 8 (xcEmax ws), 0] ++ leBytes 46 (bitsNat (xcStream ws))

/-- The BF16 words of block `b` as the encoder takes them from its input. -/
def TensorDesc.xcInput (o : TensorDesc) (s : State) (t : TensorDesc) (b : Nat) : List Nat :=
  (o.blockElems (o.blockFirst b)).map fun i => xcWord (t.raw s i)

/-- The blocks that overflow, rising (R115). -/
def TensorDesc.xcOver (o : TensorDesc) (s : State) (t : TensorDesc) : List Nat :=
  (List.range o.blocks).filter fun b => !xcFits (o.xcInput s t b)

/-- The map entry of group `g`: FLAGS and BASE (R117). -/
def xcMap (ovf : List Nat) (g : Nat) : Nat :=
  maskOf ((ovf.filter fun b => b / 32 == g).map (· % 32)) + (ovf.filter fun b => decide (b < 32 * g)).length * 2 ^ 32

/-- Write block `b`: its slot, an overflowed block's raw words, and with block 32g the map entry g. The raw words of padding
positions are zero (DESIGN CHOICE, log entry 45). -/
def Run.xcEncodeBlock (r : Run) (o : TensorDesc) (s : State) (t : TensorDesc) (ovf : List Nat) (b : Nat) : Run :=
  let ws := o.xcInput s t b
  let r1 := if ovf.contains b then
      (r.wr (o.wd 0 + 176 * b) (List.replicate 176 0)).wr (o.wd 2 + 256 * (ovf.filter fun x => decide (x < b)).length)
        (padTo 256 (ws.flatMap (leBytes 2)))
    else r.wr (o.wd 0 + 176 * b) (xcSlotBytes ws)
  if b % 32 = 0 then r1.wrN (o.wd 1 + 8 * (b / 32)) 8 (xcMap ovf (b / 32)) else r1

/-! ## The two operations (R169) -/

/-- Fetch checks of XC16_ENCODE and XC16_DECODE (R169). -/
def xc16Spec (d : Desc) : OpSpec :=
  { OpSpec.plain [bits32 0x40, bits32 0x44] 1 with
    encOk := ptrRule (d.w32 0x40) true && ptrRule (d.w32 0x44) true, tdps := [d.w32 0x40, d.w32 0x44] }

/-- Admission of XC16_ENCODE and XC16_DECODE: formats and equal shapes, then the planes' ownership; an empty tensor
completes EMPTY_OUTPUT (R169, R174, R248). Neither output is a quantiser's (R158). That rank and sizes must agree, and the
code, are the model's (DESIGN CHOICE, log entry 45). -/
def admitXc16 (s : State) (p : Nat) (d : Desc) : Chk Desc := do
  let enc := d.opcode == 0x0201
  let t ← s.readTd p (d.w32 0x40) 0 .read
  let o ← s.readTd p (d.w32 0x44) 1 .plain
  need (t.format == (if enc then fBF16 else fXC16)) 0x08 0
  need (o.format == (if enc then fXC16 else fBF16)) 0x08 1
  need (t.rank == o.rank && t.size == o.size) 0x08 1
  s.needOwned (s.part p) (t.planes ++ o.planes)
  if t.count = 0 then .error (stEmptyOutput, 0)
  else return { d with tds := [(d.w32 0x40, t), (d.w32 0x44, o)], units := rowGroups t.size }

/-- XC16_ENCODE: its first slice computes the lengths of all codes, and what overflows then holds for every slice. Too many
overflowing blocks end it before any plane is written (DESIGN CHOICE, log entry 45: no rule says whether before or after its
start); else the slice's row groups write the blocks that begin in them. -/
def runXc16Encode (s : State) (d : Desc) (sl : Slice) (r : DRef) : State :=
  match d.td (d.w32 0x40), d.td (d.w32 0x44) with
  | some t, some o =>
    let ovf := if sl.first = 0 then o.xcOver s t else d.xcOver
    let run := Run.start s r.part 1 4 sl.clusters d
    if sl.first = 0 ∧ ovf.length > o.ovfCap then
      ((run.readsElems t (List.range t.count)).finish r).updDesc r fun d' =>
        d'.decide' stBadDescriptor (badDetail 0x0B 1 0x7FF)
    else
      let mine := (List.range o.blocks).filter fun b =>
        let g := groupOf o.size (o.blockFirst b)
        decide (sl.first ≤ g ∧ g < sl.first + sl.count)
      let r0 := if sl.first = 0 then run.readsElems t (List.range t.count)
        else run.readsElems t (mine.flatMap fun b => o.blockElems (o.blockFirst b))
      ((foldS (fun (w : Run) b => w.xcEncodeBlock o s t ovf b) r0 mine).finish r).updDesc r fun x => { x with xcOver := ovf }
  | _, _ => s

/-- XC16_ENCODE. -/
def execXc16Encode (r : DRef) (s : State) : Host.Outcome State Fault Refusal :=
  .next (s.runSlice r 0x0201 fun t d sl => runXc16Encode t d sl r)

/-- Decode one row group. -/
def Run.xcDecodeGroup (r : Run) (t o : TensorDesc) (g : Nat) : Run :=
  let idx := groupElems t.size g
  let r1 := r.readsElems t idx
  let vs := idx.map fun i =>
    let (b, pos) := t.blockOf i
    (i, (t.xcBlock r1.s b (t.blockElems i).length).map fun l => l.getD pos 0)
  let r2 := foldS (fun (w : Run) (v : Nat × Option Nat) => w.wrN (o.elemAddr v.1) 2 (v.2.getD 0x7FC0)) r1 vs
  (r2.raise ((vs.filter fun v => v.2.isNone).map fun v => r.evt 2 t.id t.size v.1)).endUnit

/-- XC16_DECODE: the slice's row groups, bit for bit as encoded (R120). -/
def runXc16Decode (s : State) (d : Desc) (sl : Slice) (r : DRef) : State :=
  match d.td (d.w32 0x40), d.td (d.w32 0x44) with
  | some t, some o =>
    let run := Run.start s r.part 1 4 sl.clusters d
    (foldS (fun (w : Run) g => w.xcDecodeGroup t o g) run ((List.range sl.count).map (sl.first + ·))).finish r
  | _, _ => s

/-- XC16_DECODE. -/
def execXc16Decode (r : DRef) (s : State) : Host.Outcome State Fault Refusal :=
  .next (s.runSlice r 0x0202 fun t d sl => runXc16Decode t d sl r)

end Sys2Proof.Machine
end

