-- ==== Sys2Proof/Machine/Vector.lean ====
section
/-!
DEFINITION. Tile vector engines: registers, masks, the tile instructions, VEC programs (R123 to R153, R168).
-/

namespace Sys2Proof.Machine

/-! ## Views (R124, R125) -/

def vF32 : Nat := 0
def vI32 : Nat := 1
def vBF : Nat := 2
def vI16 : Nat := 3

/-- Element width of a view. -/
def viewBits (typ : Nat) : Nat :=
  match typ with
  | 0 | 1 => 32
  | 2 | 3 => 16
  | 4 => 8
  | 5 => 4
  | _ => 2

/-- Columns of a view. -/
def viewCols (typ : Nat) : Nat := 1024 / viewBits typ

/-- A 32-bit view. -/
def isWide (typ : Nat) : Bool := typ == 0 || typ == 1

/-- The `n` fields of `w` bits of a word, lowest first. -/
def splitWord (w : Nat) : Nat → Nat → List Nat
  | 0, _ => []
  | n + 1, x => x % 2 ^ w :: splitWord w n (x / 2 ^ w)

/-- The elements of a register's words in a view, row by row. -/
def splitView (typ : Nat) (words : List Nat) : List Nat :=
  if isWide typ then words else words.flatMap (splitWord (viewBits typ) (32 / viewBits typ))

/-- A word of fields, lowest first. -/
def joinWord (w : Nat) (l : List Nat) : Nat := l.foldr (fun x n => x % 2 ^ w + 2 ^ w * n) 0

/-- Cut a list into `n` pieces of `k`. -/
def pieces {α : Type} (k : Nat) : Nat → List α → List (List α)
  | 0, _ => []
  | n + 1, l => l.take k :: pieces k n (l.drop k)

/-- The words of a register whose elements in a view are given. -/
def joinView (typ : Nat) (l : List Nat) : List Nat :=
  if isWide typ then l else (pieces (32 / viewBits typ) 1024 l).map (joinWord (viewBits typ))

/-! ## An engine at one tile (R126, R128) -/

/-- What an instruction works on: the descriptor's run, the registers and masks, the slots, the iteration space, the tile
width, the row group's place and the tile. -/
structure VCtx where
  run : Run
  regs : List (Nat × List Nat)
  masks : List (Nat × List Nat)
  slots : List (Option TensorDesc)
  it : List Nat
  tw : Nat
  row0 : Nat
  c2 : Nat
  c3 : Nat
  tile : Nat
deriving DecidableEq, Repr

/-- The words of a tile register. -/
def VCtx.words (x : VCtx) (r : Nat) : List Nat := (tlook x.regs r).getD (List.replicate 1024 0)

/-- The elements of a tile register in a view. -/
def VCtx.elems (x : VCtx) (typ r : Nat) : List Nat := splitView typ (x.words r)

/-- Positions of the tile inside the iteration space, as a row mask (R126). -/
def VCtx.tailMask (x : VCtx) : Nat := 2 ^ min x.tw (x.it.getD 0 1 - x.tw * x.tile) - 1

/-- The 32 rows of a mask: K0 is set by the hardware, K7 is all ones. -/
def VCtx.mask (x : VCtx) (k : Nat) : List Nat :=
  if k = 0 then (List.range 32).map fun r => if x.row0 + r < x.it.getD 1 1 then x.tailMask else 0
  else if k = 7 then List.replicate 32 (2 ^ 64 - 1)
  else (tlook x.masks k).getD (List.replicate 32 0)

/-- The position an element's column stands for, in a view and half (R128). -/
def posOf (typ h c : Nat) : Nat := if isWide typ then 32 * h + c else c

/-- Whether mask `k` marks each element of a view used as half `h` (R126). -/
def VCtx.marks (x : VCtx) (k typ h : Nat) : List Bool :=
  (x.mask k).flatMap fun m => (List.range (viewCols typ)).map fun c =>
    let p := posOf typ h c
    if p < 64 then bitOf m p else k == 7

/-- Write the marked elements of a register (R135). -/
def VCtx.put (x : VCtx) (typ h k d : Nat) (vals : List Nat) : VCtx :=
  let new := ((x.marks k typ h).zip (vals.zip (x.elems typ d))).map fun (m, v, old) => if m then v else old
  { x with regs := tput x.regs d (joinView typ new) }

/-- The coordinates of a position of the tile. -/
def VCtx.coord (x : VCtx) (r p : Nat) : List Nat := [x.tw * x.tile + p, x.row0 + r, x.c2, x.c3]

/-- The tensor of a slot. -/
def VCtx.slot (x : VCtx) (i : Nat) : Option TensorDesc := (x.slots.getD i none)

/-- The element index of a position in a slot's tensor; a dimension of size 1 broadcasts (R63, R141). A position outside the
iteration space that K marks takes the index the formula gives beyond the sizes (R136; DESIGN CHOICE, log entry 46). -/
def VCtx.slotIndex (x : VCtx) (t : TensorDesc) (r p : Nat) : Nat :=
  t.index (((x.coord r p).zip t.size).map fun (c, n) => if n = 1 then 0 else c)

/-- The element index of a position in slot `i`. -/
def VCtx.indexIn (x : VCtx) (i r p : Nat) : Nat :=
  match x.slot i with
  | some t => x.slotIndex t r p
  | none => 0

/-- A NaN at a position, named by slot `i` (R152). -/
def VCtx.evt (x : VCtx) (cause i r p : Nat) : NanEvt :=
  ⟨cause, x.run.kind, (match x.slot i with | some t => t.id | none => 0), x.coord r p, x.indexIn i r p, x.run.clusters,
    x.run.engines, x.run.place, x.run.base⟩

/-- Raise the NaNs of flagged elements that the instruction writes and K0 marks (R139). -/
def VCtx.raiseAt (x : VCtx) (cause i typ h k : Nat) (flags : List Bool) : VCtx :=
  if flags.all (!·) then x
  else
    let on := (flags.zip ((x.marks k typ h).zip (x.marks 0 typ h))).map fun (f, a, b) => f && a && b
    let cols := viewCols typ
    { x with run := x.run.raise ((on.zipIdx).filterMap fun (f, j) =>
        if f then some (x.evt cause i (j / cols) (posOf typ h (j % cols))) else none) }

/-! ## Instructions (R134, R136) -/

/-- The half FN[15] names, in a 32-bit view (R128). -/
def halfOf (i : VInst) : Nat := if isWide i.typ then fld i.fn 15 15 else 0

/-- NOP. -/
def VCtx.opNop (x : VCtx) : VCtx := x

/-- The value of an element a load into F takes and whether it is a reserved code. -/
def TensorDesc.loadF (t : TensorDesc) (s : State) (j : Nat) : Nat × Bool :=
  if t.format = fFP32X then (enc32 (of32 (s.rdN (t.wd 0 + 4 * j) 4)), false)
  else let (v, res) := t.val s j; (enc32 v, res)

/-- The bytes a load of an element reads: of a block-format slot in a P view the element plane alone, of FP32X the main
plane alone (R141). -/
def TensorDesc.loadCells (t : TensorDesc) (s : State) (typ j : Nat) : List (Nat × Nat) :=
  match t.blk with
  | some k =>
    if typ < 4 then t.cells s j
    else let (b, pos) := t.blockOf j; [(t.wd 0 + b * k.bytes + pos * k.bits / 8, 1)]
  | none => if t.format = fFP32X then [(t.wd 0 + 4 * j, 4)] else t.cells s j

/-- LD: the current tile of slot FN[2:0] into D (R141). Columns that stand for no position of the tile take 0 (DESIGN CHOICE,
log entry 46). -/
def VCtx.opLd (x : VCtx) (i : VInst) : VCtx :=
  match x.slot (fld i.fn 2 0) with
  | none => x
  | some t =>
    let h := if isWide i.typ then fld i.fn 4 4 else 0
    let cols := viewCols i.typ
    let inside : List (Option Nat) := (x.marks 0 i.typ h).zipIdx.map fun (m, j) =>
      if m then some (x.slotIndex t (j / cols) (posOf i.typ h (j % cols))) else none
    let run := x.run.reads ((inside.filterMap id).flatMap fun j => t.loadCells x.run.s i.typ j)
    let vals : List (Nat × Bool) := inside.map fun o => match o with
      | none => (0, false)
      | some j => if i.typ = vF32 then t.loadF x.run.s j else (t.raw x.run.s j, false)
    (({ x with run := run } : VCtx).put i.typ h i.k i.d (vals.map fun v => v.1)).raiseAt 2 0 i.typ h i.k (vals.map fun v => v.2)

/-- Of stores that map to one element in turn the last stands (R143). -/
def lastStores : List (Nat × Nat) → List (Nat × Nat)
  | a :: b :: t => if a.1 = b.1 then lastStores (b :: t) else a :: lastStores (b :: t)
  | l => l

/-- Store F values to a block-format slot (R67, R142). -/
def Run.storeBlocks (r : Run) (t : TensorDesc) (b : Blk) (vals : List (Nat × Nat)) : Run × List NanEvt :=
  let blocks := foldS (fun l (v : Nat × Nat) => tput l (t.blockOf v.1).1 v.1) ([] : List (Nat × Nat)) vals
  foldS (fun (w : Run × List NanEvt) (e : Nat × Nat) =>
    let given := t.smode && t.scaleAt w.1.s e.1 == 0xFF
    let w1 := ({ w.1 with nan := none }).writeBlock t b e.2
      ((t.blockElems e.2).map fun j => of32 ((tlook vals j).getD 0)) (0, [])
    ({ w1 with nan := w.1.nan }, w.2 ++ if given then w1.nan.toList else [])) (r, []) blocks

/-- ST: A to the current tile of slot FN[2:0], at positions marked in K0 and K (R142). Where several positions map to one
element, the last alone counts in the sentry table, and a NaN at any of them is met (DESIGN CHOICE, log entry 46). -/
def VCtx.opSt (x : VCtx) (i : VInst) : VCtx :=
  let n := fld i.fn 2 0
  match x.slot n with
  | none => x
  | some t =>
    let h := (halfOf i)
    let cols := viewCols i.typ
    let on := ((x.marks 0 i.typ h).zip (x.marks i.k i.typ h)).zip (x.elems i.typ i.a)
    let cells := on.zipIdx.filterMap fun (((a, b), v), j) =>
      if a && b then some (j / cols, posOf i.typ h (j % cols), v) else none
    let vals := lastStores (cells.map fun (r, p, v) => (x.slotIndex t r p, v))
    if i.typ = vF32 then
      let met := if isQuantised t.format then
        cells.filterMap fun (r, p, v) => if (of32 v).isNaN then some (x.evt 1 n r p) else none else []
      match t.blk with
      | some b =>
        let (w, ev) := x.run.storeBlocks t b vals
        let bad := ev.map (·.index)
        { x with run := w.raise (ev ++ met.filter fun e => !(bad.any fun j => (t.blockOf j).1 == (t.blockOf e.index).1)) }
      | none =>
        let w := foldS (fun (w : Run) (v : Nat × Nat) =>
          let u := w.writeElem t v.1 (of32 v.2) (0, [], 0)
          { u with nan := w.nan }) x.run vals
        { x with run := w.raise met }
    else
      let wd := (stridedWidth t.format).getD 1
      { x with run := foldS (fun (w : Run) (v : Nat × Nat) => w.wrN (t.elemAddr v.1) wd v.2) x.run vals }

/-- MOV. -/
def VCtx.opMov (x : VCtx) (i : VInst) : VCtx := x.put i.typ (halfOf i) i.k i.d (x.elems i.typ i.a)

/-- CONST: IMM in every element. -/
def VCtx.opConst (x : VCtx) (i : VInst) : VCtx :=
  x.put i.typ (halfOf i) i.k i.d (List.replicate (32 * viewCols i.typ) (i.imm % 2 ^ viewBits i.typ))

/-- IOTA: coordinates or the element index in slot 0, kept in 32 bits. -/
def VCtx.opIota (x : VCtx) (i : VInst) : VCtx :=
  let h := fld i.fn 4 4
  x.put i.typ h i.k i.d ((List.range 1024).map fun j =>
    let (r, p) := (j / 32, posOf i.typ h (j % 32))
    (if i.md = 2 then x.indexIn 0 r p else (x.coord r p).getD i.md 0) % 2 ^ 32)

/-- The format of a floating view. -/
def viewFmt (typ : Nat) : FpFmt := if typ = vBF then fmtBf else fmt32
def viewVal (typ w : Nat) : Fp := if typ = vBF then ofBf w else of32 w
def isFloatView (typ : Nat) : Bool := typ == vF32 || typ == vBF

/-- Write float results, with a flag where the operation made a NaN from operands that hold none. -/
def VCtx.putF (x : VCtx) (i : VInst) (res : List (Nat × Bool)) : VCtx :=
  (x.put i.typ (halfOf i) i.k i.d (res.map (·.1))).raiseAt 0 0 i.typ (halfOf i) i.k (res.map (·.2))

/-- One operand. -/
def VCtx.un (x : VCtx) (i : VInst) (f : Fp → Nat) : VCtx :=
  x.putF i ((x.elems i.typ i.a).map fun a =>
    let u := viewVal i.typ a
    let w := f u
    (w, !u.isNaN && (viewVal i.typ w).isNaN))

/-- Two operands. -/
def VCtx.bin (x : VCtx) (i : VInst) (f : Fp → Fp → Nat) : VCtx :=
  x.putF i (((x.elems i.typ i.a).zip (x.elems i.typ i.b)).map fun (a, b) =>
    let (u, v) := (viewVal i.typ a, viewVal i.typ b)
    let w := f u v
    (w, !u.isNaN && !v.isNaN && (viewVal i.typ w).isNaN))

/-- Integer operations on signed elements, wrapped. -/
def VCtx.intBin (x : VCtx) (i : VInst) (f : Int → Int → Int) : VCtx :=
  let w := viewBits i.typ
  x.put i.typ (halfOf i) i.k i.d (((x.elems i.typ i.a).zip (x.elems i.typ i.b)).map fun (a, b) =>
    ofSigned w (f (toSigned w a) (toSigned w b)))

def VCtx.intUn (x : VCtx) (i : VInst) (f : Int → Int) : VCtx :=
  let w := viewBits i.typ
  x.put i.typ (halfOf i) i.k i.d ((x.elems i.typ i.a).map fun a => ofSigned w (f (toSigned w a)))

/-- ADD. -/
def VCtx.opAdd (x : VCtx) (i : VInst) : VCtx :=
  if isFloatView i.typ then x.bin i fun a b => (a.add b).enc (viewFmt i.typ) none else x.intBin i (· + ·)
/-- SUB. -/
def VCtx.opSub (x : VCtx) (i : VInst) : VCtx :=
  if isFloatView i.typ then x.bin i fun a b => (a.sub b).enc (viewFmt i.typ) none else x.intBin i (· - ·)
/-- MUL. -/
def VCtx.opMul (x : VCtx) (i : VInst) : VCtx :=
  if isFloatView i.typ then x.bin i fun a b => (a.mul b).enc (viewFmt i.typ) none else x.intBin i (· * ·)
/-- FMA, rounded once. -/
def VCtx.opFma (x : VCtx) (i : VInst) : VCtx :=
  x.putF i (((x.elems i.typ i.a).zip ((x.elems i.typ i.b).zip (x.elems i.typ i.c))).map fun (a, b, c) =>
    let (u, v, t) := (viewVal i.typ a, viewVal i.typ b, viewVal i.typ c)
    let r := u.fma v t
    (r.enc (viewFmt i.typ) none, !u.isNaN && !v.isNaN && !t.isNaN && r.isNaN))
/-- MAX (R76). -/
def VCtx.opMax (x : VCtx) (i : VInst) : VCtx :=
  if isFloatView i.typ then x.bin i fun a b => (a.max b).enc (viewFmt i.typ) none else x.intBin i max
/-- MIN (R76). -/
def VCtx.opMin (x : VCtx) (i : VInst) : VCtx :=
  if isFloatView i.typ then x.bin i fun a b => (a.min b).enc (viewFmt i.typ) none else x.intBin i min
/-- ABS. -/
def VCtx.opAbs (x : VCtx) (i : VInst) : VCtx :=
  if isFloatView i.typ then x.un i fun a => a.abs.enc (viewFmt i.typ) none else x.intUn i fun a => a.natAbs
/-- NEG. -/
def VCtx.opNeg (x : VCtx) (i : VInst) : VCtx :=
  if isFloatView i.typ then x.un i fun a => a.neg.enc (viewFmt i.typ) none else x.intUn i fun a => -a
/-- DIV. -/
def VCtx.opDiv (x : VCtx) (i : VInst) : VCtx := x.bin i (fpDiv fmt32)
/-- SQRT. -/
def VCtx.opSqrt (x : VCtx) (i : VInst) : VCtx := x.un i (fpSqrt fmt32)
/-- RCP. -/
def VCtx.opRcp (x : VCtx) (i : VInst) : VCtx := x.un i (fpDiv fmt32 (.fin false 1 0))
/-- RSQRT. -/
def VCtx.opRsqrt (x : VCtx) (i : VInst) : VCtx := x.un i (fpRsqrt fmt32)
/-- EXP to ERF (R144, R145). -/
def VCtx.opFun (x : VCtx) (i : VInst) (f : Fun) : VCtx := x.un i f.eval

/-- The predicate of CMP on floats; UN is true where either is NaN (R77, R136). -/
def cmpF (md : Nat) (a b : Fp) : Bool :=
  match md with
  | 0 => a.eq b
  | 1 => !a.eq b
  | 2 => a.lt b
  | 3 => a.le b
  | 4 => b.lt a
  | 5 => b.le a
  | _ => a.isNaN || b.isNaN

/-- The predicate of CMP on integers. -/
def cmpI (md : Nat) (a b : Int) : Bool :=
  match md with
  | 0 => a == b
  | 1 => a != b
  | 2 => decide (a < b)
  | 3 => decide (a ≤ b)
  | 4 => decide (b < a)
  | 5 => decide (b ≤ a)
  | _ => false

/-- Row mask with bits [lo, lo + n) replaced by a list of bits where `on` marks. -/
def mergeBits (old on lo : Nat) (bits : List Bool) : Nat :=
  (bits.zipIdx).foldl (fun m (b, j) =>
    if bitOf on (lo + j) then (if b then setBit m (lo + j) else clearBit m (lo + j)) else m) old

/-- CMP: mask D at the positions of the view and half that K marks (R135). -/
def VCtx.opCmp (x : VCtx) (i : VInst) : VCtx :=
  let cols := viewCols i.typ
  let w := viewBits i.typ
  let bits := ((x.elems i.typ i.a).zip (x.elems i.typ i.b)).map fun (a, b) =>
    if isFloatView i.typ then cmpF i.md (viewVal i.typ a) (viewVal i.typ b)
    else cmpI i.md (toSigned w a) (toSigned w b)
  let rows := ((x.mask i.d).zip (x.mask i.k)).zip (pieces cols 32 bits)
  { x with masks := tput x.masks i.d (rows.map fun ((old, on), l) =>
      mergeBits old on (if isWide i.typ then 32 * (halfOf i) else 0) l) }

/-- SEL: A where mask FN[2:0] is 1, else B. -/
def VCtx.opSel (x : VCtx) (i : VInst) : VCtx :=
  x.put i.typ (halfOf i) i.k i.d (((x.marks (fld i.fn 2 0) i.typ (halfOf i)).zip
    ((x.elems i.typ i.a).zip (x.elems i.typ i.b))).map fun (m, a, b) => if m then a else b)

/-- The operation of KOP on row masks. -/
def kopBits (md a b : Nat) : Nat :=
  match md with
  | 0 => a &&& b
  | 1 => a ||| b
  | 2 => a ^^^ b
  | _ => a &&& (b ^^^ (2 ^ 64 - 1))

/-- KOP: mask D = mask A op mask B where K marks. -/
def VCtx.opKop (x : VCtx) (i : VInst) : VCtx :=
  let rows := ((x.mask i.d).zip (x.mask i.k)).zip ((x.mask i.a).zip (x.mask i.b))
  { x with masks := tput x.masks i.d (rows.map fun ((old, on), a, b) =>
      (kopBits i.md a b &&& on) ||| (old &&& (on ^^^ (2 ^ 64 - 1)))) }

/-- AND, OR and XOR. -/
def VCtx.bitBin (x : VCtx) (i : VInst) (f : Nat → Nat → Nat) : VCtx :=
  x.put i.typ (halfOf i) i.k i.d (((x.elems i.typ i.a).zip (x.elems i.typ i.b)).map fun (a, b) => f a b)
def VCtx.opAnd (x : VCtx) (i : VInst) : VCtx := x.bitBin i (· &&& ·)
def VCtx.opOr (x : VCtx) (i : VInst) : VCtx := x.bitBin i (· ||| ·)
def VCtx.opXor (x : VCtx) (i : VInst) : VCtx := x.bitBin i (· ^^^ ·)

/-- The shift count: FN[4:0] modulo the element width. -/
def countOf (i : VInst) : Nat := fld i.fn 4 0 % viewBits i.typ
/-- SHL. -/
def VCtx.opShl (x : VCtx) (i : VInst) : VCtx :=
  x.put i.typ (halfOf i) i.k i.d ((x.elems i.typ i.a).map fun a => a * 2 ^ (countOf i) % 2 ^ viewBits i.typ)
/-- SHR, logical. -/
def VCtx.opShr (x : VCtx) (i : VInst) : VCtx :=
  x.put i.typ (halfOf i) i.k i.d ((x.elems i.typ i.a).map fun a => a / 2 ^ (countOf i))
/-- SRA, arithmetic. -/
def VCtx.opSra (x : VCtx) (i : VInst) : VCtx := x.intUn i fun a => a / (2 ^ (countOf i) : Nat)

/-- How a CVT changes width: 0 same, 1 narrowing, 2 widening; none where R138 has no such pair. -/
def cvtKind (src dst : Nat) : Option Nat :=
  if src = vF32 ∧ dst = vBF ∨ src = vI32 ∧ dst = vI16 then some 1
  else if src = vBF ∧ (dst = vI32 ∨ dst = vF32) ∨ src = vI16 ∧ dst = vI32 then some 2
  else if src = vF32 ∧ dst = vI32 ∨ src = vI32 ∧ dst = vF32 then some 0
  else none

/-- A CVT that quantises: from a floating view to B or to I (R138). -/
def cvtQuant (src dst : Nat) : Bool := isFloatView src && (dst == vBF || dst == vI32) && !(src == vBF && dst == vBF)

/-- One converted element. -/
def cvtOne (src dst : Nat) (r : Rnd) (w : Nat) : Nat :=
  if src = vI32 then (if dst = vF32 then enc32 (Fp.ofInt (toSigned 32 w)) else w % 2 ^ 16)
  else if src = vI16 then ofSigned 32 (toSigned 16 w)
  else if dst = vBF then encBf r (of32 w)
  else if dst = vI32 then (encI32 r (viewVal src w)).1
  else enc32 (ofBf w)

/-- CVT (R138). -/
def VCtx.opCvt (x : VCtx) (i : VInst) : VCtx :=
  let src := fld i.fn 3 0
  let n := fld i.fn 10 8
  let (h, ins) : Nat × List Nat := match cvtKind src i.typ with
    | some 1 => (0, ((pieces 32 32 (x.words i.a)).zip (pieces 32 32 (x.words i.b))).flatMap fun (a, b) => a ++ b)
    | some 2 =>
      let g := fld i.fn 4 4
      (g, (pieces 64 32 (x.elems src i.a)).flatMap fun l => sliceList l (32 * g) 32)
    | _ => (fld i.fn 15 15, x.words i.a)
  let cols := viewCols i.typ
  let key := drawKey x.run.seed x.run.step (match x.slot n with | some t => t.id | none => 0)
  let vals := ins.zipIdx.map fun (w, j) =>
    let r : Rnd := if i.md = 1 then some (drawU key (x.indexIn n (j / cols) (posOf i.typ h (j % cols)))) else none
    cvtOne src i.typ r w
  let y := x.put i.typ h i.k i.d vals
  if cvtQuant src i.typ then y.raiseAt 1 n i.typ h i.k (ins.map fun w => (viewVal src w).isNaN) else y

/-- Registers a packed view stands for (R140). -/
def packCount (typ : Nat) : Nat := viewCols typ / 32

/-- PACK: the low bits of I32 codes in A onwards. -/
def VCtx.opPack (x : VCtx) (i : VInst) : VCtx :=
  let regs := (List.range (packCount i.typ)).map fun j => pieces 32 32 (x.words (i.a + j))
  x.put i.typ 0 i.k i.d ((List.range 32).flatMap fun r =>
    regs.flatMap fun rows => (rows.getD r []).map (· % 2 ^ viewBits i.typ))

/-- UNPK: codes of a packed view of A into D onwards. -/
def VCtx.opUnpk (x : VCtx) (i : VInst) : VCtx :=
  let src := fld i.fn 3 0
  let w := viewBits src
  let rows := pieces (viewCols src) 32 (x.elems src i.a)
  foldS (fun (y : VCtx) j =>
    y.put vI32 j i.k (i.d + j) ((rows.flatMap fun l => sliceList l (32 * j) 32).map fun v =>
      if i.md = 1 then ofSigned 32 (toSigned w v) else v)) x (List.range (packCount src))

/-- Elements picked from the 32 × 32 register A. -/
def VCtx.pick (x : VCtx) (i : VInst) (f : Nat → Nat → Nat × Nat) : VCtx :=
  let a := pieces 32 32 (x.words i.a)
  x.put i.typ (halfOf i) i.k i.d ((List.range 32).flatMap fun r => (List.range 32).map fun c =>
    let (r', c') := f r c
    (a.getD r' []).getD c' 0)

/-- TRN. -/
def VCtx.opTrn (x : VCtx) (i : VInst) : VCtx := x.pick i fun r c => (c, r)
/-- PERM. -/
def VCtx.opPerm (x : VCtx) (i : VInst) : VCtx :=
  let b := pieces 32 32 (x.words i.b)
  x.pick i fun r c =>
    let v := (b.getD r []).getD c 0 % 32
    if i.md = 0 then (r, v) else (v, c)
/-- SHUF. -/
def VCtx.opShuf (x : VCtx) (i : VInst) : VCtx :=
  x.pick i fun r c => if i.md = 0 then (r, (c + fld i.fn 4 0) % 32) else ((r + fld i.fn 4 0) % 32, c)
/-- BCST. -/
def VCtx.opBcst (x : VCtx) (i : VInst) : VCtx := x.pick i fun r c => if i.md = 0 then (r, 0) else (0, c)

/-! ## Lane-end reductions (R147, R148) -/

/-- One level of the tree. -/
def pairUp {α : Type} (op : α → α → α) : List α → List α
  | a :: b :: t => op a b :: pairUp op t
  | l => l

/-- The tree of R147 over 2^n values. -/
def treeUp {α : Type} (op : α → α → α) (d : α) : Nat → List α → α
  | 0, l => l.headD d
  | n + 1, l => treeUp op d n (pairUp op l)

/-- Rows of A, or its columns for MOD 1. -/
def linesOfReg (md : Nat) (l : List Nat) : List (List Nat) :=
  let rows := pieces 32 32 l
  if md = 0 then rows else (List.range 32).map fun c => rows.map fun r => r.getD c 0

/-- Reduce every line of register A, marked positions by `val`, and write the results and flags at column 0 or row 0. -/
def VCtx.reduce {α : Type} (x : VCtx) (i : VInst) (ident : α) (val : Nat → Nat → α) (op : α → α → α)
    (out : α → Nat × Bool) : VCtx :=
  let ones := ((x.marks 0 i.typ (halfOf i)).zip (x.marks i.k i.typ (halfOf i))).map fun (a, b) => if a && b then 1 else 0
  let la := (linesOfReg i.md (x.words i.a)).zip ((linesOfReg i.md (x.words i.b)).zip (linesOfReg i.md ones))
  let res := la.map fun (as, bs, ms) =>
    out (treeUp op ident 5 ((as.zip (bs.zip ms)).map fun (a, b, m) => if m = 1 then val a b else ident))
  let old := x.words i.d
  let cell (j : Nat) : Option Nat := if i.md = 0 then (if j % 32 = 0 then some (j / 32) else none)
    else if j < 32 then some j else none
  let new := old.zipIdx.map fun (w, j) => match cell j with
    | some n => res.getD n (0, false)
    | none => (w, false)
  (x.put i.typ (halfOf i) i.k i.d (new.map (·.1))).raiseAt 0 0 i.typ (halfOf i) i.k (new.map (·.2))

/-- RSUM: each add rounded by RNE; a NaN made in the tree is produced. -/
def VCtx.opRsum (x : VCtx) (i : VInst) : VCtx :=
  if i.typ = vF32 then
    x.reduce i (0, false) (fun a _ => (a, false))
      (fun (a, f) (b, g) =>
        let w := enc32 ((of32 a).add (of32 b))
        (w, f || g || (!(of32 a).isNaN && !(of32 b).isNaN && (of32 w).isNaN))) id
  else x.reduce i 0 (fun a _ => a) (fun a b => (a + b) % 2 ^ 32) fun a => (a, false)

/-- RMAX. -/
def VCtx.opRmax (x : VCtx) (i : VInst) : VCtx :=
  if i.typ = vF32 then x.reduce i (.inf true) (fun a _ => of32 a) Fp.max fun a => (enc32 a, false)
  else x.reduce i (-2147483648) (fun a _ => toSigned 32 a) max fun a => (ofSigned 32 a, false)

/-- RMIN. -/
def VCtx.opRmin (x : VCtx) (i : VInst) : VCtx :=
  if i.typ = vF32 then x.reduce i (.inf false) (fun a _ => of32 a) Fp.min fun a => (enc32 a, false)
  else x.reduce i 2147483647 (fun a _ => toSigned 32 a) min fun a => (ofSigned 32 a, false)

/-- The right value is greater, +0 above −0. -/
def Fp.above (b a : Fp) : Bool :=
  !a.isNaN && !b.isNaN && (decide (b.cmp a > 0) || (b.cmp a == 0 && a.isZero && a.sign && !b.sign))

/-- RARGMAX (R148). -/
def VCtx.opRargmax (x : VCtx) (i : VInst) : VCtx :=
  x.reduce i (Fp.inf true, 0) (fun a b => (of32 a, b))
    (fun l r => if r.1.above l.1 || (l.1.isNaN && !r.1.isNaN) then r else l) fun a => (a.2, false)

/-- RAND: at positions marked in both K0 and K (R149). -/
def VCtx.opRand (x : VCtx) (i : VInst) : VCtx :=
  let h := (halfOf i)
  let key := drawKey x.run.seed x.run.step i.imm
  let on := (x.marks 0 i.typ h).zip (x.words i.d)
  x.put i.typ h i.k i.d (on.zipIdx.map fun ((m, old), j) =>
    if m then
      let z := (draw key (x.indexIn 0 (j / 32) (posOf i.typ h (j % 32)))).toNat
      if i.md = 0 then z / 2 ^ 32 else if i.md = 1 then z % 2 ^ 32
      else enc32 (.fin false (z / 2 ^ 40) (-24))
    else old)

/-! ## What an instruction may say (R133 to R136) -/

/-- The instruction of a program word: opcode and fields, or none where a reserved bit is set (R134). -/
def parseVInst (w : Nat) : Option (Nat × VInst) :=
  let op := fld w 7 0
  if op = 0x09 ∨ op = 0x70 then
    if fld w 30 28 ≠ 0 then none
    else some (op, { typ := fld w 11 8, md := fld w 27 25, pm := fld w 24 21, k := fld w 20 18, a := 0, b := 0, c := 0,
                     d := fld w 17 12, fn := fld w 31 31 * 2 ^ 15, imm := fld w 63 32 })
  else if bitOf w 39 then none
  else some (op, { typ := fld w 11 8, md := fld w 47 44, pm := fld w 43 40, k := fld w 38 36, a := fld w 23 18,
                   b := fld w 29 24, c := fld w 35 30, d := fld w 17 12, fn := fld w 63 48, imm := 0 })

/-- What an opcode accepts: views, MOD codes, which of D, A, B, C it uses, the FN bits it uses. -/
structure VSpec where
  views : List Nat
  mods : Nat
  useD : Bool
  useA : Bool
  useB : Bool
  useC : Bool
  fn : Nat
deriving DecidableEq, Repr

/-- The opcodes of R136. -/
def vecSpecOf (op : Nat) : Option VSpec :=
  let fbih := [0, 1, 2, 3]
  let all := [0, 1, 2, 3, 4, 5, 6]
  match op with
  | 0x00 => some ⟨[0], 1, false, false, false, false, 0⟩
  | 0x01 => some ⟨all, 1, true, false, false, false, 0x17⟩
  | 0x02 => some ⟨[0, 1, 2], 1, false, true, false, false, 0x7⟩
  | 0x08 => some ⟨all, 1, true, true, false, false, 0⟩
  | 0x09 => some ⟨fbih, 1, true, false, false, false, 0⟩
  | 0x0A => some ⟨[1], 3, true, false, false, false, 0x10⟩
  | 0x10 | 0x11 | 0x12 | 0x14 | 0x15 => some ⟨fbih, 1, true, true, true, false, 0⟩
  | 0x13 => some ⟨[0, 2], 1, true, true, true, true, 0⟩
  | 0x16 | 0x17 => some ⟨fbih, 1, true, true, false, false, 0⟩
  | 0x18 => some ⟨[0], 1, true, true, true, false, 0⟩
  | 0x19 | 0x20 | 0x21 | 0x22 | 0x23 | 0x24 | 0x25 | 0x26 | 0x27 | 0x28 | 0x29 | 0x2A =>
    some ⟨[0], 1, true, true, false, false, 0⟩
  | 0x30 => some ⟨fbih, 7, true, true, true, false, 0⟩
  | 0x31 => some ⟨fbih, 1, true, true, true, false, 0x7⟩
  | 0x32 => some ⟨[0], 4, true, true, true, false, 0⟩
  | 0x38 | 0x39 | 0x3A => some ⟨all, 1, true, true, true, false, 0⟩
  | 0x3B | 0x3C | 0x3D => some ⟨[1, 3], 1, true, true, false, false, 0x1F⟩
  | 0x40 => some ⟨fbih, 2, true, true, true, false, 0x71F⟩
  | 0x48 => some ⟨[4, 5, 6], 1, true, true, false, false, 0⟩
  | 0x49 => some ⟨[1], 2, true, true, false, false, 0xF⟩
  | 0x50 => some ⟨[0, 1], 1, true, true, false, false, 0⟩
  | 0x51 => some ⟨[0, 1], 2, true, true, true, false, 0⟩
  | 0x52 => some ⟨[0, 1], 2, true, true, false, false, 0x1F⟩
  | 0x54 => some ⟨[0, 1], 2, true, true, false, false, 0⟩
  | 0x60 | 0x61 | 0x62 => some ⟨[0, 1], 2, true, true, false, false, 0⟩
  | 0x63 => some ⟨[0], 2, true, true, true, false, 0⟩
  | 0x70 => some ⟨[0, 1], 3, true, false, false, false, 0⟩
  | _ => none

/-- The opcode names a half by FN[15] or immediate bit [31] in this view (R128, R134). -/
def namesHalf (op : Nat) (i : VInst) : Bool :=
  isWide i.typ && !(op == 0x00 || op == 0x01 || op == 0x0A || op == 0x32 || op == 0x49) &&
    (op != 0x40 || cvtKind (fld i.fn 3 0) i.typ == some 0)

/-- A tile program's parameters (R127). -/
structure VParams where
  len : Nat
  body : Nat
  epi : Nat
  npass : Nat
  tw : Nat
  outs : Nat
deriving DecidableEq, Repr

def Desc.vecParams (d : Desc) : VParams :=
  ⟨fld (d.w32 0x48) 8 0, fld (d.w32 0x48) 24 16, fld (d.w32 0x4C) 8 0, fld (d.w32 0x4C) 11 9,
    if bitOf (d.w32 0x4C) 12 then 64 else 32, fld (d.w32 0x50) 7 0⟩

/-- Slot `n` is used, and as OUT or IN. -/
def slotIs (q : VParams) (slots : List (Option TensorDesc)) (n : Nat) (out : Bool) : Bool :=
  (slots.getD n none).isSome && bitOf q.outs n == out

/-- Check code 0x0C, naming a slot or none. -/
def badVec (c : Bool) (slot : Nat) : Chk Unit := need c 0x0C slot

/-- Formats a load accepts into a view (R141). -/
def loadOk (typ : Nat) (t : TensorDesc) : Bool :=
  match typ with
  | 0 => t.format == fFP32 || t.format == fBF16 || t.format == fFP32X || isBlk t.format
  | 1 => t.format == fI32 || t.format == fU8
  | 2 | 3 => t.format == fBF16
  | _ => match t.blk with | some b => b.bits == viewBits typ | none => false

/-- Formats a store accepts from a view (R142). -/
def storeOk (typ k : Nat) (t : TensorDesc) : Bool :=
  match typ with
  | 0 => t.format == fFP32 || t.format == fFP32X || t.format == fBF16 || t.format == fI32 ||
      (isBlk t.format && k == 7 && decide (t.blockDim ≤ 1))
  | 1 => t.format == fI32 || t.format == fU8
  | _ => t.format == fBF16

/-- One instruction obeys R133, its pass mask aside. CMP and KOP want the upper bits of fields that name a mask zero, and a CONST in
a 16-bit view takes any upper half of its immediate (DESIGN CHOICE, log entry 46). -/
def vecInstOk (q : VParams) (slots : List (Option TensorDesc)) (op : Nat) (i : VInst) : Chk Unit := do
  match vecSpecOf op with
  | none => bad 0x0C 0xFF
  | some v =>
    badVec (v.views.contains i.typ && decide (i.md < v.mods)) 0xFF
    badVec ((v.useD || i.d == 0) && (v.useA || i.a == 0) && (v.useB || i.b == 0) && (v.useC || i.c == 0)) 0xFF
    badVec (decide (i.fn &&& (v.fn ||| (if namesHalf op i then 0x8000 else 0)) = i.fn)) 0xFF
    badVec (!(op == 0 && i.k != 0)) 0xFF
    badVec (q.tw == 64 || fld i.fn 15 15 == 0) 0xFF
    let n := fld i.fn 2 0
    if op = 0x01 then
      badVec (fld i.fn 4 4 == 0 || (q.tw == 64 && isWide i.typ)) 0xFF
      badVec (slotIs q slots n false) n
      badVec (match slots.getD n none with | some t => loadOk i.typ t | none => false) n
    if op = 0x02 then
      badVec (slotIs q slots n true) n
      badVec (match slots.getD n none with | some t => storeOk i.typ i.k t | none => false) n
    if op = 0x0A then badVec (fld i.fn 4 4 == 0 || q.tw == 64) 0xFF
    if op = 0x30 ∨ op = 0x32 then badVec (decide (1 ≤ i.d ∧ i.d ≤ 6)) 0xFF
    if op = 0x32 then badVec (decide (i.a < 8 ∧ i.b < 8)) 0xFF
    if op = 0x40 then
      let src := fld i.fn 3 0
      badVec (cvtKind src i.typ).isSome 0xFF
      badVec (i.md == 0 || cvtQuant src i.typ) 0xFF
      badVec (cvtKind src i.typ == some 1 || i.b == 0) 0xFF
      badVec (fld i.fn 4 4 == 0 || (cvtKind src i.typ == some 2 && q.tw == 64)) 0xFF
      badVec (i.md == 1 || fld i.fn 10 8 == 0) 0xFF
      badVec (i.md != 1 || slotIs q slots (fld i.fn 10 8) true) (fld i.fn 10 8)
    if op = 0x48 then badVec (decide (i.a + packCount i.typ ≤ 64)) 0xFF
    if op = 0x49 then
      let src := fld i.fn 3 0
      badVec (decide (4 ≤ src ∧ src ≤ 6) && decide (i.d + packCount src ≤ 64)) 0xFF
    if op = 0x70 then badVec ((i.md == 2) == (i.typ == 0)) 0xFF

/-- The pass mask of instruction `j` of a program (R133). -/
def passOk (q : VParams) (j pm : Nat) : Bool :=
  if q.body ≤ j ∧ j < q.epi then pm != 0 && decide (pm < 2 ^ q.npass) else pm == 1

/-- The effect of one instruction. -/
def vecStep (op : Nat) (i : VInst) (x : VCtx) : VCtx :=
  match op with
  | 0x01 => x.opLd i
  | 0x02 => x.opSt i
  | 0x08 => x.opMov i
  | 0x09 => x.opConst i
  | 0x0A => x.opIota i
  | 0x10 => x.opAdd i
  | 0x11 => x.opSub i
  | 0x12 => x.opMul i
  | 0x13 => x.opFma i
  | 0x14 => x.opMax i
  | 0x15 => x.opMin i
  | 0x16 => x.opAbs i
  | 0x17 => x.opNeg i
  | 0x18 => x.opDiv i
  | 0x19 => x.opSqrt i
  | 0x20 => x.opRcp i
  | 0x21 => x.opRsqrt i
  | 0x22 => x.opFun i .exp
  | 0x23 => x.opFun i .exp2
  | 0x24 => x.opFun i .log
  | 0x25 => x.opFun i .log2
  | 0x26 => x.opFun i .sin
  | 0x27 => x.opFun i .cos
  | 0x28 => x.opFun i .tanh
  | 0x29 => x.opFun i .sigmoid
  | 0x2A => x.opFun i .erf
  | 0x30 => x.opCmp i
  | 0x31 => x.opSel i
  | 0x32 => x.opKop i
  | 0x38 => x.opAnd i
  | 0x39 => x.opOr i
  | 0x3A => x.opXor i
  | 0x3B => x.opShl i
  | 0x3C => x.opShr i
  | 0x3D => x.opSra i
  | 0x40 => x.opCvt i
  | 0x48 => x.opPack i
  | 0x49 => x.opUnpk i
  | 0x50 => x.opTrn i
  | 0x51 => x.opPerm i
  | 0x52 => x.opShuf i
  | 0x54 => x.opBcst i
  | 0x60 => x.opRsum i
  | 0x61 => x.opRmax i
  | 0x62 => x.opRmin i
  | 0x63 => x.opRargmax i
  | 0x70 => x.opRand i
  | _ => x.opNop

/-! ## VEC (R127 to R133, R168) -/

/-- Tensor pointers of the eight slots. -/
def Desc.slotPtrs (d : Desc) : List Nat := (List.range 8).map fun j => d.w32 (0x58 + 4 * j)

/-- Fetch checks of VEC (R168, R127, R133). -/
def vecSpec (d : Desc) : OpSpec :=
  let q := d.vecParams
  { mask := [bits44 0x40, bitsAt 0x48 0 9, bitsAt 0x48 16 9, bitsAt 0x4C 0 13, bitsAt 0x50 0 8] ++
      (List.range 8).map fun j => bits32 (0x58 + 4 * j)
    encOk := decide (1 ≤ q.npass ∧ q.npass ≤ 4) && ptrRule (d.w32 0x58) true &&
      (d.slotPtrs.zipIdx).all fun (p, j) => !(bitOf q.outs j && p == noTensor)
    tdps := d.slotPtrs, ranges := [(d.addr 0x40, 8 * max q.len 1, 64)], win := [], set := 1, units := [],
    assigned := true }

/-- The slots' tensors as read at admission. -/
def Desc.slotTds (d : Desc) : List (Option TensorDesc) := d.slotPtrs.map fun p => if p = noTensor then none else d.td p

/-- Two tensors share a byte of their planes. -/
def TensorDesc.touches (a b : TensorDesc) : Bool := a.planes.any fun x => b.planes.any fun y => overlap x.1 x.2 y.1 y.2

/-- The overlap rule of R143 for slots i < j. -/
def slotPairOk (q : VParams) (i j : Nat) (a b : TensorDesc) : Bool :=
  (!bitOf q.outs i && !bitOf q.outs j) || !a.touches b ||
  ((bitOf q.outs i != bitOf q.outs j) && a.word == b.word && a.size == b.size && a.format == b.format)

/-- Admission of VEC: the tensor descriptors and their formats (R46, R120, R141), then R133 with its slot conditions, ownership
and emptiness. The program is read here, once: admission and start are not told apart (DESIGN CHOICE, log entry 46). -/
def admitVec (s : State) (p : Nat) (d : Desc) : Chk Desc := do
  let q := d.vecParams
  let tds ← (d.slotPtrs.zipIdx).foldlM (init := ([] : List (Nat × TensorDesc))) fun l (ptr, j) =>
    if ptr = noTensor then .ok l
    else (s.readTd p ptr j (if bitOf q.outs j then .quant else .read)).map fun t => l ++ [(ptr, t)]
  badVec (decide (1 ≤ q.len ∧ q.len ≤ 256 ∧ q.body < q.epi ∧ q.epi ≤ q.len)) 0xFF
  s.needClean (d.addr 0x40) (8 * q.len)
  let prog := (List.range q.len).map fun j => s.rdN (d.addr 0x40 + 8 * j) 8
  let d' := { d with tds := tds, prog := prog }
  let slots := d'.slotTds
  let it := match slots.getD 0 none with | some t => t.size | none => []
  let rank := match slots.getD 0 none with | some t => t.rank | none => 1
  for (o, j) in slots.zipIdx do
    match o with
    | none => .ok ()
    | some t => do
      need (t.format != fW48) 0x08 j
      badVec (t.format != fXC16) j
      badVec (t.rank == rank && (List.range 4).all fun k =>
        t.sz k == it.getD k 1 || (t.sz k == 1 && (!bitOf q.outs j || k == 0))) j
  for (w, j) in prog.zipIdx do
    match parseVInst w with
    | none => bad 0x0C 0xFF
    | some (op, i) =>
      badVec (passOk q j i.pm) 0xFF
      vecInstOk q slots op i
  for (a?, i) in slots.zipIdx do
    for (b?, j) in slots.zipIdx do
      match a?, b? with
      | some a, some b => badVec (decide (j ≤ i) || slotPairOk q i j a b) j
      | _, _ => .ok ()
  s.needOwned (s.part p) (slots.flatMap fun o => match o with | some t => t.planes | none => [])
  if it.any (· == 0) then .error (stEmptyOutput, 0) else return { d' with units := rowGroups it }

/-- The context of row group `g` at tile `j`, registers and masks zero (R130). -/
def Desc.vecCtx (d : Desc) (run : Run) (g j : Nat) : VCtx :=
  let slots := d.slotTds
  let it := match slots.getD 0 none with | some t => t.size | none => [0, 0, 0, 0]
  let (r0, c2, c3) := groupAt it g
  ⟨run, [], [], slots, it, d.vecParams.tw, r0, c2, c3, j⟩

/-- Run instructions on one tile. -/
def VCtx.runTile (x : VCtx) (j : Nat) (l : List (Nat × VInst)) : VCtx :=
  foldS (fun (y : VCtx) (w : Nat × VInst) => vecStep w.1 w.2 y) { x with tile := j } l

/-- The program of one row group: prologue, passes of the body, epilogue (R129). -/
def Run.vecGroup (r : Run) (d : Desc) (g : Nat) : Run :=
  let q := d.vecParams
  let prog := d.prog.filterMap parseVInst
  let x := d.vecCtx r g 0
  let tiles := ceilDiv (x.it.getD 0 1) q.tw
  let body := sliceList prog q.body (q.epi - q.body)
  let x1 := x.runTile 0 (prog.take q.body)
  let x2 := foldS (fun (y : VCtx) p => foldS (fun (z : VCtx) j =>
    z.runTile j (body.filter fun w => bitOf w.2.pm p)) y (List.range tiles)) x1 (List.range q.npass)
  (x2.runTile (tiles - 1) (prog.drop q.epi)).run.endUnit

/-- VEC: the running slice's row groups. -/
def runVec (s : State) (d : Desc) (sl : Slice) (r : DRef) : State :=
  (foldS (fun (w : Run) g => w.vecGroup d g) (Run.start s r.part 1 4 sl.clusters d)
    ((List.range sl.count).map (sl.first + ·))).finish r

/-- VEC (R127). -/
def execVec (r : DRef) (s : State) : Host.Outcome State Fault Refusal :=
  .next (s.runSlice r 0x0200 fun t d sl => runVec t d sl r)

/-! ## One tile instruction (rows VEC_NOP to VEC_RAND) -/

/-- The state's engine of a command. -/
def State.vecEngine (s : State) (p : VecAt) : VecEngine := tget VecEngine.dflt s.vec (p.cluster * 4 + p.engine)

/-- The VEC descriptor whose running slice has the row group and the cluster of a command, and the context of the
engine there; the registers of another row group read as zero (R130). -/
def State.vecCtx (s : State) (p : VecAt) : Option (Desc × VCtx) :=
  match s.desc p.ref with
  | none => none
  | some d => match d.slice with
    | none => none
    | some sl =>
      if d.opcode = 0x0200 ∧ !sl.ran ∧ !s.halted ∧ sl.clusters.contains p.cluster ∧ p.engine < 4 ∧ sl.first ≤ p.group ∧
          p.group < sl.first + sl.count then
        let x := d.vecCtx { Run.start s p.ref.part 1 1 [p.cluster] d with base := p.engine } p.group p.tile
        if p.tile * x.tw < x.it.getD 0 0 then
          let e := s.vecEngine p
          if e.at' = some (p.ref, p.group) then some (d, { x with regs := e.regs, masks := e.masks }) else some (d, x)
        else none
      else none

/-- A program of the descriptor may hold the instruction. -/
def Desc.vecAccepts (d : Desc) (op : Nat) (i : VInst) : Bool :=
  match vecInstOk d.vecParams d.slotTds op i with
  | .ok _ => true
  | .error _ => false

/-- Run one instruction on an engine: its stores, which waits may see, its NaNs, registers and masks. -/
def State.vecRow (s : State) (p : VecAt) (op : Nat) (i : VInst) (f : VCtx → VCtx) : State :=
  match s.vecCtx p with
  | none => s
  | some (d, x) =>
    if d.vecAccepts op i then
      let y := f x
      let t := ({ y.run with nan := y.run.nan }).finish p.ref
      let u := t.touchClusters [p.cluster]
      ({ u with vec := tset VecEngine.dflt u.vec (p.cluster * 4 + p.engine) ⟨y.regs, y.masks, some (p.ref, p.group)⟩ }).testWaits
        p.ref.part
    else s

/-- VEC_NOP (R136). -/
def execVecNop (p : VecAt) (i : VInst) (s : State) : Host.Outcome State Fault Refusal :=
  .next (s.vecRow p 0x00 i fun x => x.opNop)

/-- VEC_LD (R136). -/
def execVecLd (p : VecAt) (i : VInst) (s : State) : Host.Outcome State Fault Refusal :=
  .next (s.vecRow p 0x01 i fun x => x.opLd i)

/-- VEC_ST (R136). -/
def execVecSt (p : VecAt) (i : VInst) (s : State) : Host.Outcome State Fault Refusal :=
  .next (s.vecRow p 0x02 i fun x => x.opSt i)

/-- VEC_MOV (R136). -/
def execVecMov (p : VecAt) (i : VInst) (s : State) : Host.Outcome State Fault Refusal :=
  .next (s.vecRow p 0x08 i fun x => x.opMov i)

/-- VEC_CONST (R136). -/
def execVecConst (p : VecAt) (i : VInst) (s : State) : Host.Outcome State Fault Refusal :=
  .next (s.vecRow p 0x09 i fun x => x.opConst i)

/-- VEC_IOTA (R136). -/
def execVecIota (p : VecAt) (i : VInst) (s : State) : Host.Outcome State Fault Refusal :=
  .next (s.vecRow p 0x0A i fun x => x.opIota i)

/-- VEC_ADD (R136). -/
def execVecAdd (p : VecAt) (i : VInst) (s : State) : Host.Outcome State Fault Refusal :=
  .next (s.vecRow p 0x10 i fun x => x.opAdd i)

/-- VEC_SUB (R136). -/
def execVecSub (p : VecAt) (i : VInst) (s : State) : Host.Outcome State Fault Refusal :=
  .next (s.vecRow p 0x11 i fun x => x.opSub i)

/-- VEC_MUL (R136). -/
def execVecMul (p : VecAt) (i : VInst) (s : State) : Host.Outcome State Fault Refusal :=
  .next (s.vecRow p 0x12 i fun x => x.opMul i)

/-- VEC_FMA (R136). -/
def execVecFma (p : VecAt) (i : VInst) (s : State) : Host.Outcome State Fault Refusal :=
  .next (s.vecRow p 0x13 i fun x => x.opFma i)

/-- VEC_MAX (R136). -/
def execVecMax (p : VecAt) (i : VInst) (s : State) : Host.Outcome State Fault Refusal :=
  .next (s.vecRow p 0x14 i fun x => x.opMax i)

/-- VEC_MIN (R136). -/
def execVecMin (p : VecAt) (i : VInst) (s : State) : Host.Outcome State Fault Refusal :=
  .next (s.vecRow p 0x15 i fun x => x.opMin i)

/-- VEC_ABS (R136). -/
def execVecAbs (p : VecAt) (i : VInst) (s : State) : Host.Outcome State Fault Refusal :=
  .next (s.vecRow p 0x16 i fun x => x.opAbs i)

/-- VEC_NEG (R136). -/
def execVecNeg (p : VecAt) (i : VInst) (s : State) : Host.Outcome State Fault Refusal :=
  .next (s.vecRow p 0x17 i fun x => x.opNeg i)

/-- VEC_DIV (R136). -/
def execVecDiv (p : VecAt) (i : VInst) (s : State) : Host.Outcome State Fault Refusal :=
  .next (s.vecRow p 0x18 i fun x => x.opDiv i)

/-- VEC_SQRT (R136). -/
def execVecSqrt (p : VecAt) (i : VInst) (s : State) : Host.Outcome State Fault Refusal :=
  .next (s.vecRow p 0x19 i fun x => x.opSqrt i)

/-- VEC_RCP (R136). -/
def execVecRcp (p : VecAt) (i : VInst) (s : State) : Host.Outcome State Fault Refusal :=
  .next (s.vecRow p 0x20 i fun x => x.opRcp i)

/-- VEC_RSQRT (R136). -/
def execVecRsqrt (p : VecAt) (i : VInst) (s : State) : Host.Outcome State Fault Refusal :=
  .next (s.vecRow p 0x21 i fun x => x.opRsqrt i)

/-- VEC_EXP (R136). -/
def execVecExp (p : VecAt) (i : VInst) (s : State) : Host.Outcome State Fault Refusal :=
  .next (s.vecRow p 0x22 i fun x => x.opFun i .exp)

/-- VEC_EXP2 (R136). -/
def execVecExp2 (p : VecAt) (i : VInst) (s : State) : Host.Outcome State Fault Refusal :=
  .next (s.vecRow p 0x23 i fun x => x.opFun i .exp2)

/-- VEC_LOG (R136). -/
def execVecLog (p : VecAt) (i : VInst) (s : State) : Host.Outcome State Fault Refusal :=
  .next (s.vecRow p 0x24 i fun x => x.opFun i .log)

/-- VEC_LOG2 (R136). -/
def execVecLog2 (p : VecAt) (i : VInst) (s : State) : Host.Outcome State Fault Refusal :=
  .next (s.vecRow p 0x25 i fun x => x.opFun i .log2)

/-- VEC_SIN (R136). -/
def execVecSin (p : VecAt) (i : VInst) (s : State) : Host.Outcome State Fault Refusal :=
  .next (s.vecRow p 0x26 i fun x => x.opFun i .sin)

/-- VEC_COS (R136). -/
def execVecCos (p : VecAt) (i : VInst) (s : State) : Host.Outcome State Fault Refusal :=
  .next (s.vecRow p 0x27 i fun x => x.opFun i .cos)

/-- VEC_TANH (R136). -/
def execVecTanh (p : VecAt) (i : VInst) (s : State) : Host.Outcome State Fault Refusal :=
  .next (s.vecRow p 0x28 i fun x => x.opFun i .tanh)

/-- VEC_SIGMOID (R136). -/
def execVecSigmoid (p : VecAt) (i : VInst) (s : State) : Host.Outcome State Fault Refusal :=
  .next (s.vecRow p 0x29 i fun x => x.opFun i .sigmoid)

/-- VEC_ERF (R136). -/
def execVecErf (p : VecAt) (i : VInst) (s : State) : Host.Outcome State Fault Refusal :=
  .next (s.vecRow p 0x2A i fun x => x.opFun i .erf)

/-- VEC_CMP (R136). -/
def execVecCmp (p : VecAt) (i : VInst) (s : State) : Host.Outcome State Fault Refusal :=
  .next (s.vecRow p 0x30 i fun x => x.opCmp i)

/-- VEC_SEL (R136). -/
def execVecSel (p : VecAt) (i : VInst) (s : State) : Host.Outcome State Fault Refusal :=
  .next (s.vecRow p 0x31 i fun x => x.opSel i)

/-- VEC_KOP (R136). -/
def execVecKop (p : VecAt) (i : VInst) (s : State) : Host.Outcome State Fault Refusal :=
  .next (s.vecRow p 0x32 i fun x => x.opKop i)

/-- VEC_AND (R136). -/
def execVecAnd (p : VecAt) (i : VInst) (s : State) : Host.Outcome State Fault Refusal :=
  .next (s.vecRow p 0x38 i fun x => x.opAnd i)

/-- VEC_OR (R136). -/
def execVecOr (p : VecAt) (i : VInst) (s : State) : Host.Outcome State Fault Refusal :=
  .next (s.vecRow p 0x39 i fun x => x.opOr i)

/-- VEC_XOR (R136). -/
def execVecXor (p : VecAt) (i : VInst) (s : State) : Host.Outcome State Fault Refusal :=
  .next (s.vecRow p 0x3A i fun x => x.opXor i)

/-- VEC_SHL (R136). -/
def execVecShl (p : VecAt) (i : VInst) (s : State) : Host.Outcome State Fault Refusal :=
  .next (s.vecRow p 0x3B i fun x => x.opShl i)

/-- VEC_SHR (R136). -/
def execVecShr (p : VecAt) (i : VInst) (s : State) : Host.Outcome State Fault Refusal :=
  .next (s.vecRow p 0x3C i fun x => x.opShr i)

/-- VEC_SRA (R136). -/
def execVecSra (p : VecAt) (i : VInst) (s : State) : Host.Outcome State Fault Refusal :=
  .next (s.vecRow p 0x3D i fun x => x.opSra i)

/-- VEC_CVT (R136). -/
def execVecCvt (p : VecAt) (i : VInst) (s : State) : Host.Outcome State Fault Refusal :=
  .next (s.vecRow p 0x40 i fun x => x.opCvt i)

/-- VEC_PACK (R136). -/
def execVecPack (p : VecAt) (i : VInst) (s : State) : Host.Outcome State Fault Refusal :=
  .next (s.vecRow p 0x48 i fun x => x.opPack i)

/-- VEC_UNPK (R136). -/
def execVecUnpk (p : VecAt) (i : VInst) (s : State) : Host.Outcome State Fault Refusal :=
  .next (s.vecRow p 0x49 i fun x => x.opUnpk i)

/-- VEC_TRN (R136). -/
def execVecTrn (p : VecAt) (i : VInst) (s : State) : Host.Outcome State Fault Refusal :=
  .next (s.vecRow p 0x50 i fun x => x.opTrn i)

/-- VEC_PERM (R136). -/
def execVecPerm (p : VecAt) (i : VInst) (s : State) : Host.Outcome State Fault Refusal :=
  .next (s.vecRow p 0x51 i fun x => x.opPerm i)

/-- VEC_SHUF (R136). -/
def execVecShuf (p : VecAt) (i : VInst) (s : State) : Host.Outcome State Fault Refusal :=
  .next (s.vecRow p 0x52 i fun x => x.opShuf i)

/-- VEC_BCST (R136). -/
def execVecBcst (p : VecAt) (i : VInst) (s : State) : Host.Outcome State Fault Refusal :=
  .next (s.vecRow p 0x54 i fun x => x.opBcst i)

/-- VEC_RSUM (R136). -/
def execVecRsum (p : VecAt) (i : VInst) (s : State) : Host.Outcome State Fault Refusal :=
  .next (s.vecRow p 0x60 i fun x => x.opRsum i)

/-- VEC_RMAX (R136). -/
def execVecRmax (p : VecAt) (i : VInst) (s : State) : Host.Outcome State Fault Refusal :=
  .next (s.vecRow p 0x61 i fun x => x.opRmax i)

/-- VEC_RMIN (R136). -/
def execVecRmin (p : VecAt) (i : VInst) (s : State) : Host.Outcome State Fault Refusal :=
  .next (s.vecRow p 0x62 i fun x => x.opRmin i)

/-- VEC_RARGMAX (R136). -/
def execVecRargmax (p : VecAt) (i : VInst) (s : State) : Host.Outcome State Fault Refusal :=
  .next (s.vecRow p 0x63 i fun x => x.opRargmax i)

/-- VEC_RAND (R136). -/
def execVecRand (p : VecAt) (i : VInst) (s : State) : Host.Outcome State Fault Refusal :=
  .next (s.vecRow p 0x70 i fun x => x.opRand i)

end Sys2Proof.Machine
end

