-- ==== Sys2Proof/Machine/Fft.lean ====
section
/-!
DEFINITION. The Fourier transforms of the frequency-domain convolution path (R337): radix-2 decimation in frequency on complex
FP32 values, every operation rounded by RNE, twiddles the FP32 values nearest cos and sin.

The rule leaves open the order of the two dimensions, the sign of the forward exponent and where the transform back is scaled:
rows before columns, e^(−2πi·jk/n) forward, one exact factor at the end (DESIGN CHOICE, log entry 10).
-/

namespace Sys2Proof.Machine

/-- A complex value: its real and its imaginary part. -/
abbrev Cx := Fp × Fp

/-- A value rounded to FP32. -/
def Fp.to32 (x : Fp) : Fp := of32 (enc32 x)

def Cx.plus (a b : Cx) : Cx := ((a.1.add b.1).to32, (a.2.add b.2).to32)
def Cx.minus (a b : Cx) : Cx := ((a.1.sub b.1).to32, (a.2.sub b.2).to32)
def Cx.conj (a : Cx) : Cx := (a.1, a.2.neg)

/-- Four products and two sums, each rounded. -/
def Cx.times (a b : Cx) : Cx :=
  (((a.1.mul b.1).to32.sub (a.2.mul b.2).to32).to32, ((a.1.mul b.2).to32.add (a.2.mul b.1).to32).to32)

/-- A part is NaN. -/
def Cx.isNaN (a : Cx) : Bool := a.1.isNaN || a.2.isNaN

/-- The twiddle e^(−2πi·k/n), or its conjugate, k below n / 2: each part the FP32 value nearest. -/
def twiddle (inverse : Bool) (n k : Nat) : Cx :=
  let w : Cx :=
    if k = 0 then (Fp.ofNat 1, .zero)
    else if 4 * k = n then (.zero, Fp.ofInt (-1))
    else
      let x : Int := 2 * piFix 128 * k / n
      ((Fp.ofSigned false (cosFix 128 x) (-128)).to32, (Fp.ofSigned false (-(sinFix 128 x)) (-128)).to32)
  if inverse then w.conj else w

/-- Two lists of one length, taken in turn. -/
def interleave : List Cx → List Cx → List Cx
  | a :: s, b :: t => a :: b :: interleave s t
  | _, _ => []

/-- The transform of 2^n values: sums and twiddled differences of the two halves, each transformed; bins in rising order. -/
def difFft (inverse : Bool) : Nat → List Cx → List Cx
  | 0, l => l
  | n + 1, l =>
    let h := 2 ^ n
    let (a, b) := (l.take h, l.drop h)
    let odd := ((List.zipWith Cx.minus a b).zipIdx).map fun (z, k) => z.times (twiddle inverse (2 * h) k)
    interleave (difFft inverse n (List.zipWith Cx.plus a b)) (difFft inverse n odd)

/-- The columns of rows of length `w`. -/
def columnsOf (w : Nat) (rows : List (List Cx)) : List (List Cx) :=
  (List.range w).map fun j => rows.map fun r => r.getD j (.zero, .zero)

/-- The transform of a plane of 2^lh rows of 2^lw values: rows, then columns. -/
def planeFft (inverse : Bool) (lw lh : Nat) (z : List Cx) : List Cx :=
  let rows := (pieces (2 ^ lw) (2 ^ lh) z).map (difFft inverse lw)
  (columnsOf (2 ^ lh) ((columnsOf (2 ^ lw) rows).map (difFft inverse lh))).flatten

/-- The transform back, scaled by the number of values. -/
def planeBack (lw lh : Nat) (z : List Cx) : List Cx :=
  (planeFft true lw lh z).map fun v => ((v.1.scale (-((lw + lh : Nat) : Int))).to32, (v.2.scale (-((lw + lh : Nat) : Int))).to32)

end Sys2Proof.Machine
end

