-- ==== Sys2Proof/Machine/Matrix.lean ====
section
/-!
DEFINITION. Matrix cores: products, accumulators, MATMUL, full-width save and restore (R85 to R110).
-/

namespace Sys2Proof.Machine

/-! ## Accumulator tiles (R96, R103) -/

/-- The 1,024 words of a tile. -/
def State.accTile (s : State) (cluster core slot : Nat) : List Nat :=
  match tlook s.acc (accKey cluster core slot) with
  | some l => l
  | none =>
    let g := tget 0 s.accGen (cluster * 32 + slot)
    if g = 0 then List.replicate 1024 0
    else (List.range 1024).map fun j => Config.accWord g (accKey cluster core slot) j % 2 ^ 48

def State.setAccTile (s : State) (cluster core slot : Nat) (l : List Nat) : State :=
  { s with acc := tput s.acc (accKey cluster core slot) l }

/-! ## Operand groups and the reduction (R88 to R91, R104, R105) -/

/-- One group of 32 reduction positions of one operand line: a block's effective codes, its scale code and whether it
reads as NaN, or the values of a BF16 or XC16 operand with their reserved marks. -/
inductive MGroup where
  | blk (codes : List Int) (e : Nat) (nan : Bool)
  | vals (l : List (Fp × Bool))
deriving DecidableEq, Repr

/-- The group of the elements with the given indices; of a block format they are one block. -/
def TensorDesc.group (t : TensorDesc) (s : State) (idx : List Nat) : MGroup :=
  match t.blk with
  | some k =>
    let (b, _) := t.blockOf (idx.headD 0)
    .blk ((List.range idx.length).map fun i => t.effCode k s b i) (t.scaleAt s b) (t.blockNaN k s b idx.length)
  | none => .vals (idx.map fun i => t.val s i)

/-- The outer factor F (R89). -/
def outerFactor (a b : TensorDesc) : Fp :=
  let has (t : TensorDesc) : Bool := match t.blk with | some k => k.outer | none => false
  if has a && has b then
    match a.outerVal.mul b.outerVal with
    | .fin s m e =>
      let d := Nat.log2 m - 23
      .fin s (roundRat none m (2 ^ d)) (e + d)
    | x => x
  else if has a then a.outerVal
  else if has b then b.outerVal
  else .fin false 1 0

/-- The block partial sum P (R88). -/
def partialSum (a b : List Int) : Int := (a.zip b).foldl (fun x (u, v) => x + u * v) 0

/-- A finite addend of magnitude 2^512 or more is an infinity (R90). -/
def clampAddend : Fp → Fp
  | .fin s m e => if m ≠ 0 ∧ topOf m e ≥ 512 then .inf s else .fin s m e
  | x => x

/-- An accumulator and the CAUSE of the first NaN produced in it (R75, R80). -/
abbrev Acc := Fp × Option Nat

/-- Note a produced NaN. -/
def Acc.cause (a : Acc) (made : Bool) (c : Nat) : Option Nat := match a.2 with
  | some x => some x
  | none => if made then some c else none

/-- Add one exact addend. -/
def Acc.add (a : Acc) (x : Fp) : Acc := (add48 a.1 x, a.cause (add48Produced a.1 x) 0)

/-- Add one product of a BF16 pair (R91). A NaN that a product makes is produced whatever the accumulator holds (R75). -/
def Acc.addProduct (a : Acc) (u v : Fp × Bool) : Acc :=
  if u.2 || v.2 then (.nan, a.cause true 2)
  else
    let p := u.1.mul v.1
    if p.isNaN then (.nan, a.cause (!u.1.isNaN && !v.1.isNaN) 0)
    else if p.isZero then a
    else a.add p

/-- Add one group (R90, R91, R105). -/
def Acc.addGroup (f : Fp) (a : Acc) : MGroup → MGroup → Acc
  | .blk ca ea na, .blk cb eb nb =>
    if na || nb then (.nan, a.cause true 2)
    else
      let p := partialSum ca cb
      if p = 0 then a else a.add (clampAddend (((Fp.ofInt p).mul f).scale ((ea : Int) + eb - 254)))
  | .vals la, .vals lb => (la.zip lb).foldl (fun x (u, v) => x.addProduct u v) a
  | .blk _ _ _, .vals _ | .vals _, .blk _ _ _ => a

/-- Groups of part `j` of `s` (R104): floor(j·nb/s) up to floor((j+1)·nb/s). -/
def partRange (nb s j : Nat) : Nat × Nat := (j * nb / s, (j + 1) * nb / s)

/-- One part of a reduction (R105). -/
def reducePart (f : Fp) (init : Fp) (a b : List MGroup) (s j : Nat) : Acc :=
  let (lo, hi) := partRange a.length s j
  ((sliceList a lo (hi - lo)).zip (sliceList b lo (hi - lo))).foldl (fun x (u, v) => x.addGroup f u v)
    (if j = 0 then init else .zero, none)

/-- One level of the combination tree: neighbours added (R105). -/
def combineLevel : List Acc → List Acc
  | a :: b :: t => (add48 a.1 b.1, match a.2, b.2 with
      | some x, _ => some x
      | none, some y => some y
      | none, none => if add48Produced a.1 b.1 then some 0 else none) :: combineLevel t
  | l => l

/-- Combine the parts; `n` levels. -/
def combineParts : Nat → List Acc → Acc
  | 0, l => l.headD (.zero, none)
  | n + 1, l => combineParts n (combineLevel l)

/-- The whole reduction of one output element (R105), s = 2^ls. -/
def reduceAll (f : Fp) (init : Fp) (a b : List MGroup) (ls : Nat) : Acc :=
  combineParts ls ((List.range (2 ^ ls)).map fun j => reducePart f init a b (2 ^ ls) j)

/-! ## MATMUL (R166, R167) -/

/-- Fetch checks of MATMUL (R166). -/
def matmulSpec (d : Desc) : OpSpec :=
  let h := d.w32 0x50
  let init := fld h 6 5
  let out := fld h 8 7
  { mask := [bits32 0x40, bits32 0x44, bits32 0x48, bits32 0x4C, bitsAt 0x50 0 14]
    encOk := init ≠ 3 && out ≠ 3 && fld h 11 9 ≤ 4 && ptrRule (d.w32 0x40) true && ptrRule (d.w32 0x44) true &&
      ptrRule (d.w32 0x48) (init == 1) && ptrRule (d.w32 0x4C) (out != 1)
    tdps := [d.w32 0x40, d.w32 0x44, d.w32 0x48, d.w32 0x4C], ranges := [], win := [], set := 1, units := [],
    assigned := true }

/-- An operand format of a BF16 pair. -/
def isBfLike (f : Nat) : Bool := f == fBF16 || f == fXC16

/-- The operand pairs of R85. -/
def pairOk (a b : Nat) : Bool := (isBfLike a && isBfLike b) || (isBlk a && isBlk b)

/-- A matrix initial or output tensor: FP32 or BF16 without quantiser fields (R97, R167). -/
def plainMatrix (t : TensorDesc) : Bool :=
  (t.format == fFP32 || t.format == fBF16) && !t.rmode && !t.smode && !t.sentryEn && t.sentryId == 0

/-- The K dimension of a block-format or XC16 operand is its block dimension (R85, R121). -/
def kBlocked (t : TensorDesc) (k : Nat) : Bool := (!isBlk t.format && t.format != fXC16) || t.blockDim == k

/-- The admission checks of MATMUL and what it reads at admission (R85, R97, R98, R101, R167, R174). -/
def admitMatmul (s : State) (p : Nat) (d : Desc) : Chk Desc := do
  let h := d.w32 0x50
  let ka := fld h 12 12
  let kb := fld h 13 13
  let init := fld h 6 5
  let out := fld h 8 7
  let a ← s.readTd p (d.w32 0x40) 0 .read
  let b ← s.readTd p (d.w32 0x44) 1 .read
  let c? ← if init = 1 then (s.readTd p (d.w32 0x48) 2 .addend).map some else .ok none
  let o? ← if out = 1 then .ok none else (s.readTd p (d.w32 0x4C) 3 .result).map some
  need (pairOk a.format b.format) 0x08 0xFF
  need (kBlocked a ka) 0x08 0
  need (kBlocked b kb) 0x08 1
  let (m, n, k) := (a.sz (otherDim ka), b.sz (otherDim kb), a.sz ka)
  need (b.sz kb == k) 0x08 1
  let batch (i : Nat) : Nat := match o? with | some o => o.sz i | none => 1
  let batchOk (t : TensorDesc) : Bool := [2, 3].all fun i => t.sz i == batch i || t.sz i == 1
  need (batchOk a) 0x08 0
  need (batchOk b) 0x08 1
  match c? with
  | some c => need (plainMatrix c && c.sz 0 == n && c.sz 1 == m && batchOk c) 0x08 2
  | none => .ok ()
  match o? with
  | some o => need (plainMatrix o && o.sz 0 == n && o.sz 1 == m) 0x08 3
  | none => .ok ()
  need ((batch 2 ≤ 1 && batch 3 ≤ 1) || (init ≠ 2 && out = 0)) 0x08 0xFF
  let tds := [(d.w32 0x40, a), (d.w32 0x44, b)] ++ (c?.map fun c => (d.w32 0x48, c)).toList ++
    (o?.map fun o => (d.w32 0x4C, o)).toList
  let ls := fld h 11 9
  let q := ceilDiv m 32 * ceilDiv n 32
  let d' := { d with tds := tds, units := q * 2 ^ ls * batch 2 * batch 3 }
  need (!d'.fixedPlace || ceilDiv q d.clusters.length * 2 ^ ls ≤ coresPerCluster) 0x0A 0xFF
  s.needOwned (s.part p) (tds.flatMap fun e => e.2.planes)
  if d'.units = 0 then .error (stEmptyOutput, 0) else return d'

/-- A RESIDENT descriptor needs records of one keeper that match its own shape on every cluster (R100). -/
def State.residentOk (s : State) (d : Desc) : Bool :=
  let k := d.w8 0x50 % 32
  let recs := d.clusters.map fun c => tlook s.res (c * 32 + k)
  match recs with
  | some r :: _ =>
    recs.all fun x => match x with
      | some y => y.tag == r.tag && y.tiles == d.matTiles && y.split == fld (d.w32 0x50) 11 9 &&
          y.nc == d.clusters.length && y.nk == coresPerCluster
      | none => false
  | _ => false

/-- The checks a matrix operation makes at start (R100, R174): a status and DETAIL, or none. -/
def State.startCheck (s : State) (d : Desc) : Option (Nat × Nat) :=
  if d.opcode = 0x0100 ∧ fld (d.w32 0x50) 6 5 = 2 ∧ !s.residentOk d then some (stBadDescriptor, badCode 0x0A) else none

/-- Coordinates of an operand: `k` and `x` in dimensions 0 and 1, the batch item broadcast. -/
def TensorDesc.matIndex (t : TensorDesc) (kdim k x b2 b3 : Nat) : Nat :=
  let c := if kdim = 0 then [k, x] else [x, k]
  t.index (c ++ [if t.sz 2 = 1 then 0 else b2, if t.sz 3 = 1 then 0 else b3])

/-- The groups of one operand line (R104). -/
def TensorDesc.matLine (t : TensorDesc) (s : State) (kdim x b2 b3 : Nat) : List MGroup :=
  let k := t.sz kdim
  (List.range (ceilDiv k 32)).map fun g =>
    t.group s ((List.range (min 32 (k - 32 * g))).map fun i => t.matIndex kdim (32 * g + i) x b2 b3)

/-- The element indices of one operand line within part `j`. -/
def TensorDesc.matLineElems (t : TensorDesc) (kdim x b2 b3 s j : Nat) : List Nat :=
  let k := t.sz kdim
  let (lo, hi) := partRange (ceilDiv k 32) s j
  (List.range (min (32 * hi) k - 32 * lo)).map fun i => t.matIndex kdim (32 * lo + i) x b2 b3

/-- Write an output element of a matrix operation by one RNE rounding (R69, R97). -/
def Run.writeMatrix (r : Run) (o : TensorDesc) (i : Nat) (x : Fp) : Run :=
  if o.format = fBF16 then r.wrN (o.elemAddr i) 2 (encBf none x) else r.wrN (o.elemAddr i) 4 (enc32 x)

/-- What one part of a tile reads: lines of A and B, and elements of C. -/
def Run.matReads (r : Run) (a b : TensorDesc) (c? : Option TensorDesc) (la lb lc : List Nat) : Run :=
  let r1 := (r.readsElems a la).readsElems b lb
  match c? with
  | some c => r1.readsElems c lc
  | none => r1

/-- Note the NaNs of a unit. -/
def Run.note (r : Run) (l : List NanEvt) : Run := { r with nans := r.nans ++ l }

/-- Store the finished elements (x, y) of a batch item, where the operation has an output. -/
def Run.matStore (r : Run) (o? : Option TensorDesc) (b2 b3 : Nat) (res : List (Nat × Nat × Acc)) : Run :=
  match o? with
  | some o => foldS (fun w v => w.writeMatrix o (o.index [v.2.1, v.1, b2, b3]) v.2.2.1) r res
  | none => r

/-- Keep a finished tile in its slot; an element past the edge of the output is free (log entry 6). -/
def Run.matKeep (r : Run) (cluster core slot : Nat) (res : List (Nat × Nat × Acc)) : Run :=
  let n := r.s.fresh + 1
  let tile := (List.range 1024).map fun e => match res.find? fun v => v.1 % 32 == e / 32 && v.2.1 % 32 == e % 32 with
    | some v => enc48 v.2.2.1
    | none => Config.accWord n (accKey cluster core slot) e % 2 ^ 48
  { r with s := { r.s.setAccTile cluster core slot tile with fresh := n } }

/-- One unit of a MATMUL: part `j` of an output tile; with the last part the tile's elements are finished. -/
def Run.matUnit (r : Run) (d : Desc) (a b : TensorDesc) (u : Nat) : Run :=
  let h := d.w32 0x50
  let (ka, kb, ls) := (fld h 12 12, fld h 13 13, fld h 11 9)
  let s := 2 ^ ls
  let (m, n, _) := d.matShape
  let tiles := d.matTiles
  let j := u % s
  let q := u / s % tiles
  let item := u / s / tiles
  let o? := d.td (d.w32 0x4C)
  let nb2 := match o? with | some o => max 1 (o.sz 2) | none => 1
  let (b2, b3) := (item % nb2, item / nb2)
  let tn := ceilDiv n 32
  let (tr, tc) := (q / tn, q % tn)
  let rows := (List.range 32).filterMap fun i => if 32 * tr + i < m then some (32 * tr + i) else none
  let cols := (List.range 32).filterMap fun i => if 32 * tc + i < n then some (32 * tc + i) else none
  let f := outerFactor a b
  let st := r.s
  let la := rows.map fun x => a.matLine st ka x b2 b3
  let lb := cols.map fun x => b.matLine st kb x b2 b3
  let c? := d.td (d.w32 0x48)
  let init := fld h 6 5
  let (hc, hk) := d.tileHome q
  let slot := fld h 4 0
  let old := if init = 2 then st.accTile hc hk slot else []
  let start (x y : Nat) : Fp :=
    if init = 1 then match c? with
      | some c => (c.val st (c.matIndex 0 y x b2 b3)).1
      | none => .zero
    else if init = 2 then of48 (old.getD (x % 32 * 32 + y % 32) 0)
    else .zero
  let outIndex (x y : Nat) : Nat := match o? with
    | some o => o.index [y, x, b2, b3]
    | none => indexOf [n, m, 1, 1] [y, x, b2, b3]
  let (oid, osz) := match o? with | some o => (o.id, o.size) | none => (0, [n, m, 1, 1])
  -- a tile with a home is reduced on its cluster by the cores from its home core on (R101)
  let evt (x y cause first n : Nat) : NanEvt :=
    let e := r.evt cause oid osz (outIndex x y)
    if d.fixedPlace then { e with clusters := [hc], base := hk + first, engines := n } else e
  let c1 := if j = 0 ∧ init = 1 then c? else none
  let r1 := r.matReads a b c1 (rows.flatMap fun x => a.matLineElems ka x b2 b3 s j)
    (cols.flatMap fun y => b.matLineElems kb y b2 b3 s j)
    ((c1.map fun c => rows.flatMap fun x => cols.map fun y => c.matIndex 0 y x b2 b3).getD [])
  let cells := (rows.zip la).flatMap fun (x, gx) => (cols.zip lb).map fun (y, gy) => (x, y, gx, gy)
  let part := cells.filterMap fun (x, y, gx, gy) => (reducePart f (start x y) gx gy s j).2.map fun c => evt x y c j 1
  let r2 := r1.note part
  if j + 1 < s then r2
  else
    let res := cells.map fun (x, y, gx, gy) => (x, y, reduceAll f (start x y) gx gy ls)
    let madeInParts (x y : Nat) (gx gy : List MGroup) : Bool :=
      (List.range s).any fun i => (reducePart f (start x y) gx gy s i).2.isSome
    let tree := cells.filterMap fun (x, y, gx, gy) =>
      if madeInParts x y gx gy then none else (reduceAll f (start x y) gx gy ls).2.map fun c => evt x y c 0 s
    let r3 := (r2.note tree).matStore o? b2 b3 res
    if d.keeps then r3.matKeep hc hk slot res else r3

/-- MATMUL: the running slice's units. -/
def runMatmul (s : State) (d : Desc) (sl : Slice) (r : DRef) : State :=
  match d.td (d.w32 0x40), d.td (d.w32 0x44) with
  | some a, some b =>
    let run := Run.start s r.part 0 coresPerCluster sl.clusters d
    (foldS (fun w u => w.matUnit d a b u) run ((List.range sl.count).map (sl.first + ·))).finish r
  | _, _ => s

/-- MATMUL (R105, R166). -/
def execMatmul (r : DRef) (s : State) : Host.Outcome State Fault Refusal :=
  .next (s.runSlice r 0x0100 fun t d sl => runMatmul t d sl r)

/-! ## ACC_SAVE and ACC_RESTORE (R107 to R109, R172) -/

/-- Fetch checks of ACC_SAVE and ACC_RESTORE (R172). -/
def accSpec (d : Desc) : OpSpec :=
  { OpSpec.plain [bits32 0x40, bits32 0x44] 1 with
    encOk := ptrRule (d.w32 0x40) true && d.w32 0x44 ≠ 0, tdps := [d.w32 0x40] }

/-- Bytes of the header of a save (R108). -/
def accHeader (c p : Nat) : Nat := ceilDiv (16 * c * p) 4096 * 4096

/-- The 16-byte header record of one slot (R108). SPLIT and NC of a VOID record are not stated: free (log entry 6). -/
def State.accRecord (s : State) (c slot : Nat) (freeSplit freeNc : Nat) : List Byte :=
  match tlook s.res (c * 32 + slot) with
  | none => leBytes 4 (freeSplit % 5 * 4) ++ leBytes 8 0 ++ leBytes 4 (freeNc % 81 + coresPerCluster * 256)
  | some r => leBytes 4 (1 + r.split * 4) ++ leBytes 4 r.tag ++ leBytes 4 r.tiles ++ leBytes 4 (r.nc + r.nk * 256)

/-- The cores' units of a save or restore: cluster, core and slot in the order of R108. -/
def Desc.accUnit (d : Desc) (u : Nat) : Nat × Nat × Nat :=
  let sl := bitsOf 32 (d.w32 0x44)
  let p := max 1 sl.length
  (d.clusters.getD (u / (coresPerCluster * p)) 0, u / p % coresPerCluster, sl.getD (u % p) 0)

/-- The byte offset of a unit's 8 KiB of data. -/
def Desc.accOffset (d : Desc) (u : Nat) : Nat := accHeader d.clusters.length (countBits 32 (d.w32 0x44)) + u * 8192

/-- Admission of ACC_SAVE and ACC_RESTORE (R107, R172). -/
def admitAcc (s : State) (p : Nat) (d : Desc) : Chk Desc := do
  need (d.mode != 0) 0x09 0xFF
  let t ← s.readTd p (d.w32 0x40) 0 (if d.opcode = 4 then .plain else .read)
  let c := d.clusters.length
  let k := countBits 32 (d.w32 0x44)
  need (t.format == fW48 && t.rank == 1) 0x08 0
  need (accHeader c k + c * coresPerCluster * k * 8192 ≤ 8 * t.sz 0) 0x0B 0
  s.needOwned (s.part p) t.planes
  return { d with tds := [(d.w32 0x40, t)], units := c * coresPerCluster * k }

/-- One header record is acceptable to a restore (R109). -/
def accRecordOk (rec : List Byte) (nc : Nat) : Bool :=
  let w (o : Nat) : Nat := leNat (sliceList rec o 4)
  fld (w 0) 1 0 < 2 && fld (w 0) 31 5 == 0 && fld (w 12) 31 16 == 0 && fld (w 12) 15 8 == coresPerCluster &&
    (fld (w 0) 1 0 == 0 || fld (w 12) 7 0 == nc)

/-- The residency record a header record spells. -/
def accResident (rec : List Byte) : Option Resident :=
  let w (o : Nat) : Nat := leNat (sliceList rec o 4)
  if fld (w 0) 1 0 = 1 then some ⟨w 4, w 8, fld (w 0) 4 2, fld (w 12) 7 0, fld (w 12) 15 8⟩ else none

/-- The header records a save or restore covers: cluster, slot and index, in order. -/
def Desc.accHeaders (d : Desc) : List (Nat × Nat × Nat) :=
  let sl := bitsOf 32 (d.w32 0x44)
  (d.clusters.zipIdx).flatMap fun (c, i) => (sl.zipIdx).map fun (k, j) => (c, k, i * sl.length + j)

/-- ACC_SAVE: with the first unit the header, then each unit's containers (R108). -/
def runAccSave (s : State) (d : Desc) (sl : Slice) (r : DRef) : State :=
  match d.td (d.w32 0x40) with
  | none => s
  | some t =>
    let base := t.wd 0
    let (x, s1) := s.free
    let (y, s2) := s1.free
    let run := Run.start s2 r.part 0 coresPerCluster sl.clusters d
    let r0 := if sl.first = 0 then
      run.wr base (padTo (accHeader d.clusters.length (countBits 32 (d.w32 0x44)))
        (d.accHeaders.flatMap fun (c, k, _) => s.accRecord c k x y)) else run
    (foldS (fun (w : Run) u =>
      let (c, core, k) := d.accUnit u
      w.wr (base + d.accOffset u) ((w.s.accTile c core k).flatMap (leBytes 8))) r0
      ((List.range sl.count).map (sl.first + ·))).finish r

/-- ACC_SAVE. -/
def execAccSave (r : DRef) (s : State) : Host.Outcome State Fault Refusal :=
  .next (s.runSlice r 0x0004 fun t d sl => runAccSave t d sl r)

/-- Set the residency record of a cluster and slot as a header record spells it. -/
def State.setResident (s : State) (cluster slot : Nat) (rec : List Byte) : State :=
  match accResident rec with
  | some v => { s with res := tput s.res (cluster * 32 + slot) v }
  | none => { s with res := tdel s.res (cluster * 32 + slot) }

/-- Set the residency records a restore covers from its header at `base`. -/
def Run.accRestoreHeader (r : Run) (d : Desc) (base : Nat) : Run :=
  let w := r.reads [(base, 16 * d.accHeaders.length)]
  let recAt (i : Nat) : List Byte := r.s.rdBytes (base + 16 * i) 16
  { w with s := foldS (fun (u : State) e => u.setResident e.1 e.2.1 (recAt e.2.2)) w.s d.accHeaders }

/-- Restore the words of one unit. -/
def Run.accRestoreUnit (r : Run) (d : Desc) (base u : Nat) : Run :=
  let a := base + d.accOffset u
  let w := r.reads [(a, 8192)]
  let tile := (List.range 1024).map fun e => w.s.rdN (a + 8 * e) 8 % 2 ^ 48
  { w with s := w.s.setAccTile (d.accUnit u).1 (d.accUnit u).2.1 (d.accUnit u).2.2 tile }

/-- ACC_RESTORE: a header record that is not acceptable ends it BAD_DESCRIPTOR before any slot is written; else the
records are set from the header and each unit's words are stored exactly (R109). The check code, 0x08 without an operand,
is the model's (DESIGN CHOICE, log entry 44). A header that also reads poisoned ends it MEMORY_UNCORRECTABLE (R219). -/
def runAccRestore (s : State) (d : Desc) (sl : Slice) (r : DRef) : State :=
  match d.td (d.w32 0x40) with
  | none => s
  | some t =>
    let base := t.wd 0
    let run := Run.start s r.part 0 coresPerCluster sl.clusters d
    if sl.first = 0 ∧ !(d.accHeaders.all fun e => accRecordOk (s.rdBytes (base + 16 * e.2.2) 16) d.clusters.length) then
      ((run.reads [(base, 16 * d.accHeaders.length)]).finish r).updDesc r fun d' => d'.decide' stBadDescriptor (badCode 0x08)
    else
      let r0 := if sl.first = 0 then run.accRestoreHeader d base else run
      (foldS (fun (w : Run) u => w.accRestoreUnit d base u) r0 ((List.range sl.count).map (sl.first + ·))).finish r

/-- ACC_RESTORE. -/
def execAccRestore (r : DRef) (s : State) : Host.Outcome State Fault Refusal :=
  .next (s.runSlice r 0x0005 fun t d sl => runAccRestore t d sl r)

end Sys2Proof.Machine
end

