-- ==== Sys2Proof/Machine/Conv.lean ====
section
/-!
DEFINITION. Convolution, pooling, box decoding and overlap suppression (R323 to R345).
-/

namespace Sys2Proof.Machine

/-! ## Geometry (R325, R327, R329) -/

/-- The fields from 0x58 to 0x6B, and PAD_MODE (R325). -/
structure ConvGeo where
  kw : Nat
  kh : Nat
  sx : Nat
  sy : Nat
  dx : Nat
  dy : Nat
  pxl : Nat
  pxh : Nat
  pyl : Nat
  pyh : Nat
  mode : Nat
  padv : Nat
deriving DecidableEq, Repr

def Desc.geo (d : Desc) : ConvGeo :=
  ⟨d.w8 0x58, d.w8 0x59, d.w8 0x5A, d.w8 0x5B, d.w8 0x5C, d.w8 0x5D, d.at' 0x60 2, d.at' 0x62 2, d.at' 0x64 2, d.at' 0x66 2,
    fld (d.w32 0x50) 11 10, d.w32 0x68⟩

/-- The fields lie in their ranges. -/
def ConvGeo.ok (q : ConvGeo) : Bool :=
  [q.kw, q.kh].all (fun v => 1 ≤ v) && [q.sx, q.sy, q.dx, q.dy].all (fun v => 1 ≤ v && v ≤ 64) &&
  [q.pxl, q.pxh, q.pyl, q.pyh].all (fun v => v ≤ 4096)

/-- The defined bits of the fields from 0x58 to 0x6B. -/
def convGeoBits : List (Nat × Nat) := [bits32 0x58, bitsAt 0x5C 0 16, bits32 0x60, bits32 0x64, bits32 0x68]

/-- The output size of one dimension (R327). -/
def outSize (n k d st pl ph : Nat) : Int := ((n : Int) + pl + ph - d * (k - 1 : Nat) - 1) / (st : Int) + 1

def ConvGeo.outW (q : ConvGeo) (n : Nat) : Int := outSize n q.kw q.dx q.sx q.pxl q.pxh
def ConvGeo.outH (q : ConvGeo) (n : Nat) : Int := outSize n q.kh q.dy q.sy q.pyl q.pyh

/-- fold(p, n, mode) for n ≥ 1 (R329). -/
def foldPos (rep : Bool) (p : Int) (n : Nat) : Nat :=
  if 0 ≤ p ∧ p < n then p.toNat
  else if rep ∨ n = 1 then (min (max p 0) ((n : Int) - 1)).toNat
  else
    let q := (p % ((2 * (n - 1) : Nat) : Int)).toNat
    if q < n then q else 2 * (n - 1) - q

/-- The input position a position reads: itself, its fold, or none where it takes the padding's value. -/
def padPos (mode : Nat) (p : Int) (n : Nat) : Option Nat :=
  if 0 ≤ p ∧ p < n then some p.toNat
  else if mode ≤ 1 ∨ n = 0 then none
  else some (foldPos (mode == 3) p n)

/-- Input position of output `j` and tap `i`. -/
def tapPos (j st i dl pl : Nat) : Int := (j * st + i * dl : Nat) - (pl : Int)

/-! ## Reduction sequences (R332 to R334) -/

/-- One element of a reduction: both operands read, the first padded, or a padding position of dY that counts as zero beside an
element of W. -/
inductive KElem where
  | pair (a b : Nat)
  | padded (b : Nat)
  | skip (b : Nat)
deriving DecidableEq, Repr

/-- Channels per group of IN0's reduction side and of the output. -/
structure ConvChan where
  g : Nat
  cg : Nat
  og : Nat
deriving DecidableEq, Repr

/-- C and O of a convolution (R324) from its operands and output. -/
def convChannels (op : Nat) (a b o : TensorDesc) : Nat × Nat :=
  if op = 0x0110 then (a.sz 2, o.sz 2) else if op = 0x0111 then (o.sz 2, a.sz 2) else (a.sz 2, b.sz 2)

def convChan (d : Desc) (a b o : TensorDesc) : ConvChan :=
  let g := max 1 (d.at' 0x54 2)
  let (c, oc) := convChannels d.opcode a b o
  ⟨g, c / g, oc / g⟩

/-- CONV_FWD output (x, y, o, b) (R332). -/
def fwdSeq (q : ConvGeo) (ch : ConvChan) (a w : TensorDesc) (x y o b : Nat) : List KElem :=
  let g := o / max 1 ch.og
  (List.range q.kh).flatMap fun ky => (List.range q.kw).flatMap fun kx =>
    let px := padPos q.mode (tapPos x q.sx kx q.dx q.pxl) (a.sz 0)
    let py := padPos q.mode (tapPos y q.sy ky q.dy q.pyl) (a.sz 1)
    (List.range ch.cg).map fun c => match px, py with
      | some u, some v => .pair (a.index [u, v, g * ch.cg + c, b]) (w.index [kx, ky, c, o])
      | _, _ => .padded (w.index [kx, ky, c, o])

/-- The output position whose tap `i` reads position `p`, if any (R333). -/
def tapSource (p : Int) (pl i dl st out : Nat) : Option Nat :=
  let t := p + pl - (i * dl : Nat)
  if t < 0 ∨ t % st ≠ 0 ∨ t / st ≥ out then none else some (t / st).toNat

/-- acc(p) of CONV_DGRAD at channel `c` of group `g` (R333). -/
def dgradSeq (q : ConvGeo) (ch : ConvChan) (a w : TensorDesc) (px py : Int) (g c b : Nat) : List KElem :=
  (List.range q.kh).flatMap fun ky => (List.range q.kw).flatMap fun kx =>
    let ox := tapSource px q.pxl kx q.dx q.sx (a.sz 0)
    let oy := tapSource py q.pyl ky q.dy q.sy (a.sz 1)
    (List.range ch.og).map fun o => match ox, oy with
      | some u, some v => .pair (a.index [u, v, g * ch.og + o, b]) (w.index [kx, ky, c, g * ch.og + o])
      | _, _ => .skip (w.index [kx, ky, c, g * ch.og + o])

/-- CONV_WGRAD output (kx, ky, c, o) (R334). -/
def wgradSeq (q : ConvGeo) (ch : ConvChan) (a y : TensorDesc) (kx ky c o : Nat) : List KElem :=
  let g := o / max 1 ch.og
  (List.range (y.sz 3)).flatMap fun b => (List.range (y.sz 1)).flatMap fun oy => (List.range (y.sz 0)).map fun ox =>
    let j := y.index [ox, oy, o, b]
    match padPos q.mode (tapPos ox q.sx kx q.dx q.pxl) (a.sz 0), padPos q.mode (tapPos oy q.sy ky q.dy q.pyl) (a.sz 1) with
    | some u, some v => .pair (a.index [u, v, g * ch.cg + c, b]) j
    | _, _ => .padded j

/-- The padded-range coordinates whose gradients go to `p`, rising (R333). -/
def foldSources (mode n pl ph p : Nat) : List Int :=
  if mode ≤ 1 then [(p : Int)]
  else ((List.range (n + pl + ph)).map fun (i : Nat) => (i : Int) - pl).filter fun x => foldPos (mode == 3) x n == p

/-- The reduction sequences of one output element, each with the mark that I enters it: one, or under MIRROR and REPEAT
one for each padded coordinate, dimension 0 rising first. I enters where the coordinate is the element's own. -/
def convSeqs (d : Desc) (a b o : TensorDesc) (c : List Nat) : List (Bool × List KElem) :=
  let q := d.geo
  let ch := convChan d a b o
  let (c0, c1, c2, c3) := (c.getD 0 0, c.getD 1 0, c.getD 2 0, c.getD 3 0)
  if d.opcode = 0x0110 then [(true, fwdSeq q ch a b c0 c1 c2 c3)]
  else if d.opcode = 0x0112 then [(true, wgradSeq q ch a b c0 c1 c2 c3)]
  else
    (foldSources q.mode (o.sz 1) q.pyl q.pyh c1).flatMap fun py =>
      (foldSources q.mode (o.sz 0) q.pxl q.pxh c0).map fun px =>
        (px == (c0 : Int) && py == (c1 : Int), dgradSeq q ch a b px py (c2 / max 1 ch.cg) (c2 % max 1 ch.cg) c3)

/-- Cut a list into groups of 32. -/
def groups32 {α : Type} (l : List α) : List (List α) := pieces 32 (ceilDiv l.length 32) l

/-- A group of zeros. -/
def zeroGroup (blk : Bool) (n : Nat) : MGroup :=
  if blk then .blk (List.replicate n 0) 0 false else .vals (List.replicate n (.zero, false))

/-- The operand groups of 32 elements; a padded position takes `pad`. -/
def kGroups (s : State) (a b : TensorDesc) (pad : Fp) (l : List KElem) : MGroup × MGroup :=
  if isBlk a.format then
    match l with
    | .pair _ _ :: _ =>
      (a.group s (l.filterMap fun e => match e with | .pair i _ => some i | _ => none),
       b.group s (l.filterMap fun e => match e with | .pair _ j => some j | _ => none))
    | .padded _ :: _ =>
      (zeroGroup true l.length, b.group s (l.filterMap fun e => match e with | .padded j => some j | _ => none))
    | _ => (zeroGroup true l.length, zeroGroup true l.length)
  else
    (.vals (l.map fun e => match e with
      | .pair i _ => a.val s i
      | .padded _ => (pad, false)
      | .skip _ => (.zero, false)),
     .vals (l.map fun e => match e with
      | .pair _ j | .padded j => b.val s j
      | .skip _ => (.zero, false)))

/-- What elements of a reduction read. -/
def kCells (s : State) (a b : TensorDesc) (l : List KElem) : List (Nat × Nat) :=
  l.flatMap fun e => match e with
    | .pair i j => a.cells s i ++ b.cells s j
    | .padded j => b.cells s j
    | .skip _ => []

/-! ## Checks (R323, R325, R326, R331, R336) -/

/-- Fetch checks of the convolutions (R325). -/
def convSpec (d : Desc) : OpSpec :=
  let h := d.w32 0x50
  { mask := [bits32 0x40, bits32 0x44, bits32 0x48, bits32 0x4C, bitsAt 0x50 0 17, bitsAt 0x54 0 16] ++ convGeoBits
    encOk := fld h 6 5 ≤ 1 && fld h 9 7 ≤ 4 && d.geo.ok && d.at' 0x54 2 ≠ 0 &&
      (if bitOf h 12 then decide (5 ≤ fld h 16 13 ∧ fld h 16 13 ≤ 10) else fld h 16 13 == 0) &&
      ptrRule (d.w32 0x40) true && ptrRule (d.w32 0x44) true && ptrRule (d.w32 0x48) (fld h 6 5 == 1) &&
      ptrRule (d.w32 0x4C) true
    tdps := [d.w32 0x40, d.w32 0x44, d.w32 0x48, d.w32 0x4C], ranges := [], win := [], set := 1, units := [],
    assigned := true }

/-- The rules of PAD_VALUE (R326). -/
def ConvGeo.padOk (q : ConvGeo) (blockIn : Bool) : Bool :=
  if q.mode = 1 then (of32 q.padv).isFin && q.padv % 65536 == 0 && !blockIn else q.padv == 0

/-- Width and height within bounds (R323). -/
def planarOk (t : TensorDesc) : Bool := decide (t.sz 0 ≤ 65535 ∧ t.sz 1 ≤ 65535)

/-- A size equals an output size, or that output size is not positive (R328). -/
def sizeIs (n : Nat) (o : Int) : Bool := decide (o ≤ 0) || (n : Int) == o

/-- The frequency path is allowed (R336). -/
def freqOk (d : Desc) (a b o : TensorDesc) : Bool :=
  let q := d.geo
  let t := 2 ^ fld (d.w32 0x50) 16 13
  let one := q.kh == 1 && (if d.opcode = 0x0110 then a.sz 1 else o.sz 1) == 1
  (d.opcode == 0x0110 || d.opcode == 0x0111) && isBfLike a.format && isBfLike b.format && d.at' 0x54 2 == 1 &&
  q.dx == 1 && q.dy == 1 && (decide (q.kw ≥ 9 ∧ q.kh ≥ 9) || (one && decide (q.kw ≥ 11))) && decide (t ≥ 2 * q.kw) &&
  (one || decide (t ≥ 2 * q.kh))

/-- The direct path's operand formats and block dimensions (R331). -/
def convFormats (d : Desc) (a b : TensorDesc) (ch : ConvChan) : Bool :=
  if d.opcode = 0x0112 then a.format == fBF16 && b.format == fBF16
  else
    let wdim := if d.opcode = 0x0110 then 2 else 3
    (a.format == fBF16 || isBlk a.format) && (isBfLike b.format || isBlk b.format) && pairOk a.format b.format &&
    (!isBlk a.format || a.blockDim == 2) && ((!isBlk b.format && b.format != fXC16) || b.blockDim == wdim) &&
    (!isBlk a.format || (if d.opcode = 0x0110 then ch.cg else ch.og) % 32 == 0)

/-- Outputs of a tile's side: positions and channels of one group (R344; the order is the model's). -/
def convTiles (d : Desc) (ch : ConvChan) (o : TensorDesc) : Nat × Nat :=
  if d.opcode = 0x0112 then (o.sz 0 * o.sz 1 * ch.cg, ch.og)
  else (o.sz 0 * o.sz 1 * o.sz 3, if d.opcode = 0x0110 then ch.og else ch.cg)

/-- Width and height of a frequency tile as powers of two: T both ways, or one row under a filter of one row (R336, R337). -/
def freqLogs (d : Desc) : Nat × Nat :=
  let l := fld (d.w32 0x50) 16 13
  (l, if d.geo.kh = 1 then 0 else l)

/-- Step of the frequency tiles: T − k + 1, each row its own tile under a filter of one row. -/
def freqStep (d : Desc) : Nat × Nat :=
  let (lw, lh) := freqLogs d
  (max 1 (2 ^ lw + 1 - d.geo.kw), max 1 (2 ^ lh + 1 - d.geo.kh))

/-- Positions of padding that CONV_DGRAD forms a gradient of below and above dX, in one dimension: those of R333 that fold. -/
def ConvGeo.around (q : ConvGeo) (pl ph : Nat) : Nat × Nat := if q.mode ≤ 1 then (0, 0) else (pl, ph)

/-- Unstrided plane of the frequency path: positions of OUT times its stride, or the padded range whose gradients fold. -/
def freqPlane (d : Desc) (o : TensorDesc) : Nat × Nat :=
  let q := d.geo
  let side (n pl ph : Nat) : Nat := n + (q.around pl ph).1 + (q.around pl ph).2
  if d.opcode = 0x0110 then ((o.sz 0 - 1) * q.sx + 1, (o.sz 1 - 1) * q.sy + 1)
  else (side (o.sz 0) q.pxl q.pxh, side (o.sz 1) q.pyl q.pyh)

/-- Admission of the convolutions (R323, R326, R328, R331, R336). -/
def admitConv (s : State) (p : Nat) (d : Desc) : Chk Desc := do
  let h := d.w32 0x50
  let q := d.geo
  let a ← s.readTd p (d.w32 0x40) 0 .read
  let b ← s.readTd p (d.w32 0x44) 1 .read
  let c? ← if fld h 6 5 = 1 then (s.readTd p (d.w32 0x48) 2 .addend).map some else .ok none
  let o ← s.readTd p (d.w32 0x4C) 3 .result
  let g := d.at' 0x54 2
  let (c, oc) := convChannels d.opcode a b o
  let ch := convChan d a b o
  need (g ≠ 0 && c % max 1 g == 0 && oc % max 1 g == 0) 0x08 0xFF
  need (planarOk a) 0x08 0
  need (d.opcode != 0x0112 || planarOk b) 0x08 1
  need (d.opcode == 0x0112 || planarOk o) 0x08 3
  let plane := if d.opcode = 0x0111 then o else a
  let ow := q.outW (plane.sz 0)
  let oh := q.outH (plane.sz 1)
  let filter (t : TensorDesc) : Bool := t.sz 0 == q.kw && t.sz 1 == q.kh && t.sz 2 == ch.cg && t.sz 3 == oc
  need (if d.opcode = 0x0112 then sizeIs (b.sz 0) ow && sizeIs (b.sz 1) oh && a.sz 3 == b.sz 3 else filter b) 0x08 1
  need (d.opcode != 0x0111 || (sizeIs (a.sz 0) ow && sizeIs (a.sz 1) oh)) 0x08 0
  need (if d.opcode = 0x0110 then sizeIs (o.sz 0) ow && sizeIs (o.sz 1) oh && o.sz 3 == a.sz 3
    else if d.opcode = 0x0111 then o.sz 3 == a.sz 3 else filter o) 0x08 3
  need (plainMatrix o) 0x08 3
  match c? with
  | some t => need (plainMatrix t && (List.range 4).all fun i => t.sz i == o.sz i || t.sz i == 1) 0x08 2
  | none => .ok ()
  need (q.padOk (isBlk a.format || isBlk b.format)) 0x08 0xFF
  need (convFormats d a b ch) 0x08 0xFF
  need (!bitOf h 12 || freqOk d a b o) 0x08 0xFF
  s.needOwned (s.part p) (a.planes ++ b.planes ++ (c?.map fun t => t.planes).getD [] ++ o.planes)
  let (np, nc) := convTiles d ch o
  let (fx, fy) := freqStep d
  let (pw, ph) := freqPlane d o
  let units := if bitOf h 12 then ceilDiv pw fx * ceilDiv ph fy * o.sz 3
    else ceilDiv np 32 * ch.g * ceilDiv nc 32 * 2 ^ fld h 9 7
  let tds := [(d.w32 0x40, a), (d.w32 0x44, b)] ++ (c?.map fun t => (d.w32 0x48, t)).toList ++ [(d.w32 0x4C, o)]
  if ow ≤ 0 ∨ oh ≤ 0 ∨ o.count = 0 ∨ units = 0 then .error (stEmptyOutput, 0)
  else return { d with tds := tds, units := units }

/-- CONV_DGRAD and CONV_WGRAD with an empty convolution write +0 throughout their output (R328). -/
def convZero (s : State) (p : Nat) (d : Desc) : State :=
  if d.opcode = 0x0111 ∨ d.opcode = 0x0112 then
    match s.readTd p (d.w32 0x4C) 3 .result with
    | .error _ => s
    | .ok o =>
      let w := (stridedWidth o.format).getD 4
      let run := foldS (fun (r : Run) i => r.wrN (o.elemAddr i) w 0) (Run.start s p 0 coresPerCluster d.clusters d)
        (List.range o.count)
      run.finish (d.ref p)
  else s

/-! ## The direct path -/

/-- The value a padded position takes; with an empty dimension under MIRROR or REPEAT no rule gives one: free. -/
def ConvGeo.padVal (q : ConvGeo) (free : Nat) : Fp :=
  if q.mode = 0 then .zero else if q.mode = 1 then ofBf (q.padv / 65536) else ofBf free

/-- Coordinates of an output element: position `x`, channel `c` of group `g`. -/
def convCoord (d : Desc) (ch : ConvChan) (o : TensorDesc) (x c g : Nat) : List Nat :=
  if d.opcode = 0x0112 then
    [x % max 1 (o.sz 0), x / max 1 (o.sz 0) % max 1 (o.sz 1), x / max 1 (o.sz 0 * o.sz 1), g * ch.og + c]
  else
    [x % max 1 (o.sz 0), x / max 1 (o.sz 0) % max 1 (o.sz 1), g * (if d.opcode = 0x0110 then ch.og else ch.cg) + c,
      x / max 1 (o.sz 0 * o.sz 1)]

/-- I of an output element: C, broadcast, or +0 (R332). -/
def convInit (s : State) (c? : Option TensorDesc) (c : List Nat) : Fp × List (Nat × Nat) :=
  match c? with
  | some t =>
    let i := t.index ((c.zip t.size).map fun (x, n) => if n = 1 then 0 else x)
    ((t.val s i).1, t.cells s i)
  | none => (.zero, [])

/-- The add48 chain over reductions, with the cause of a NaN it makes (R333). -/
def chainAccs : List Acc → Acc
  | [] => (.zero, none)
  | a :: t => t.foldl (fun x y => (add48 x.1 y.1, match x.2, y.2 with
      | some c, _ => some c
      | none, some c => some c
      | none, none => if add48Produced x.1 y.1 then some 0 else none)) a

/-- The outputs of a tile (R344): their coordinates. -/
def convTile (d : Desc) (ch : ConvChan) (o : TensorDesc) (q : Nat) : List (List Nat) :=
  let (np, nc) := convTiles d ch o
  let tc := max 1 (ceilDiv nc 32)
  let (t, cb, g) := (q / (tc * max 1 ch.g), q % tc, q / tc % max 1 ch.g)
  (List.range 32).flatMap fun i => (List.range 32).filterMap fun j =>
    if 32 * t + i < np ∧ 32 * cb + j < nc then some (convCoord d ch o (32 * t + i) (32 * cb + j) g) else none

/-- One unit of the direct path: part `j` of an output tile; with the last part the tile is written. -/
def Run.convUnit (r : Run) (d : Desc) (a b o : TensorDesc) (c? : Option TensorDesc) (pad : Fp) (u : Nat) : Run :=
  let ls := fld (d.w32 0x50) 9 7
  let n := 2 ^ ls
  let j := u % n
  let ch := convChan d a b o
  let f := outerFactor a b
  let elems := (convTile d ch o (u / n)).map fun c =>
    let (init, cells) := convInit r.s c? c
    let own (e : Bool) : Fp := if e then init else .zero
    (o.index c, cells, (convSeqs d a b o c).map fun (own', l) =>
      let gs := groups32 l
      let (lo, hi) := partRange gs.length n j
      (own own', gs.map fun g => kGroups r.s a b pad g, (sliceList gs lo (hi - lo)).flatMap fun g => kCells r.s a b g))
  let r1 := r.reads (elems.flatMap fun (_, cells, accs) => (if j = 0 then cells else []) ++
    accs.flatMap fun (_, _, cs) => cs)
  let partOf (i : Nat) (x : Fp × List (MGroup × MGroup) × List (Nat × Nat)) : Acc :=
    reducePart f x.1 (x.2.1.map (·.1)) (x.2.1.map (·.2)) n i
  let evt (i c : Nat) : NanEvt := r.evt c o.id o.size i
  let part := elems.filterMap fun (i, _, accs) => (accs.findSome? fun x => (partOf j x).2).map fun c => evt i c
  let r2 := { r1 with nans := r1.nans ++ part }
  if j + 1 < n then r2
  else
    let res := elems.map fun (i, _, accs) =>
      (i, chainAccs (accs.map fun x => reduceAll f x.1 (x.2.1.map (·.1)) (x.2.1.map (·.2)) ls),
        accs.any fun x => (List.range n).any fun k => (partOf k x).2.isSome)
    let late := res.filterMap fun (i, v, made) => if made then none else v.2.map fun c => evt i c
    foldS (fun (w : Run) (v : Nat × Acc × Bool) => w.writeMatrix o v.1 v.2.1.1) { r2 with nans := r2.nans ++ late } res

/-! ## The frequency path (R336 to R338) -/

/-- The exact sum of a reduction, and its operand pairs: a padding position of dY is zero beside its element of W. -/
def exactSum (s : State) (a b : TensorDesc) (pad : Fp) (l : List KElem) : Fp × List (Fp × Fp) :=
  let v := l.map fun e => match e with
    | .pair i j => ((a.val s i).1, (b.val s j).1)
    | .padded j => (pad, (b.val s j).1)
    | .skip j => (Fp.zero, (b.val s j).1)
  (v.foldl (fun x (p, q) => x.add (p.mul q)) Fp.zero, v)

/-- Σ_c (Σ|x_c|)(Σ|w_c|) over `n` channels interleaved innermost (R338). -/
def freqBound (n : Nat) (v : List (Fp × Fp)) : Fp :=
  (List.range n).foldl (fun x c =>
    let mine := (v.zipIdx).filterMap fun (t, i) => if i % max 1 n = c then some t else none
    let sx := mine.foldl (fun y t => y.add t.1.abs) Fp.zero
    let sw := mine.foldl (fun y t => y.add t.2.abs) Fp.zero
    x.add (sx.mul sw)) Fp.zero

/-- The word the frequency path writes: that of the pipeline, a NaN among them, where it keeps the bound of R338, else the exact
value rounded. -/
def freqWord (bf : Bool) (x exact bound : Fp) : Nat :=
  let word (v : Fp) : Nat := if bf then encBf none v else enc32 v
  let v := if bf then ofBf (word x) else of32 (word x)
  if x.isNaN || (v.isFin && (v.sub exact).abs.le (bound.scale (-6))) then word x else word exact

/-- What place `z` of the padded input, or of dY with its zeros inserted, holds in one dimension: an input position (none: the
padding's value), or nothing where it lies outside or no output reads it (R329, R330, R333). `n` is the size of the input or of
dX, `out` that of OUT or dY. -/
def freqSrc (fwd : Bool) (q : ConvGeo) (n out k st pl ph : Nat) (z : Int) : Option (Option Nat) :=
  if z < 0 then none
  else if fwd then
    -- the last output that begins at or before z reads it, or none does
    if z.toNat < n + pl + ph ∧ 0 < out ∧ z.toNat < min (z.toNat / st) (out - 1) * st + k then some (padPos q.mode (z - pl) n) else none
  else
    let (lo, hi) := q.around pl ph
    if z % st = 0 ∧ z / st < out ∧ -(lo : Int) < z - pl + k ∧ z - pl < (n + hi : Nat) then some (some (z / st).toNat) else none

/-- The places of frequency tile (tx, ty), row by row. -/
def freqPlaces (d : Desc) (a o : TensorDesc) (tx ty : Nat) : List (Option (Option Nat × Option Nat)) :=
  let q := d.geo
  let fwd := d.opcode == 0x0110
  let (lw, lh) := freqLogs d
  let (fx, fy) := freqStep d
  let at1 (i f : Nat) (k st pl ph n out : Nat) : Option (Option Nat) :=
    if fwd then freqSrc true q n out k st pl ph (f + i : Nat)
    else freqSrc false q out n k st pl ph (((f + i + pl : Nat) : Int) - (q.around pl ph).1 - (k - 1 : Nat))
  (List.range (2 ^ lh)).flatMap fun i => (List.range (2 ^ lw)).map fun j =>
    match at1 j (tx * fx) q.kw q.sx q.pxl q.pxh (a.sz 0) (o.sz 0), at1 i (ty * fy) q.kh q.sy q.pyl q.pyh (a.sz 1) (o.sz 1) with
    | some x, some y => some (x, y)
    | _, _ => none

/-- The input elements a tile reads, of batch item `b`. -/
def freqTileIn (d : Desc) (a o : TensorDesc) (tx ty b : Nat) : List Nat :=
  (freqPlaces d a o tx ty).flatMap fun e => match e with
    | some (some x, some y) => (List.range (a.sz 2)).map fun c => a.index [x, y, c, b]
    | _ => []

/-- The filter elements that output channel `c` uses, and those of one reduction channel `r` of it, row by row; flipped for
CONV_DGRAD (R337). -/
def freqTaps (d : Desc) (b : TensorDesc) (c r : Nat) : List Nat :=
  let l := (List.range d.geo.kh).flatMap fun ky => (List.range d.geo.kw).map fun kx =>
    b.index (if d.opcode = 0x0110 then [kx, ky, r, c] else [kx, ky, c, r])
  if d.opcode = 0x0110 then l else l.reverse

/-- A plane's bins, each part rounded to BF16 (R337 steps 2 and 3). -/
def freqSpectrum (lw lh : Nat) (l : List Fp) : List Cx :=
  let bf (x : Fp) : Fp := ofBf (encBf none x)
  (planeFft false lw lh (l.map fun x => (x, .zero))).map fun z => (bf z.1, bf z.2)

/-- The plane of a tile that holds a filter's taps in its corner, zeros elsewhere. -/
def freqPlaneOf (d : Desc) (taps : List Fp) : List Fp :=
  let (lw, lh) := freqLogs d
  (List.range (2 ^ lh)).flatMap fun i => (List.range (2 ^ lw)).map fun j =>
    if i < d.geo.kh ∧ j < d.geo.kw then taps.getD (i * d.geo.kw + j) .zero else .zero

/-- The sum of one bin over the channels (R337 step 4, R105): `im` names the imaginary part. -/
def freqBin (xs ws : List (List Cx)) (e : Nat) (im : Bool) : Acc :=
  let terms := (xs.zip ws).flatMap fun (x, w) =>
    let (a, b) := (x.getD e (.zero, .zero), w.getD e (.zero, .zero))
    if im then [(a.1, b.2), (a.2, b.1)] else [(a.1, b.1), (a.2, b.2.neg)]
  let side (l : List Fp) : List MGroup := (groups32 (l.map fun x => (x, false))).map .vals
  reduceAll (.fin false 1 0) .zero (side (terms.map (·.1))) (side (terms.map (·.2))) 0

/-- What a tile gives one output channel (R337 steps 1 to 5): the values after the transform back, and the engine kind and cause of
the first NaN made on the way (R345). -/
structure FreqTile where
  vals : List Fp
  made : Option (Nat × Nat)
deriving DecidableEq, Repr

/-- The spectra of a tile's input, by channel. -/
def freqInput (s : State) (d : Desc) (a o : TensorDesc) (pad : Fp) (tx ty bi : Nat) : List (List Cx) :=
  let (lw, lh) := freqLogs d
  (List.range (a.sz 2)).map fun r => freqSpectrum lw lh ((freqPlaces d a o tx ty).map fun e => match e with
    | some (some x, some y) => (a.val s (a.index [x, y, r, bi])).1.to32
    | some _ => pad
    | none => .zero)

/-- The spectra of the filter for output channel `c`, by reduction channel. A convolution slides its filter unflipped, so each is
the conjugate (log entry 10). -/
def freqFilter (s : State) (d : Desc) (a b : TensorDesc) (c : Nat) : List (List Cx) :=
  let (lw, lh) := freqLogs d
  (List.range (a.sz 2)).map fun r =>
    (freqSpectrum lw lh (freqPlaneOf d ((freqTaps d b c r).map fun i => (b.val s i).1.to32))).map Cx.conj

/-- Steps 1 to 5 of one tile for one output channel. -/
def freqTileOut (s : State) (d : Desc) (a b o : TensorDesc) (pad : Fp) (tx ty bi c : Nat) : FreqTile :=
  let (lw, lh) := freqLogs d
  let xs := freqInput s d a o pad tx ty bi
  let ws := freqFilter s d a b c
  let bins := (List.range (2 ^ (lw + lh))).map fun e => (freqBin xs ws e false, freqBin xs ws e true)
  let back := planeBack lw lh (bins.map fun z => (z.1.1.to32, z.2.1.to32))
  let cause := bins.findSome? fun z => z.1.2 <|> z.2.2
  ⟨back.map (·.1),
   if (xs ++ ws).any (fun l => l.any Cx.isNaN) then some (1, 0)
   else match cause with
    | some x => some (0, x)
    | none => if back.any Cx.isNaN then some (1, 0) else none⟩

/-- The places of the unstrided plane that output (x, y) takes values from, in the order they add (R333, R337 step 6). -/
def freqFrom (d : Desc) (o : TensorDesc) (x y : Nat) : List (Nat × Nat) :=
  let q := d.geo
  if d.opcode = 0x0110 then [(x * q.sx, y * q.sy)]
  else
    (foldSources q.mode (o.sz 1) q.pyl q.pyh y).flatMap fun py => (foldSources q.mode (o.sz 0) q.pxl q.pxh x).map fun px =>
      ((px + ((q.around q.pxl q.pxh).1 : Int)).toNat, (py + ((q.around q.pyl q.pyh).1 : Int)).toNat)

/-- Output `c` as the pipeline gives it: the tiles' values and I added in order, and the first NaN made on the way. -/
def freqPipe (s : State) (d : Desc) (a b o : TensorDesc) (pad init : Fp) (c : List Nat) : Fp × Option (Nat × Nat) :=
  let (fx, fy) := freqStep d
  let (lw, _) := freqLogs d
  let tiles := (freqFrom d o (c.getD 0 0) (c.getD 1 0)).map fun (x, y) =>
    (freqTileOut s d a b o pad (x / fx) (y / fy) (c.getD 3 0) (c.getD 2 0), y % fy * 2 ^ lw + x % fx)
  let sum := tiles.foldl (fun v e => add48 v (e.1.vals.getD e.2 .zero)) init
  (sum, (tiles.findSome? fun e => e.1.made) <|> if sum.isNaN then some (1, 0) else none)

/-- The inputs whose tile, and the filter elements whose spectrum, an output depends on. -/
def freqNeeds (d : Desc) (a b o : TensorDesc) (c : List Nat) : List Nat × List Nat :=
  let (fx, fy) := freqStep d
  ((freqFrom d o (c.getD 0 0) (c.getD 1 0)).flatMap fun (x, y) => freqTileIn d a o (x / fx) (y / fy) (c.getD 3 0),
   (List.range (a.sz 2)).flatMap fun r => freqTaps d b (c.getD 2 0) r)

/-- The NaNs a tile's engines make or meet for output `c` (R59, R75, R338): an infinity becomes NaN in the butterflies, named by
the output; a NaN operand is met where its spectrum is rounded, a reserved code or a bad block is produced where it is read. -/
def Run.freqNans (r : Run) (a b o : TensorDesc) (c xs ws : List Nat) : List NanEvt :=
  let evt (cause id : Nat) (size : List Nat) (i : Nat) : NanEvt := { r.evt cause id size i with kind := 1, engines := 4 }
  let one (t : TensorDesc) (i : Nat) : Option NanEvt :=
    let (v, made) := t.val r.s i
    if v.isNaN then some (evt (if made then 2 else 1) t.id t.size i)
    else if v.isFin then none else some (evt 0 o.id o.size (o.index c))
  xs.filterMap (one a) ++ ws.filterMap (one b)

/-- The NaN a tile made, by engine kind and cause, is named by output element `i`. -/
def Run.noteMade (r : Run) (o : TensorDesc) (i : Nat) (made : Option (Nat × Nat)) : Run :=
  match made with
  | some (kind, cause) =>
    r.note [{ r.evt cause o.id o.size i with kind := kind, engines := if kind = 0 then coresPerCluster else 4 }]
  | none => r

/-- One frequency tile: the outputs whose own place lies in it. An output that depends on a NaN or an infinity is NaN; a NaN that
finite operands give in the transforms or in a bin's sum is named by the output (R338, R345). -/
def Run.freqUnit (r : Run) (d : Desc) (a b o : TensorDesc) (c? : Option TensorDesc) (pad : Fp) (u : Nat) : Run :=
  let q := d.geo
  let (fx, fy) := freqStep d
  let (pw, ph) := freqPlane d o
  let nx := max 1 (ceilDiv pw fx)
  let ny := max 1 (ceilDiv ph fy)
  let (tx, ty, bi) := (u % nx, u / nx % ny, u / (nx * ny))
  let fwd := d.opcode == 0x0110
  let own (i st pl ph f t : Nat) : Bool := (if fwd then i * st else i + (q.around pl ph).1) / f == t
  let coords := (List.range (o.sz 1)).flatMap fun y => (List.range (o.sz 0)).flatMap fun x =>
    if own x q.sx q.pxl q.pxh fx tx && own y q.sy q.pyl q.pyh fy ty then (List.range (o.sz 2)).map fun c => [x, y, c, bi] else []
  let ch := convChan d a b o
  let nch := if fwd then ch.cg else ch.og
  let bf := o.format == fBF16
  let wd := if bf then 2 else 4
  foldS (fun (w : Run) c =>
    let i := o.index c
    let (init, cells) := convInit r.s c? c
    let (xs, ws) := freqNeeds d a b o c
    let w1 := ((w.readsElems a xs).readsElems b ws).reads cells
    let nans := r.freqNans a b o c xs ws
    if nans.isEmpty then
      let sums := (convSeqs d a b o c).map fun (_, l) => exactSum r.s a b pad l
      let exact := sums.foldl (fun x v => x.add v.1) init
      let bound := sums.foldl (fun x v => x.add (freqBound nch v.2)) Fp.zero
      let (x, made) := freqPipe r.s d a b o pad init c
      (w1.noteMade o i made).wrN (o.elemAddr i) wd (freqWord bf x exact bound)
    else (w1.note nans).wrN (o.elemAddr i) wd (if bf then 0x7FC0 else nan32)) r coords

/-- A convolution: the running slice's units. -/
def runConv (s : State) (d : Desc) (sl : Slice) (r : DRef) : State :=
  match d.td (d.w32 0x40), d.td (d.w32 0x44), d.td (d.w32 0x4C) with
  | some a, some b, some o =>
    let c? := if fld (d.w32 0x50) 6 5 = 1 then d.td (d.w32 0x48) else none
    let (x, s1) := s.free
    let pad := d.geo.padVal x
    let run := Run.start s1 r.part 0 coresPerCluster sl.clusters d
    (foldS (fun (w : Run) u => if bitOf (d.w32 0x50) 12 then w.freqUnit d a b o c? pad u else w.convUnit d a b o c? pad u)
      run ((List.range sl.count).map (sl.first + ·))).finish r
  | _, _, _ => s

/-- CONV_FWD. -/
def execConvFwd (r : DRef) (s : State) : Host.Outcome State Fault Refusal :=
  .next (s.runSlice r 0x0110 fun t d sl => runConv t d sl r)

/-- CONV_DGRAD. -/
def execConvDgrad (r : DRef) (s : State) : Host.Outcome State Fault Refusal :=
  .next (s.runSlice r 0x0111 fun t d sl => runConv t d sl r)

/-- CONV_WGRAD. -/
def execConvWgrad (r : DRef) (s : State) : Host.Outcome State Fault Refusal :=
  .next (s.runSlice r 0x0112 fun t d sl => runConv t d sl r)

/-! ## Steps of the vector engines -/

/-- An FP32 value computed by vector-engine steps and whether a step made a NaN. -/
abbrev VVal := Nat × Bool

/-- One step on two operands. -/
def vv2 (f : Fp → Fp → Nat) (a b : VVal) : VVal :=
  let w := f (of32 a.1) (of32 b.1)
  (w, a.2 || b.2 || (!(of32 a.1).isNaN && !(of32 b.1).isNaN && (of32 w).isNaN))

def vvDiv : VVal → VVal → VVal := vv2 (fpDiv fmt32)

/-! ## Pooling (R339 to R341) -/

def Desc.poolFunc (d : Desc) : Nat := fld (d.w32 0x50) 2 0

/-- Fetch checks of POOL (R339); the presence of TDP_IDX is a pointer rule of R155. -/
def poolSpec (d : Desc) : OpSpec :=
  let f := d.poolFunc
  { mask := [bits32 0x40, bits32 0x44, bits32 0x48, bitsAt 0x50 0 3, bitsAt 0x50 10 2] ++ convGeoBits
    encOk := f ≤ 5 && d.geo.ok && ptrRule (d.w32 0x40) true && ptrRule (d.w32 0x48) true &&
      (f == 0 || ptrRule (d.w32 0x44) (f == 3))
    tdps := [d.w32 0x40, d.w32 0x44, d.w32 0x48], ranges := [], win := [], set := 1, units := [], assigned := true }

/-- Admission of POOL (R339). -/
def admitPool (s : State) (p : Nat) (d : Desc) : Chk Desc := do
  let f := d.poolFunc
  let q := d.geo
  let hasIdx := d.w32 0x44 != noTensor
  let t ← s.readTd p (d.w32 0x40) 0 .read
  let x? ← if hasIdx then (s.readTd p (d.w32 0x44) 1 (if f = 0 then .plain else .read)).map some else .ok none
  let o ← s.readTd p (d.w32 0x48) 2 .quant
  need (planarOk t && loadOk vF32 t) 0x08 0
  need (planarOk o && (o.format == fFP32 || o.format == fBF16) && t.sz 2 == o.sz 2 && t.sz 3 == o.sz 3) 0x08 2
  need (q.pxl ≤ q.dx * (q.kw - 1) && q.pxh ≤ q.dx * (q.kw - 1) && q.pyl ≤ q.dy * (q.kh - 1) &&
    q.pyh ≤ q.dy * (q.kh - 1)) 0x08 0xFF
  need (q.padOk (isBlk t.format)) 0x08 0xFF
  let big := if f ≤ 2 then t else o
  let small := if f ≤ 2 then o else t
  let ow := q.outW (big.sz 0)
  let oh := q.outH (big.sz 1)
  need (sizeIs (small.sz 0) ow && sizeIs (small.sz 1) oh) 0x08 (if f ≤ 2 then 2 else 0)
  match x? with
  | some x => need (x.format == fI32 && x.size == small.size) 0x08 1
  | none => .ok ()
  s.needOwned (s.part p) (t.planes ++ (x?.map fun x => x.planes).getD [] ++ o.planes)
  let tds := [(d.w32 0x40, t)] ++ (x?.map fun x => (d.w32 0x44, x)).toList ++ [(d.w32 0x48, o)]
  if ow ≤ 0 ∨ oh ≤ 0 ∨ o.count = 0 then .error (stEmptyOutput, 0)
  else return { d with tds := tds, units := ceilDiv (o.sz 1) 32 * o.sz 2 * o.sz 3 }

/-- The positions a window uses, in order of ky, then kx: its source position, or none for a padded position with the
padding's value. `all` says that padded positions take part. -/
def poolWindow (q : ConvGeo) (folded all : Bool) (w h x y : Nat) : List (Option (Nat × Nat)) :=
  (List.range q.kh).flatMap fun ky => (List.range q.kw).filterMap fun kx =>
    let (px, py) := (tapPos x q.sx kx q.dx q.pxl, tapPos y q.sy ky q.dy q.pyl)
    let inside := decide (0 ≤ px ∧ px < w ∧ 0 ≤ py ∧ py < h)
    if inside then some (some (px.toNat, py.toNat))
    else if folded then
      match padPos q.mode px w, padPos q.mode py h with
      | some u, some v => some (some (u, v))
      | _, _ => if all then some none else none
    else if all then some none else none

/-- The window of a function: MAX and AVG_INCL fold under MIRROR and REPEAT, AVG_INCL also counts padded values
(R340). -/
def poolUses (f : Nat) (q : ConvGeo) (w h x y : Nat) : List (Option (Nat × Nat)) :=
  poolWindow q (f % 3 != 2 && decide (q.mode ≥ 2)) (f % 3 == 1) w h x y

/-- An FP32 sum in order, each add by RNE, and whether a step made a NaN. -/
def sumInOrder : List Nat → Nat × Bool
  | [] => (0, false)
  | v :: t => t.foldl (fun (x, m) y =>
      let z := enc32 ((of32 x).add (of32 y))
      (z, m || (!(of32 x).isNaN && !(of32 y).isNaN && (of32 z).isNaN))) (v, false)

/-- The winner of MAX: value and place in the window; only NaN gives the first position. -/
def poolWinner (l : List Nat) : Nat × Nat :=
  let best := (l.zipIdx).foldl (fun (o : Option (Nat × Nat)) (v, i) =>
    if (of32 v).isNaN then o
    else match o with
      | none => some (v, i)
      | some (u, k) => if (of32 v).above (of32 u) then some (v, i) else some (u, k)) none
  best.getD (nan32, 0)

/-- Write a result of a vector-engine operation: the quantiser, and a NaN made on the way (R345). A NaN the quantiser meets is named
by the output element (R80; DESIGN CHOICE, log entry 55). -/
def Run.writeMade (r : Run) (o : TensorDesc) (i : Nat) (w : Nat) (made : Bool) : Run :=
  let r1 := if made then r.raise [r.evt 0 o.id o.size i] else r
  r1.writeElem o i (of32 w) (o.id, o.size, i)

/-- One output of a forward function. Where dilation leaves MAX a window without a position, its value and index are free (log
entry 10: no rule gives them). -/
def Run.poolOut (r : Run) (d : Desc) (t o : TensorDesc) (x? : Option TensorDesc) (pad : Fp) (c : List Nat) : Run :=
  let q := d.geo
  let f := d.poolFunc
  let (c2, c3) := (c.getD 2 0, c.getD 3 0)
  let win := poolUses f q (t.sz 0) (t.sz 1) (c.getD 0 0) (c.getD 1 0)
  let idx (u v : Nat) : Nat := t.index [u, v, c2, c3]
  let r1 := r.reads (win.flatMap fun e => match e with
    | some (u, v) => t.loadCells r.s 0 (idx u v)
    | none => [])
  let loads := win.map fun e => match e with
    | some (u, v) => t.loadF r.s (idx u v)
    | none => (enc32 pad, false)
  -- a reserved code met by a load is a produced NaN with CAUSE 2 (R59)
  let r2 := r1.raise ((win.zip loads).filterMap fun (e, v) => match e with
    | some (a, b) => if v.2 then some (r.evt 2 t.id t.size (idx a b)) else none
    | none => none)
  let vals := loads.map fun v => v.1
  let i := o.index c
  if f = 0 ∧ vals.isEmpty then
    let (w, s1) := r2.s.free
    let (k, s2) := s1.free
    let r3 := { r2 with s := s2 }.writeMade o i (w % 2 ^ 32) false
    match x? with
    | some x => r3.wrN (x.elemAddr i) 4 (k % 2 ^ 32)
    | none => r3
  else if f = 0 then
    let (v, k) := poolWinner vals
    let r3 := r2.writeMade o i v false
    match x?, win.getD k none with
    | some x, some (a, b) => r3.wrN (x.elemAddr i) 4 (b * t.sz 0 + a)
    | _, _ => r3
  else
    let v := vvDiv (sumInOrder vals) (enc32 (Fp.ofNat win.length), false)
    r2.writeMade o i v.1 v.2

/-- One position of dX (R341). -/
def Run.poolBack (r : Run) (d : Desc) (t o : TensorDesc) (x? : Option TensorDesc) (c : List Nat) : Run :=
  let q := d.geo
  let f := d.poolFunc
  let (cx, cy, c2, c3) := (c.getD 0 0, c.getD 1 0, c.getD 2 0, c.getD 3 0)
  let outs := (List.range (t.sz 1)).flatMap fun y => (List.range (t.sz 0)).map fun x => (x, y)
  let idx (u v : Nat) : Nat := t.index [u, v, c2, c3]
  let adds := outs.flatMap fun (x, y) =>
    let j := idx x y
    if f = 3 then match x? with
      | some xt => if toSigned 32 (xt.raw r.s j) = ((cy * o.sz 0 + cx : Nat) : Int) then [(j, none)] else []
      | none => []
    else
      let win := poolUses f q (o.sz 0) (o.sz 1) x y
      (win.filter fun e => e == some (cx, cy)).map fun _ => (j, some win.length)
  let r1 := r.reads ((adds.flatMap fun (j, _) => t.loadCells r.s 0 j) ++ (match x? with
    | some xt => outs.flatMap fun (x, y) => xt.cells r.s (idx x y)
    | none => []))
  let r2 := r1.raise (adds.filterMap fun (j, _) => if (t.loadF r.s j).2 then some (r.evt 2 t.id t.size j) else none)
  let vals := adds.map fun (j, n?) => match n? with
    | some n => fpDiv fmt32 (of32 (t.loadF r.s j).1) (Fp.ofNat n)
    | none => (t.loadF r.s j).1
  let (v, made) := sumInOrder (0 :: vals)
  r2.writeMade o (o.index c) v made

/-- One unit of POOL: 32 rows of one channel plane of one batch item (R344). -/
def Run.poolUnit (r : Run) (d : Desc) (t o : TensorDesc) (x? : Option TensorDesc) (pad : Fp) (u : Nat) : Run :=
  let nr := max 1 (ceilDiv (o.sz 1) 32)
  let (y0, c2, c3) := (u % nr * 32, u / nr % max 1 (o.sz 2), u / (nr * max 1 (o.sz 2)))
  let cs := (List.range (min 32 (o.sz 1 - y0))).flatMap fun y => (List.range (o.sz 0)).map fun x => [x, y0 + y, c2, c3]
  (foldS (fun (w : Run) c => if d.poolFunc ≤ 2 then w.poolOut d t o x? pad c else w.poolBack d t o x? c) r cs).endUnit

def runPool (s : State) (d : Desc) (sl : Slice) (r : DRef) : State :=
  match d.td (d.w32 0x40), d.td (d.w32 0x48) with
  | some t, some o =>
    let x? := if d.w32 0x44 = noTensor then none else d.td (d.w32 0x44)
    let (x, s1) := s.free
    (foldS (fun (w : Run) u => w.poolUnit d t o x? (d.geo.padVal x) u) (Run.start s1 r.part 1 4 sl.clusters d)
      ((List.range sl.count).map (sl.first + ·))).finish r
  | _, _ => s

/-- A POOL descriptor of function `f`. -/
def State.poolRow (s : State) (r : DRef) (f : Nat) : State :=
  match s.desc r with
  | some d => if d.poolFunc = f then s.runSlice r 0x0118 fun t d sl => runPool t d sl r else s
  | none => s

/-- POOL with FUNC MAX. -/
def execPoolMax (r : DRef) (s : State) : Host.Outcome State Fault Refusal := .next (s.poolRow r 0)
/-- POOL with FUNC AVG_INCL. -/
def execPoolAvgIncl (r : DRef) (s : State) : Host.Outcome State Fault Refusal := .next (s.poolRow r 1)
/-- POOL with FUNC AVG_EXCL. -/
def execPoolAvgExcl (r : DRef) (s : State) : Host.Outcome State Fault Refusal := .next (s.poolRow r 2)
/-- POOL with FUNC MAX_BWD. -/
def execPoolMaxBwd (r : DRef) (s : State) : Host.Outcome State Fault Refusal := .next (s.poolRow r 3)
/-- POOL with FUNC AVG_INCL_BWD. -/
def execPoolAvgInclBwd (r : DRef) (s : State) : Host.Outcome State Fault Refusal := .next (s.poolRow r 4)
/-- POOL with FUNC AVG_EXCL_BWD. -/
def execPoolAvgExclBwd (r : DRef) (s : State) : Host.Outcome State Fault Refusal := .next (s.poolRow r 5)

/-! ## Box decoding (R342) -/

/-- Fetch checks of BOX_DECODE (R342). -/
def boxSpec (d : Desc) : OpSpec :=
  { OpSpec.plain ([bits32 0x40, bits32 0x44, bits32 0x48] ++ (List.range 7).map fun i => bits32 (0x50 + 4 * i)) 1 with
    encOk := [0x40, 0x44, 0x48].all fun o => ptrRule (d.w32 o) true, tdps := [d.w32 0x40, d.w32 0x44, d.w32 0x48] }

/-- A finite positive FP32 pattern. -/
def posFinite (w : Nat) : Bool := (of32 w).isFin && !(of32 w).isZero && !(of32 w).sign

/-- Admission of BOX_DECODE (R342). -/
def admitBox (s : State) (p : Nat) (d : Desc) : Chk Desc := do
  let a ← s.readTd p (d.w32 0x40) 0 .read
  let t ← s.readTd p (d.w32 0x44) 1 .read
  let o ← s.readTd p (d.w32 0x48) 2 .quant
  need ((List.range 6).all (fun i => posFinite (d.w32 (0x50 + 4 * i))) && (of32 (d.w32 0x68)).isFin) 0x08 0xFF
  let fb (x : TensorDesc) : Bool := x.format == fFP32 || x.format == fBF16
  need (o.rank == 3 && o.sz 0 == 4 && fb o) 0x08 2
  need (t.rank == 3 && fb t && t.size == o.size) 0x08 1
  need (a.rank == 3 && a.format == fFP32 && a.sz 0 == 4 && a.sz 1 == o.sz 1 && (a.sz 2 == o.sz 2 || a.sz 2 == 1)) 0x08 0
  s.needOwned (s.part p) (a.planes ++ t.planes ++ o.planes)
  if o.count = 0 then .error (stEmptyOutput, 0)
  else return { d with tds := [(d.w32 0x40, a), (d.w32 0x44, t), (d.w32 0x48, o)], units := ceilDiv (o.sz 1) 1024 * o.sz 2 }

def vvAdd : VVal → VVal → VVal := vv2 fun a b => enc32 (a.add b)
def vvSub : VVal → VVal → VVal := vv2 fun a b => enc32 (a.sub b)
def vvMul : VVal → VVal → VVal := vv2 fun a b => enc32 (a.mul b)
def vvMin : VVal → VVal → VVal := vv2 fun a b => enc32 (a.min b)
def vvMax : VVal → VVal → VVal := vv2 fun a b => enc32 (a.max b)
def vvExp (a : VVal) : VVal := (Fun.exp.eval (of32 a.1), a.2)
def vvHalf : VVal := (0x3F000000, false)

/-- Clamp to [0, hi], NaN excepted. -/
def vvClamp (hi : Nat) (a : VVal) : VVal :=
  if (of32 a.1).isNaN then a else vvMin (vvMax a (0, false)) (hi, false)

/-- The box of one anchor and its deltas (R342); `q` are IMG_W, IMG_H, WX, WY, WW, WH, CLAMP. -/
def boxOf (q a t : List Nat) : List VVal :=
  let v (l : List Nat) (i : Nat) : VVal := (l.getD i 0, false)
  let w := vvSub (v a 2) (v a 0)
  let h := vvSub (v a 3) (v a 1)
  let cx := vvAdd (v a 0) (vvMul vvHalf w)
  let cy := vvAdd (v a 1) (vvMul vvHalf h)
  let px := vvAdd (vvMul (vvDiv (v t 0) (v q 2)) w) cx
  let py := vvAdd (vvMul (vvDiv (v t 1) (v q 3)) h) cy
  let pw := vvMul (vvExp (vvMin (vvDiv (v t 2) (v q 4)) (v q 6))) w
  let ph := vvMul (vvExp (vvMin (vvDiv (v t 3) (v q 5)) (v q 6))) h
  let iw := q.getD 0 0
  let ih := q.getD 1 0
  [vvClamp iw (vvSub px (vvMul vvHalf pw)), vvClamp ih (vvSub py (vvMul vvHalf ph)),
    vvClamp iw (vvAdd px (vvMul vvHalf pw)), vvClamp ih (vvAdd py (vvMul vvHalf ph))]

/-- One unit: 1,024 boxes of one batch item. -/
def Run.boxUnit (r : Run) (d : Desc) (a t o : TensorDesc) (u : Nat) : Run :=
  let nb := max 1 (ceilDiv (o.sz 1) 1024)
  let (b0, z) := (u % nb * 1024, u / nb)
  let q := (List.range 7).map fun i => d.w32 (0x50 + 4 * i)
  (foldS (fun (w : Run) i =>
    let ia := (List.range 4).map fun c => a.index [c, b0 + i, if a.sz 2 = 1 then 0 else z, 0]
    let it := (List.range 4).map fun c => t.index [c, b0 + i, z, 0]
    let w1 := (w.readsElems a ia).readsElems t it
    let res := boxOf q (ia.map fun j => (a.loadF r.s j).1) (it.map fun j => (t.loadF r.s j).1)
    foldS (fun (w : Run) (e : VVal × Nat) => w.writeMade o (o.index [e.2, b0 + i, z, 0]) e.1.1 e.1.2) w1 res.zipIdx) r
    (List.range (min 1024 (o.sz 1 - b0)))).endUnit

def runBox (s : State) (d : Desc) (sl : Slice) (r : DRef) : State :=
  match d.td (d.w32 0x40), d.td (d.w32 0x44), d.td (d.w32 0x48) with
  | some a, some t, some o =>
    (foldS (fun (w : Run) u => w.boxUnit d a t o u) (Run.start s r.part 1 4 sl.clusters d)
      ((List.range sl.count).map (sl.first + ·))).finish r
  | _, _, _ => s

/-- BOX_DECODE. -/
def execBoxDecode (r : DRef) (s : State) : Host.Outcome State Fault Refusal :=
  .next (s.runSlice r 0x0119 fun t d sl => runBox t d sl r)

/-! ## Overlap suppression (R343) -/

/-- Fetch checks of OVERLAP_SUPPRESS (R343). -/
def supSpec (d : Desc) : OpSpec :=
  let iou := of32 (d.w32 0x50)
  { OpSpec.plain [bits32 0x40, bits32 0x44, bits32 0x48, bits32 0x4C, bits32 0x50, bits32 0x54, bitsAt 0x58 0 13] 1 with
    encOk := [0x40, 0x44, 0x48, 0x4C].all (fun o => ptrRule (d.w32 o) true) &&
      decide (1 ≤ d.w32 0x58 ∧ d.w32 0x58 ≤ 4096) && Fp.zero.le iou && iou.le (Fp.ofNat 1) && (of32 (d.w32 0x54)).isFin
    tdps := [d.w32 0x40, d.w32 0x44, d.w32 0x48, d.w32 0x4C] }

/-- Admission of OVERLAP_SUPPRESS (R343). -/
def admitSup (s : State) (p : Nat) (d : Desc) : Chk Desc := do
  let b ← s.readTd p (d.w32 0x40) 0 .read
  let c ← s.readTd p (d.w32 0x44) 1 .read
  let k ← s.readTd p (d.w32 0x48) 2 .plain
  let n ← s.readTd p (d.w32 0x4C) 3 .plain
  let (nb, l) := (b.sz 1, b.sz 2)
  need (b.format == fFP32 && b.rank == 3 && b.sz 0 == 4 && nb ≤ 65536) 0x08 0
  need ((c.format == fFP32 || c.format == fBF16) && c.rank == 2 && c.sz 0 == nb && c.sz 1 == l) 0x08 1
  need (k.format == fI32 && k.rank == 2 && k.sz 0 == d.w32 0x58 && k.sz 1 == l) 0x08 2
  need (n.format == fI32 && n.rank == 2 && n.sz 0 == 1 && n.sz 1 == l) 0x08 3
  s.needOwned (s.part p) (b.planes ++ c.planes ++ k.planes ++ n.planes)
  if l = 0 then .error (stEmptyOutput, 0)
  else return { d with tds := [(d.w32 0x40, b), (d.w32 0x44, c), (d.w32 0x48, k), (d.w32 0x4C, n)], units := l }

/-- Insert into a list sorted by score descending, then by arrival. -/
def insertScore (x : Nat × Fp) : List (Nat × Fp) → List (Nat × Fp)
  | [] => [x]
  | y :: t => if y.2.lt x.2 then x :: y :: t else y :: insertScore x t

/-- iou of two boxes of FP32 words (R343). -/
def iouOf (a b : List Nat) : Nat :=
  let v (l : List Nat) (i : Nat) : VVal := (l.getD i 0, false)
  let pos (x : VVal) : VVal := vvMax (0, false) x
  let area (l : List Nat) : VVal := vvMul (pos (vvSub (v l 2) (v l 0))) (pos (vvSub (v l 3) (v l 1)))
  let inter := vvMul (pos (vvSub (vvMin (v a 2) (v b 2)) (vvMax (v a 0) (v b 0))))
    (pos (vvSub (vvMin (v a 3) (v b 3)) (vvMax (v a 1) (v b 1))))
  let u := vvSub (vvAdd (area a) (area b)) inter
  if (of32 u.1).le Fp.zero then 0 else (vvDiv inter u).1

/-- The boxes kept of candidates in order. -/
def keepBoxes (iou : Fp) (maxOut : Nat) (box : Nat → List Nat) : List Nat → List Nat → List Nat
  | [], kept => kept
  | i :: t, kept =>
    if kept.length = maxOut then kept
    else keepBoxes iou maxOut box t
      (if kept.all fun j => (of32 (iouOf (box i) (box j))).le iou then kept ++ [i] else kept)

/-- One list. -/
def Run.supUnit (r : Run) (d : Desc) (b c k n : TensorDesc) (z : Nat) : Run :=
  let nb := b.sz 1
  let maxOut := d.w32 0x58
  let bi (i : Nat) : List Nat := (List.range 4).map fun e => b.index [e, i, z, 0]
  let r1 := (r.readsElems c ((List.range nb).map fun i => c.index [i, z, 0, 0])).readsElems b ((List.range nb).flatMap bi)
  let box (i : Nat) : List Nat := (bi i).map fun j => (b.loadF r.s j).1
  let cand := (List.range nb).filterMap fun i =>
    let v := (c.val r.s (c.index [i, z, 0, 0])).1
    if (of32 (d.w32 0x54)).le v && (box i).all fun w => (of32 w).isFin then some (i, v) else none
  let sorted := foldS (fun l x => insertScore x l) ([] : List (Nat × Fp)) cand
  let kept := keepBoxes (of32 (d.w32 0x50)) maxOut box (sorted.map fun x => x.1) []
  let r2 := foldS (fun (w : Run) i => w.wrN (k.elemAddr (k.index [i, z, 0, 0])) 4 (kept.getD i 0xFFFFFFFF)) r1
    (List.range maxOut)
  (r2.wrN (n.elemAddr (n.index [0, z, 0, 0])) 4 kept.length).endUnit

def runSup (s : State) (d : Desc) (sl : Slice) (r : DRef) : State :=
  match d.td (d.w32 0x40), d.td (d.w32 0x44), d.td (d.w32 0x48), d.td (d.w32 0x4C) with
  | some b, some c, some k, some n =>
    (foldS (fun (w : Run) u => w.supUnit d b c k n u) (Run.start s r.part 1 4 sl.clusters d)
      ((List.range sl.count).map (sl.first + ·))).finish r
  | _, _, _, _ => s

/-- OVERLAP_SUPPRESS. -/
def execOverlapSuppress (r : DRef) (s : State) : Host.Outcome State Fault Refusal :=
  .next (s.runSlice r 0x011A fun t d sl => runSup t d sl r)

end Sys2Proof.Machine
end

