-- ==== Sys2Proof/Machine/Attn.lean ====
section
/-!
DEFINITION. Attention and the paged key-value cache (R346 to R375).
-/

namespace Sys2Proof.Machine

/-! ## Marks and masks (R347 to R349) -/

/-- One segment mark (R313). -/
structure Mark where
  start : Nat
  len : Nat
  hole : Bool
  posReset : Bool
  isolate : Bool
deriving DecidableEq, Repr

/-- The marks of a table's bytes; `n` entries. -/
def parseMarks (l : List Byte) (n : Nat) : List Mark :=
  (List.range n).map fun i =>
    let w (o : Nat) : Nat := leNat (sliceList l (16 * i + o) 4)
    ⟨w 0, w 4, bitOf (w 8) 16, bitOf (w 8) 17, bitOf (w 8) 18⟩

/-- The rules of a mark table (R347): spans from position `lo` on, starts rising, no overlap, within 2^20 positions. -/
def marksOk : Nat → List Mark → Bool
  | _, [] => true
  | lo, m :: t => decide (lo ≤ m.start ∧ 1 ≤ m.len ∧ m.start + m.len ≤ 1048576) && marksOk (m.start + m.len) t

/-- Each mark with the START of the mark that began its document (R348). -/
def docStarts : Option Nat → List Mark → List (Mark × Nat)
  | _, [] => []
  | d?, m :: t =>
    let d := if m.posReset then m.start else d?.getD m.start
    (m, d) :: docStarts (some d) t

/-- The mark that covers a row position, with its document's START. -/
def markAt (l : List (Mark × Nat)) (x : Nat) : Option (Mark × Nat) :=
  l.find? fun m => decide (m.1.start ≤ x ∧ x < m.1.start + m.1.len)

/-- pos(x), or −1 where no mark covers x (R348). -/
def posAt (l : List (Mark × Nat)) (x : Nat) : Int := match markAt l x with
  | some (_, d) => (x : Int) - d
  | none => -1

/-- A query at `q` may attend the key at `k` (R349), the key range aside. Document 0 begins at the first mark, so two
marks lie in one document exactly where their documents have one START. -/
def pairAllowed (l : List (Mark × Nat)) (mask q k : Nat) : Bool :=
  match markAt l q, markAt l k with
  | some (a, da), some (b, db) =>
    let same := a.start == b.start
    !a.hole && !b.hole && da == db && (!(a.isolate || b.isolate) || same) &&
    (if mask = 0 then decide (k ≤ q) else if mask = 1 then true else decide (k ≤ q) || same)
  | _, _ => false

/-! ## Parameters (R350, R351) -/

/-- The fields of a training pass. -/
structure AttnPar where
  mask : Nat
  qBase : Nat
  qn : Nat
  kBase : Nat
  kn : Nat
  split : Nat
  recompute : Bool
  scale : Nat
deriving DecidableEq, Repr

def Desc.attnPar (d : Desc) : AttnPar :=
  let a := d.w64 0x68
  let b := d.w64 0x70
  let c := d.w32 0x78
  ⟨fld a 55 54, fld b 19 0, fld b 39 20 + 1, fld b 59 40, fld c 19 0 + 1, fld c 22 20, bitOf c 28, d.w32 0x7C⟩

def Desc.attnPtr (d : Desc) (i : Nat) : Nat := d.w32 (0x40 + 4 * i)
def Desc.markCount (d : Desc) : Nat := fld (d.w64 0x68) 53 44 + 1
def Desc.attnTd (d : Desc) (i : Nat) : Option TensorDesc :=
  if d.attnPtr i = noTensor then none else d.td (d.attnPtr i)

/-- What an opcode does with each tensor: 0 absent, 1 required, 2 optional. -/
def attnRole (op : Nat) (rec : Bool) (i : Nat) : Nat :=
  if op = 0x0300 then [1, 1, 1, 2, 0, 0, 0, 0, 0].getD i 0
  else if op = 0x0301 then [0, 0, 1, 0, 1, 0, 0, 0, 0].getD i 0
  else if op = 0x0302 then [0, 0, 1, 0, 0, 1, 1, 0, 0].getD i 0
  else if rec then [1, 1, 2, 0, 1, 1, 1, 1, 1].getD i 0
  else [0, 0, 1, 0, 1, 1, 1, 1, 1].getD i 0

/-- The opcode writes a tensor. -/
def attnWrites (op : Nat) (rec : Bool) (i : Nat) : Bool :=
  if op = 0x0300 then i == 2 || i == 3
  else if op = 0x0301 then i == 2 || i == 4
  else if op = 0x0302 then i == 6
  else i == 8 || (rec && i == 2)

/-- What an opcode does with a tensor it names: a matrix pass writes without a quantiser (R351). -/
def attnDoes (op : Nat) (rec : Bool) (i : Nat) : TdRole :=
  if !attnWrites op rec i then .read else if op = 0x0300 ∨ op = 0x0302 then .plain else .quant

/-- An ATTN_SCORE that writes POS alone (R351). -/
def Desc.posAlone (d : Desc) : Bool := d.opcode == 0x0300 && (List.range 3).all fun i => d.attnPtr i == noTensor

/-- Fetch checks of the training passes (R350). -/
def attnSpec (d : Desc) : OpSpec :=
  let q := d.attnPar
  { mask := (List.range 9).map (fun i => bits32 (0x40 + 4 * i)) ++
      [bitsAt 0x68 0 56, bitsAt 0x70 0 60, bitsAt 0x78 0 29, bits32 0x7C]
    encOk := q.mask ≠ 3 && q.split ≤ 4 &&
      (d.posAlone || (List.range 9).all fun i => match attnRole d.opcode q.recompute i with
        | 0 => ptrRule (d.attnPtr i) false
        | 1 => ptrRule (d.attnPtr i) true
        | _ => true) &&
      (!d.posAlone || (List.range 9).all fun i => i < 4 || ptrRule (d.attnPtr i) false) &&
      posFinite q.scale
    tdps := (List.range 9).map d.attnPtr, ranges := [(d.addr 0x68, 16 * d.markCount, 16)], win := [], set := 1,
    units := [], assigned := true }

/-- The marks read at admission, with their documents. -/
def Desc.marks (d : Desc) : List (Mark × Nat) := docStarts none (parseMarks d.list d.markCount)

/-- The pair (row i, key k) of a descriptor is allowed. -/
def Desc.allowed (d : Desc) (i k : Nat) : Bool :=
  let q := d.attnPar
  pairAllowed d.marks q.mask (q.qBase + i) (q.kBase + k)

/-- Rows or columns of a tile. -/
def tileRange (t n : Nat) : List Nat := (List.range (min 32 (n - 32 * t))).map (32 * t + ·)

/-- A score tile holds an allowed pair (R354). -/
def Desc.live (d : Desc) (tq tk : Nat) : Bool :=
  let q := d.attnPar
  (tileRange tq q.qn).any fun i => (tileRange tk q.kn).any fun k => d.allowed i k

/-- Live tiles of one head, row by row. -/
def Desc.liveTiles (d : Desc) : List (Nat × Nat) :=
  let q := d.attnPar
  (List.range (ceilDiv q.qn 32)).flatMap fun a => (List.range (ceilDiv q.kn 32)).filterMap fun b =>
    if d.live a b then some (a, b) else none

/-- The tiles of 32 query rows that have a live tile (R357, R374). -/
def Desc.liveRows (d : Desc) : List Nat :=
  let q := d.attnPar
  (List.range (ceilDiv q.qn 32)).filter fun a => (List.range (ceilDiv q.kn 32)).any fun b => d.live a b

/-- Query heads, and Dh, of a pass. -/
def Desc.attnHeads (d : Desc) : Nat :=
  match d.attnTd 2, d.attnTd 8 with
  | some t, _ | none, some t => t.sz 2
  | none, none => 0

/-- Key heads from K or V. -/
def Desc.attnKeyHeads (d : Desc) : Nat :=
  match d.attnTd 1, d.attnTd 5 with
  | some t, _ | none, some t => t.sz 2
  | none, none => 1

/-- The key head of query head `h` (R351). -/
def keyHead (h hk hq : Nat) : Nat := h * hk / max 1 hq

/-- Admission of the training passes (R347, R351, R352). Units are parts of live tiles, or query blocks (R374); a matrix pass
without a live tile still runs one, which computes nothing (DESIGN CHOICE, log entry 48). -/
def admitAttn (s : State) (p : Nat) (d : Desc) : Chk Desc := do
  let q := d.attnPar
  let op := d.opcode
  if q.qBase + q.qn - 1 > 1048575 ∨ q.kBase + q.kn - 1 > 1048575 then .error (stSeqLimit, 0)
  s.needClean (d.addr 0x68) (16 * d.markCount)
  let list := s.rdBytes (d.addr 0x68) (16 * d.markCount)
  need (marksOk 0 (parseMarks list d.markCount)) 0x08 0xFF
  let tds ← (List.range 9).foldlM (init := ([] : List (Nat × TensorDesc))) fun l i =>
    if d.attnPtr i = noTensor then .ok l
    else (s.readTd p (d.attnPtr i) i (attnDoes op q.recompute i)).map fun t => l ++ [(d.attnPtr i, t)]
  let d' := { d with tds := tds, list := list }
  let h := d'.attnHeads
  let hk := d'.attnKeyHeads
  let dh := match d'.attnTd 0, d'.attnTd 6 with
    | some t, _ | none, some t => t.sz 0
    | none, none => 0
  let shape (i : Nat) (a b c : Nat) : Chk Unit := match d'.attnTd i with
    | some t => need (t.sz 0 == a && t.sz 1 == b && t.sz 2 == c && t.sz 3 == 1) 0x08 i
    | none => .ok ()
  let fmt (i : Nat) (f : TensorDesc → Bool) : Chk Unit := match d'.attnTd i with
    | some t => need (f t) 0x08 i
    | none => .ok ()
  shape 0 dh q.qn h
  shape 1 dh q.kn hk
  shape 2 q.kn q.qn h
  shape 3 q.qn 1 1
  shape 4 2 q.qn h
  shape 5 dh q.kn hk
  shape 6 dh q.qn h
  shape 7 dh q.qn h
  shape 8 q.kn q.qn h
  need (decide (0 < hk) && h % max 1 hk == 0) 0x08 0xFF
  match d'.attnTd 0, d'.attnTd 1 with
  | some a, some b => need (pairOk a.format b.format && kBlocked a 0 && kBlocked b 0) 0x08 1
  | _, _ => .ok ()
  fmt 2 fun t => t.format == fBF16
  fmt 3 fun t => t.format == fI32
  fmt 4 fun t => t.format == fFP32
  fmt 5 fun t => t.format == fBF16 || (t.format == fXC16 && t.blockDim == 1)
  fmt 6 fun t => t.format == fFP32 || t.format == fBF16
  fmt 7 fun t => t.format == fFP32 || t.format == fBF16
  fmt 8 fun t => t.format == fBF16
  -- every BF16 output is rounded by RNE
  let out (i : Nat) : Chk Unit := if attnWrites op q.recompute i then fmt i fun t => !t.rmode else .ok ()
  out 2
  out 6
  out 8
  s.needOwned (s.part p) ((d.addr 0x68, 16 * d.markCount) :: tds.flatMap fun e => e.2.planes)
  let n := 2 ^ q.split
  let units := if op = 0x0300 then d'.liveTiles.length * h * n
    else if op = 0x0302 then d'.liveRows.length * ceilDiv dh 32 * h * n
    else ceilDiv q.qn 128 * h
  if !d.posAlone && (h = 0 ∨ (op ≠ 0x0301 ∧ op ≠ 0x0300 ∧ dh = 0)) then .error (stEmptyOutput, 0)
  else return { d' with units := max 1 units }

/-! ## Dot products on the array -/

/-- The groups of a dot product over dimension 0 of two tensors. -/
def dotGroups (s : State) (a b : TensorDesc) (ia ib : Nat → Nat) (n : Nat) : List (MGroup × MGroup) :=
  (groups32 (List.range n)).map fun g => (a.group s (g.map ia), b.group s (g.map ib))

/-- The result of a reduction over groups, s = 2^ls. -/
def dotAll (f : Fp) (ls : Nat) (l : List (MGroup × MGroup)) : Acc :=
  reduceAll f .zero (l.map (·.1)) (l.map (·.2)) ls

/-- The cause of a NaN made in part `j`. -/
def dotPart (f : Fp) (ls j : Nat) (l : List (MGroup × MGroup)) : Option Nat :=
  (reducePart f .zero (l.map (·.1)) (l.map (·.2)) (2 ^ ls) j).2

/-- One part of an output tile: its NaNs, and with the last part the results. `elems` are output index and groups. -/
def Run.dotUnit (r : Run) (o : TensorDesc) (f : Fp) (ls j : Nat) (elems : List (Nat × List (MGroup × MGroup)))
    (write : Run → Nat → Fp → Run) : Run :=
  let part := elems.filterMap fun (i, l) => (dotPart f ls j l).map fun c => r.evt c o.id o.size i
  let r1 := { r with nans := r.nans ++ part }
  if j + 1 < 2 ^ ls then r1
  else
    let res := elems.map fun (i, l) => (i, dotAll f ls l, (List.range (2 ^ ls)).any fun k => (dotPart f ls k l).isSome)
    let late := res.filterMap fun (i, v, made) => if made then none else v.2.map fun c => r.evt c o.id o.size i
    foldS (fun (w : Run) (v : Nat × Acc × Bool) => write w v.1 v.2.1.1) { r1 with nans := r1.nans ++ late } res

/-- A score: W48 to FP32, times SCALE, to BF16 (R353). -/
def scoreWord (scale : Nat) (v : Fp) : Nat := encBf none (of32 (enc32 ((of32 (enc32 v)).mul (of32 scale))))

/-- Write POS (R353). -/
def Run.writePos (r : Run) (d : Desc) (o : TensorDesc) : Run :=
  let q := d.attnPar
  foldS (fun (w : Run) i => w.wrN (o.elemAddr i) 4 (ofSigned 32 (posAt d.marks (q.qBase + i)))) r (List.range q.qn)

/-- One unit of ATTN_SCORE: a part of a live tile; the first also writes POS. -/
def Run.scoreUnit (r : Run) (d : Desc) (u : Nat) : Run :=
  let q := d.attnPar
  let n := 2 ^ q.split
  let live := d.liveTiles
  let r0 := match d.attnTd 3 with
    | some o => if u = 0 then r.writePos d o else r
    | none => r
  match d.attnTd 0, d.attnTd 1, d.attnTd 2 with
  | some a, some b, some o =>
    if live.isEmpty ∨ u / n / max 1 live.length ≥ o.sz 2 then r0
    else
      let (tq, tk) := live.getD (u / n % max 1 live.length) (0, 0)
      let h := u / n / max 1 live.length
      let g := keyHead h (b.sz 2) (a.sz 2)
      let dh := a.sz 0
      let rows := tileRange tq q.qn
      let cols := tileRange tk q.kn
      let (lo, hi) := partRange (ceilDiv dh 32) n (u % n)
      let ks := (List.range (min (32 * hi) dh - 32 * lo)).map (32 * lo + ·)
      let r1 := (r0.readsElems a (rows.flatMap fun i => ks.map fun e => a.index [e, i, h, 0])).readsElems b
        (cols.flatMap fun k => ks.map fun e => b.index [e, k, g, 0])
      let elems := rows.flatMap fun i => cols.map fun k =>
        (o.index [k, i, h, 0], dotGroups r.s a b (fun e => a.index [e, i, h, 0]) (fun e => b.index [e, k, g, 0]) dh)
      r1.dotUnit o (outerFactor a b) q.split (u % n) elems fun w i v => w.wrN (o.elemAddr i) 2 (scoreWord q.scale v)
  | _, _, _ => r0

/-- ATTN_SCORE: the running slice's units. -/
def runAttn (s : State) (d : Desc) (sl : Slice) (r : DRef) (kind engines : Nat) (f : Run → Desc → Nat → Run) : State :=
  (foldS (fun (w : Run) u => f w d u) (Run.start s r.part kind engines sl.clusters d)
    ((List.range sl.count).map (sl.first + ·))).finish r

/-- ATTN_SCORE. -/
def execAttnScore (r : DRef) (s : State) : Host.Outcome State Fault Refusal :=
  .next (s.runSlice r 0x0300 fun t d sl => runAttn t d sl r 0 coresPerCluster Run.scoreUnit)

/-! ## Normalisation (R355, R356) -/

/-- The tree of R147 over a list of up to 32 values, +0 beyond: FP32 sums and whether a step made a NaN. -/
def laneSum (l : List VVal) : VVal :=
  treeUp (fun a b => vvAdd a b) (0, false) 5 ((List.range 32).map fun i => l.getD i (0, false))

/-- m, and for a row's live tiles the exponentials of allowed keys: (k, e[k]); then l (R355). `score` gives S. -/
def softRow (score : Nat → Option Nat) (tiles : List (List Nat)) : Nat × List (Nat × VVal) × VVal :=
  let a := tiles.flatMap fun t => t.filterMap fun k => (score k).map fun w => w
  let m := enc32 (a.foldl (fun x w => x.max (of32 w)) .nan)
  let es := tiles.map fun t => t.map fun k => match score k with
    | some w => (k, vvExp (vvSub (w, false) (m, false)), true)
    | none => (k, ((0, false) : VVal), false)
  let l := es.foldl (fun (x : VVal) t => vvAdd x (laneSum (t.map fun e => e.2.1))) ((0, false) : VVal)
  (m, es.flatMap (fun t => t.filterMap fun e => if e.2.2 then some (e.1, e.2.1) else none), l)

/-- P of one pair from e and r: BF16 by RNE. -/
def probOf (e r : Nat) : VVal := vvMul (e, false) (r, false)

/-- Columns of the live and of the other tiles of a row tile. -/
def Desc.rowTiles (d : Desc) (tq : Nat) : List (List Nat) × List Nat :=
  let q := d.attnPar
  let all := List.range (ceilDiv q.kn 32)
  ((all.filter fun t => d.live tq t).map fun t => tileRange t q.kn,
   (all.filter fun t => !d.live tq t).flatMap fun t => tileRange t q.kn)

/-- One row of ATTN_NORM. A NaN of the row's sum is named by its first allowed key (DESIGN CHOICE, log entry 55). -/
def Run.normRow (r : Run) (d : Desc) (t st : TensorDesc) (h i : Nat) : Run :=
  let (tiles, dead) := d.rowTiles (i / 32)
  let idx (k : Nat) : Nat := t.index [k, i, h, 0]
  let put (w : Run) (k word : Nat) : Run := w.wrN (t.elemAddr (idx k)) 2 word
  let stat (w : Run) (m l : Nat) : Run :=
    (w.wrN (st.elemAddr (st.index [0, i, h, 0])) 4 m).wrN (st.elemAddr (st.index [1, i, h, 0])) 4 l
  let r0 := foldS (fun (w : Run) k => put w k 0) r dead
  let live := tiles.flatMap id
  let keys := live.filter fun k => d.allowed i k
  if keys.isEmpty then stat (foldS (fun (w : Run) k => put w k 0) r0 live) (neg32 + inf32) 0
  else
    let r1 := r0.readsElems t (live.map idx)
    let score (k : Nat) : Option Nat := if d.allowed i k then some (enc32 (t.val r0.s (idx k)).1) else none
    let (m, es, l) := softRow score tiles
    let rc := fpDiv fmt32 (.fin false 1 0) (of32 l.1)
    let r2 := r1.raise (es.filterMap fun (k, e) => if e.2 then some (r.evt 0 t.id t.size (idx k)) else none)
    let r3 := if l.2 then r2.raise [r.evt 0 t.id t.size (idx (keys.getD 0 0))] else r2
    let r4 := foldS (fun (w : Run) k => match tlook es k with
      | some e =>
        let p := probOf e.1 rc
        let w1 := if p.2 then w.raise [r.evt 0 t.id t.size (idx k)] else w
        w1.writeElem t (idx k) (of32 p.1) (t.id, t.size, idx k)
      | none => put w k 0) r3 live
    stat r4 m l.1

/-- One unit of ATTN_NORM: a query block of one head. -/
def Run.normUnit (r : Run) (d : Desc) (u : Nat) : Run :=
  let q := d.attnPar
  match d.attnTd 2, d.attnTd 4 with
  | some t, some st =>
    let nb := max 1 (ceilDiv q.qn 128)
    (foldS (fun (w : Run) i => w.normRow d t st (u / nb) i) r
      ((List.range (min 128 (q.qn - 128 * (u % nb)))).map (128 * (u % nb) + ·))).endUnit
  | _, _ => r

/-- ATTN_NORM. -/
def execAttnNorm (r : DRef) (s : State) : Host.Outcome State Fault Refusal :=
  .next (s.runSlice r 0x0301 fun t d sl => runAttn t d sl r 1 4 Run.normUnit)

/-! ## Values (R357) -/

/-- Rows without a live tile have no key groups, so their outputs are +0: no unit stands for them, and the first writes them
(DEDUCED, log entry 48). -/
def Run.pvZero (r : Run) (d : Desc) (o : TensorDesc) : Run :=
  let q := d.attnPar
  let rows := ((List.range (ceilDiv q.qn 32)).filter fun a => !d.liveRows.contains a).flatMap fun a => tileRange a q.qn
  foldS (fun (w : Run) i => w.writeMatrix o i .zero) r
    ((List.range (o.sz 2)).flatMap fun h => rows.flatMap fun i => (List.range (o.sz 0)).map fun e => o.index [e, i, h, 0])

/-- One unit of ATTN_PV: a part of a live output tile, over the key groups of the rows' live tiles. -/
def Run.pvUnit (r : Run) (d : Desc) (u : Nat) : Run :=
  let q := d.attnPar
  let n := 2 ^ q.split
  match d.attnTd 2, d.attnTd 5, d.attnTd 6 with
  | some t, some v, some o =>
    let live := d.liveRows
    let r0 := if u = 0 then r.pvZero d o else r
    let nd := max 1 (ceilDiv (o.sz 0) 32)
    let nq := max 1 live.length
    let (td, tq, h) := (u / n % nd, live.getD (u / n / nd % nq) 0, u / n / (nd * nq))
    let g := keyHead h (v.sz 2) (t.sz 2)
    let (tiles, _) := d.rowTiles tq
    let (lo, hi) := partRange tiles.length n (u % n)
    let rows := tileRange tq q.qn
    let cols := tileRange td (o.sz 0)
    let ks := (sliceList tiles lo (hi - lo)).flatMap id
    if live.isEmpty then r0
    else
      let r1 := (r0.readsElems t (rows.flatMap fun i => ks.map fun k => t.index [k, i, h, 0])).readsElems v
        (cols.flatMap fun e => ks.map fun k => v.index [e, k, g, 0])
      let elems := rows.flatMap fun i => cols.map fun e =>
        (o.index [e, i, h, 0], tiles.map fun l =>
          (t.group r.s (l.map fun k => t.index [k, i, h, 0]), v.group r.s (l.map fun k => v.index [e, k, g, 0])))
      r1.dotUnit o (.fin false 1 0) q.split (u % n) elems fun w i x => w.writeMatrix o i x
  | _, _, _ => r

/-- ATTN_PV. -/
def execAttnPv (r : DRef) (s : State) : Host.Outcome State Fault Refusal :=
  .next (s.runSlice r 0x0302 fun t d sl => runAttn t d sl r 0 coresPerCluster Run.pvUnit)

/-! ## Gradients (R358) -/

/-- D of one row: tile sums of dO · O over Dh in ascending tile order. -/
def rowD (s : State) (dO o : TensorDesc) (h i : Nat) : VVal :=
  let w (t : TensorDesc) (e : Nat) : VVal := (enc32 (t.val s (t.index [e, i, h, 0])).1, false)
  let sums := (groups32 (List.range (o.sz 0))).map fun g => laneSum (g.map fun e => vvMul (w dO e) (w o e))
  match sums with
  | [] => (0, false)
  | x :: t => t.foldl vvAdd x

/-- A position the row leaves out: zero in dS, and in P where P is recomputed. -/
def Run.bwdZero (r : Run) (d : Desc) (ds : TensorDesc) (h i k : Nat) : Run :=
  let r1 := r.wrN (ds.elemAddr (ds.index [k, i, h, 0])) 2 0
  match d.attnTd 2 with
  | some p => if d.attnPar.recompute then r1.wrN (p.elemAddr (p.index [k, i, h, 0])) 2 0 else r1
  | none => r1

/-- The weight P of one key: stored, or recomputed from Q, K and the row's statistics. -/
def State.bwdProb (s : State) (d : Desc) (st : TensorDesc) (dh h i k : Nat) : VVal × Option Nat :=
  let q := d.attnPar
  let stat (e : Nat) : Nat := st.raw s (st.index [e, i, h, 0])
  if q.recompute then
    match d.attnTd 0, d.attnTd 1 with
    | some a, some b =>
      let acc := dotAll (outerFactor a b) q.split
        (dotGroups s a b (fun e => a.index [e, i, h, 0]) (fun e => b.index [e, k, keyHead h (b.sz 2) (a.sz 2), 0]) dh)
      let sc := enc32 (ofBf (scoreWord q.scale acc.1))
      let e := vvExp (vvSub (sc, false) (stat 0, false))
      let p := vvMul e (fpDiv fmt32 (.fin false 1 0) (of32 (stat 1)), false)
      ((enc32 (ofBf (encBf none (of32 p.1))), p.2), acc.2)
    | _, _ => ((0, false), none)
  else match d.attnTd 2 with
    | some p => ((enc32 (p.val s (p.index [k, i, h, 0])).1, false), none)
    | none => ((0, false), none)

/-- The reads of one row that has keys. -/
def Run.bwdReads (r : Run) (d : Desc) (st v o dO : TensorDesc) (h i : Nat) (keys : List Nat) : Run :=
  let dhs := List.range (o.sz 0)
  let r1 := ((r.readsElems dO (dhs.map fun e => dO.index [e, i, h, 0])).readsElems o
    (dhs.map fun e => o.index [e, i, h, 0])).readsElems v
      (keys.flatMap fun k => dhs.map fun e => v.index [e, k, keyHead h (v.sz 2) (o.sz 2), 0])
  if d.attnPar.recompute then
    match d.attnTd 0, d.attnTd 1 with
    | some a, some b => ((r1.readsElems a (dhs.map fun e => a.index [e, i, h, 0])).readsElems b
        (keys.flatMap fun k => dhs.map fun e => b.index [e, k, keyHead h (b.sz 2) (a.sz 2), 0])).reads
        [(st.elemAddr (st.index [0, i, h, 0]), 4), (st.elemAddr (st.index [1, i, h, 0]), 4)]
    | _, _ => r1
  else match d.attnTd 2 with
    | some p => r1.readsElems p (keys.map fun k => p.index [k, i, h, 0])
    | none => r1

/-- A NaN event where there is one. -/
def Run.raiseIf (r : Run) (e : Option NanEvt) : Run :=
  match e with
  | some v => r.raise [v]
  | none => r

/-- One key of a row, from the state `s` the row began in: dS of it, and P of it where P is recomputed. A NaN of the recomputed score
or of dP is named by the dS element (DESIGN CHOICE, log entry 55). -/
def Run.bwdCell (r : Run) (d : Desc) (s : State) (st v o dO ds : TensorDesc) (big : VVal) (h i k : Nat) : Run :=
  let q := d.attnPar
  let dhs := List.range (o.sz 0)
  let j := ds.index [k, i, h, 0]
  let core (c : Nat) : NanEvt := ⟨c, 0, ds.id, ds.coords j, j, r.clusters, coresPerCluster, (0, 0), 0⟩
  let dp := dotAll (.fin false 1 0) q.split
    ((groups32 dhs).map fun l => (dO.group s (l.map fun e => dO.index [e, i, h, 0]),
      v.group s (l.map fun e => v.index [e, k, keyHead h (v.sz 2) (o.sz 2), 0])))
  let (p, pc) := s.bwdProb d st (o.sz 0) h i k
  let res := vvMul (q.scale, false) (vvMul p (vvSub (enc32 dp.1, false) big))
  let r1 := (r.raiseIf (pc.map core)).raiseIf (dp.2.map core)
  let r2 := r1.raiseIf (if res.2 then some (r1.evt 0 ds.id ds.size j) else none)
  let r3 := r2.writeElem ds j (of32 res.1) (ds.id, ds.size, j)
  match d.attnTd 2 with
  | some pt => if q.recompute then
      let i2 := pt.index [k, i, h, 0]
      r3.writeElem pt i2 (of32 p.1) (pt.id, pt.size, i2) else r3
  | none => r3

/-- One row of ATTN_BWD. -/
def Run.bwdRow (r : Run) (d : Desc) (st v o dO ds : TensorDesc) (h i : Nat) : Run :=
  let (tiles, dead) := d.rowTiles (i / 32)
  let live := tiles.flatMap id
  let keys := live.filter fun k => d.allowed i k
  let r0 := foldS (fun w k => w.bwdZero d ds h i k) r (dead ++ live.filter fun k => !d.allowed i k)
  if keys.isEmpty then r0
  else foldS (fun (w : Run) k => w.bwdCell d r.s st v o dO ds (rowD r.s dO o h i) h i k)
    (r0.bwdReads d st v o dO h i keys) keys

/-- One unit of ATTN_BWD: a query block of one head. -/
def Run.bwdUnit (r : Run) (d : Desc) (u : Nat) : Run :=
  let q := d.attnPar
  match d.attnTd 4, d.attnTd 5, d.attnTd 6, d.attnTd 7, d.attnTd 8 with
  | some st, some v, some o, some dO, some ds =>
    let nb := max 1 (ceilDiv q.qn 128)
    (foldS (fun (w : Run) i => w.bwdRow d st v o dO ds (u / nb) i) r
      ((List.range (min 128 (q.qn - 128 * (u % nb)))).map (128 * (u % nb) + ·))).endUnit
  | _, _, _, _, _ => r

/-- ATTN_BWD. -/
def execAttnBwd (r : DRef) (s : State) : Host.Outcome State Fault Refusal :=
  .next (s.runSlice r 0x0303 fun t d sl => runAttn t d sl r 1 4 Run.bwdUnit)

end Sys2Proof.Machine
end

