-- ==== Sys2Proof/Machine/Cache.lean ====
section
/-!
DEFINITION. The paged key-value cache: contexts, pages, DECODE_STEP, PAGE_RELEASE, SEQ_RESUME, pre-emption
(R360 to R375).

A DECODE_STEP's `seqStat` holds each listed sequence's number with its state: below 256 the final status byte (R368);
else bit 12 with the heads left in bits 8 to 0, bit 13 while it waits for pages, bit 14 where this descriptor took
pages for it, bit 15 while it is being swapped out.
-/

namespace Sys2Proof.Machine

/-! ## Contexts (R360) -/

/-- A sequence context as read. -/
structure SeqCtx where
  valid : Bool
  preempted : Bool
  priority : Nat
  format : Nat
  sr : Bool
  dh32 : Nat
  hk : Nat
  layers : Nat
  length : Nat
  tid : Nat
  pt : Nat
  pmax : Nat
  swap : Nat
  swapHost : Bool
  token : Nat
  gen : Nat
deriving DecidableEq, Repr

def Part.seqAddr (pt : Part) (n : Nat) : Nat := pt.page.seqBase + 64 * n

/-- The fields of a context's 64 bytes. -/
def SeqCtx.parse (b : List Byte) : SeqCtx :=
  let w (o : Nat) : Nat := leNat (sliceList b o 4)
  let d (o : Nat) : Nat := leNat (sliceList b o 8)
  { valid := bitOf (w 0) 0, preempted := bitOf (w 0) 1, priority := fld (w 0) 5 2, format := fld (w 0) 7 6,
    sr := bitOf (w 0) 8, dh32 := fld (w 0) 20 16, hk := fld (w 4) 7 0 + 1, layers := fld (w 4) 15 8 + 1,
    length := fld (w 8) 20 0, tid := w 0xC, pt := fld (d 0x10) 43 0, pmax := fld (d 0x18) 19 0, swap := d 0x20,
    swapHost := bitOf (d 0x28) 0, token := d 0x30, gen := fld (d 0x38) 30 0 }

/-- The 64 bytes of sequence context `n`, where they lie within the partition. -/
def State.ctxCells (s : State) (pt : Part) (n : Nat) : List (Nat × Nat) :=
  if s.inRange pt (pt.seqAddr n) 64 then [(pt.seqAddr n, 64)] else []

/-- The context's page table and the page area lie within the partition (R362, R546). -/
def State.seqMapped (s : State) (pt : Part) (c : SeqCtx) : Bool :=
  s.inRange pt c.pt (4 * (c.layers * c.hk * c.pmax)) && s.inRange pt pt.page.pageBase (65536 * pt.page.pageCount)

/-- Sequence context `n`. One that lies outside the partition, or whose page table or pages do, holds no valid sequence
(DEDUCED, log entry 47). -/
def State.seqCtx (s : State) (pt : Part) (n : Nat) : SeqCtx :=
  let c := SeqCtx.parse (if s.inRange pt (pt.seqAddr n) 64 then s.rdBytes (pt.seqAddr n) 64 else List.replicate 64 0)
  { c with valid := c.valid && s.seqMapped pt c }

/-- The page table of sequence `n`, where its context is valid. -/
def State.tableCells (s : State) (pt : Part) (n : Nat) : List (Nat × Nat) :=
  let c := s.seqCtx pt n
  if c.valid then [(c.pt, 4 * (c.layers * c.hk * c.pmax))] else []

/-- Dh of a context. -/
def SeqCtx.dh (c : SeqCtx) : Nat := 32 * c.dh32

/-- Bytes of `n` codes of the page format: SB8 or SB4. -/
def SeqCtx.codeBytes (c : SeqCtx) (n : Nat) : Nat := if c.format = 0 then n else n / 2

/-- Positions per page (R361). -/
def SeqCtx.tpp (c : SeqCtx) : Nat :=
  min (65536 / max 1 (2 * (c.codeBytes c.dh + c.dh32))) 4096

/-- Positions a sequence can store (R362). -/
def SeqCtx.capacity (c : SeqCtx) : Nat := min (c.pmax * c.tpp) 1048576

/-- Address of a page-table entry (R362). -/
def SeqCtx.entryAddr (c : SeqCtx) (i : Nat) : Nat := c.pt + 4 * i
def SeqCtx.entryIndex (c : SeqCtx) (layer g i : Nat) : Nat := (layer * c.hk + g) * c.pmax + i

/-- A page-table entry is valid. -/
def State.pteValid (s : State) (c : SeqCtx) (i : Nat) : Bool := bitOf (s.rdN (c.entryAddr i) 4) 31

/-- The page number of an entry. -/
def State.pageNo (s : State) (c : SeqCtx) (i : Nat) : Nat := fld (s.rdN (c.entryAddr i) 4) 23 0

/-- Address of the page an entry names. -/
def State.pageOf (s : State) (pt : Part) (c : SeqCtx) (i : Nat) : Nat := pt.page.pageBase + 65536 * s.pageNo c i

/-- The valid entries of a sequence, in page-table order. -/
def State.validEntries (s : State) (c : SeqCtx) : List Nat :=
  (List.range (c.layers * c.hk * c.pmax)).filter (s.pteValid c)

/-- The device writes a number of its own, a context's field, a page-table entry or a pool's word, which may lie in a registered
buffer (R249). -/
def State.wrOwn (s : State) (p a n v : Nat) : State := (s.wrN a n v).lateWrites p [(a, n)]

/-- Set a bit, or a field, of a context's 32-bit word. -/
def State.setSeqWord (s : State) (p n off v : Nat) : State := s.wrOwn p ((s.part p).seqAddr n + off) 4 v

/-! ## The cullet pool (R363) -/

def State.poolTaken (s : State) (pt : Part) : Nat := s.rdN pt.page.culletBase 4
def State.poolGiven (s : State) (pt : Part) : Nat := s.rdN (pt.page.culletBase + 4) 4
def State.poolCap (s : State) (pt : Part) : Nat := 2 ^ fld (s.rdN (pt.page.culletBase + 8) 4) 4 0
/-- The pool's header and ring lie within the partition (R546). -/
def State.poolMapped (s : State) (pt : Part) : Bool :=
  s.inRange pt pt.page.culletBase 64 && s.inRange pt pt.page.culletBase (64 + 4 * s.poolCap pt)

/-- Pages in the pool; a pool outside the partition has none (DEDUCED, log entry 47). -/
def State.poolCount (s : State) (pt : Part) : Nat :=
  if s.poolMapped pt then (s.poolGiven pt + 2 ^ 32 - s.poolTaken pt) % 2 ^ 32 else 0

/-- Pages in the pool that victims gave for waiting sequences (R371). -/
def Part.poolKept (pt : Part) : Nat := pt.seqWaits.foldl (fun n w => n + w.kept) 0

/-- Pages in the pool for a taker for which `own` of them are kept: those kept for others are theirs (R371). -/
def State.poolFor (s : State) (pt : Part) (own : Nat) : Nat := s.poolCount pt - (pt.poolKept - own)

/-- Address of entry `k` of the ring. -/
def State.poolEntry (s : State) (pt : Part) (k : Nat) : Nat := pt.page.culletBase + 0x40 + 4 * (k % s.poolCap pt)

/-- The pool's header, where it lies within the partition. -/
def State.poolHead (s : State) (pt : Part) : List (Nat × Nat) :=
  if s.inRange pt pt.page.culletBase 64 then [(pt.page.culletBase, 64)] else []

/-- The pool's header and `n` of its entries, from entry `k`. -/
def State.poolCells (s : State) (pt : Part) (k n : Nat) : List (Nat × Nat) :=
  s.poolHead pt ++ if s.poolMapped pt then (List.range n).map fun i => (s.poolEntry pt (k + i), 4) else []

/-- Give one page. -/
def State.givePage (s : State) (p page : Nat) : State :=
  let pt := s.part p
  let g := s.poolGiven pt
  (s.wrOwn p (s.poolEntry pt g) 4 page).wrOwn p (pt.page.culletBase + 4) 4 ((g + 1) % 2 ^ 32)

/-- Take one page. -/
def State.takePage (s : State) (p : Nat) : Nat × State :=
  let pt := s.part p
  let t := s.poolTaken pt
  (s.rdN (s.poolEntry pt t) 4 % 2 ^ 24, s.wrOwn p pt.page.culletBase 4 ((t + 1) % 2 ^ 32))

/-- Give the page of an entry and clear the entry. -/
def State.giveEntry (s : State) (p : Nat) (c : SeqCtx) (i : Nat) : State :=
  (s.givePage p (s.pageNo c i)).wrOwn p (c.entryAddr i) 4 0

/-- Take a page into an entry. -/
def State.takeEntry (s : State) (p : Nat) (c : SeqCtx) (i : Nat) : State :=
  let (g, t) := s.takePage p
  t.wrOwn p (c.entryAddr i) 4 (g + 2 ^ 31)

/-! ## Fields of DECODE_STEP (R365) -/

def Desc.decCount (d : Desc) : Nat := fld (d.w64 0x50) 55 44 + 1
def Desc.decLayer (d : Desc) : Nat := fld (d.w64 0x50) 63 56
def Desc.decAppend (d : Desc) : Bool := bitOf (d.w64 0x60) 32
def Desc.decScale (d : Desc) : Nat := d.w32 0x60

/-- Fetch checks of DECODE_STEP. -/
def decodeSpec (d : Desc) : OpSpec :=
  { mask := [bits32 0x40, bits32 0x44, bits32 0x48, bits32 0x4C, bitsAt 0x50 0 64, bits44 0x58, bitsAt 0x60 0 33]
    encOk := posFinite d.decScale && ptrRule (d.w32 0x40) true && ptrRule (d.w32 0x4C) true &&
      ptrRule (d.w32 0x44) d.decAppend && ptrRule (d.w32 0x48) d.decAppend
    tdps := [d.w32 0x40, d.w32 0x44, d.w32 0x48, d.w32 0x4C]
    ranges := [(d.addr 0x50, 2 * d.decCount, 64), (d.addr 0x58, d.decCount, 1)], win := [], set := 1, units := [],
    assigned := true }

/-- The listed sequences. -/
def seqList (l : List Byte) (n : Nat) : List Nat := (List.range n).map fun i => leNat (sliceList l (2 * i) 2)

/-- Admission of DECODE_STEP (R365). -/
def admitDecode (s : State) (p : Nat) (d : Desc) : Chk Desc := do
  let pt := s.part p
  let n := d.decCount
  s.needClean (d.addr 0x50) (2 * n)
  let list := s.rdBytes (d.addr 0x50) (2 * n)
  let seqs := seqList list n
  need (seqs.all (fun q => q ≤ 4095) && decide seqs.Nodup) 0x08 0xFF
  let q ← s.readTd p (d.w32 0x40) 0 .read
  let k? ← if d.decAppend then (s.readTd p (d.w32 0x44) 1 .read).map some else .ok none
  let v? ← if d.decAppend then (s.readTd p (d.w32 0x48) 2 .read).map some else .ok none
  let o ← s.readTd p (d.w32 0x4C) 3 .plain
  let fb (t : TensorDesc) : Bool := t.format == fFP32 || t.format == fBF16
  let (dh, h) := (q.sz 0, q.sz 2)
  need (q.format == fBF16 && q.sz 1 == n && q.sz 3 == 1) 0x08 0
  need (fb o && o.sz 0 == dh && o.sz 1 == n && o.sz 2 == h && o.sz 3 == 1) 0x08 3
  match k?, v? with
  | some k, some v =>
    need (fb k && k.sz 0 == dh && k.sz 1 == n && k.sz 3 == 1 && k.sz 2 ≠ 0 && h % max 1 (k.sz 2) == 0) 0x08 1
    need (fb v && v.size == k.size) 0x08 2
  | _, _ => .ok ()
  let tds := [(d.w32 0x40, q)] ++ (k?.map fun t => (d.w32 0x44, t)).toList ++ (v?.map fun t => (d.w32 0x48, t)).toList ++
    [(d.w32 0x4C, o)]
  s.needOwned pt ([(d.addr 0x50, 2 * n), (d.addr 0x58, n)] ++ tds.flatMap fun e => e.2.planes)
  let heads (sq : Nat) : Nat := match k? with
    | some k => k.sz 2
    | none => (s.seqCtx pt sq).hk
  let st := seqs.map fun sq => (sq, 4096 + heads sq)
  if o.count = 0 then .error (stEmptyOutput, 0)
  else return { d with tds := tds, list := list, seqStat := st, units := st.foldl (fun x e => x + e.2 % 512) 0 }

/-! ## States of a listed sequence -/

def seqFinal (v : Nat) : Bool := decide (v < 256)
def seqActive (v : Nat) : Bool := bitOf v 12 && !bitOf v 13 && !bitOf v 15

/-- Index of a sequence in the list. -/
def Desc.seqIndex (d : Desc) (seq : Nat) : Nat := d.seqStat.findIdx fun e => e.1 == seq
def Desc.seqState (d : Desc) (seq : Nat) : Nat := (tlook d.seqStat seq).getD 0
def Desc.setSeq (d : Desc) (seq v : Nat) : Desc :=
  { d with seqStat := d.seqStat.map fun e => if e.1 == seq then (seq, v) else e }

/-- The 64 bytes of a sequence record (R369). -/
def seqRecord (status layer tag tick seq cause length token : Nat) : List Byte :=
  padTo 64 (leBytes 4 (5 + status * 256 + layer * 65536) ++ leBytes 4 tag ++ leBytes 8 tick ++
    leBytes 4 (seq + cause * 4096) ++ leBytes 4 length ++ leBytes 8 token)

/-- Write +0 to a sequence's rows of OUT (R368). -/
def Run.zeroRows (r : Run) (d : Desc) (b : Nat) : Run :=
  match d.td (d.w32 0x4C) with
  | none => r
  | some o =>
    let w := (stridedWidth o.format).getD 4
    foldS (fun (x : Run) h => foldS (fun (y : Run) e => y.wrN (o.elemAddr (o.index [e, b, h, 0])) w 0) x
      (List.range (o.sz 0))) r (List.range (o.sz 2))

/-- The token of a pre-emption (R372). -/
def seqToken (seq length gen : Nat) : Nat := seq + length * 2 ^ 12 + gen * 2 ^ 33

/-- Sequence `seq` ends with a status other than 0x00, 0x04 and 0x09: its rows, its status byte, its record; pages taken
for this step go back. What DETAIL names where the first listed sequence decides it is kept: the token, the check code, the
poisoned line `line` (R368). The token of a sequence still being swapped out is the one its swap will write. -/
def Run.endSeq (r : Run) (ref : DRef) (d : Desc) (seq status cause line : Nat) : Run :=
  let pt := r.s.part ref.part
  let c := r.s.seqCtx pt seq
  let b := d.seqIndex seq
  let back : List Nat := if bitOf (d.seqState seq) 14 && !c.preempted then
    (List.range c.hk).map fun g => c.entryIndex d.decLayer g (c.length / c.tpp) else []
  let r0 := if back.isEmpty then r else r.reads (r.s.poolCells pt (r.s.poolGiven pt) back.length)
  let r1 := { r0 with s := (foldS (fun (t : State) i => t.giveEntry ref.part c i) r0.s back) }
  let r2 := (r1.zeroRows d b).wrN (d.addr 0x58 + b) 1 status
  let token := if status = 5 ∧ !c.preempted then seqToken seq c.length ((c.gen + 1) % 2 ^ 31) else c.token
  let detail := if status = 5 then token else if status = 8 then badCode 0x08 else if status = 0x0C then line else 0
  let (s3, n) := r2.s.exception ref.part (seqRecord status d.decLayer d.tag r2.s.tickNo seq cause c.length token) false
  { r2 with s := s3.updDesc ref fun x => { (x.setSeq seq status) with
      exc := x.exc || n != 0
      detail := if b = 0 ∧ x.status.isNone then detail else x.detail } }

/-! ## Waiting sequences (R370) -/

/-- Higher PRIORITY first, then lower number. -/
def State.waitBefore (s : State) (pt : Part) (a b : SeqWait) : Bool :=
  let pa := (s.seqCtx pt a.seq).priority
  let pb := (s.seqCtx pt b.seq).priority
  if pa ≠ pb then decide (pa > pb) else decide (a.seq < b.seq)

/-- The waiting sequence that is served first. -/
def State.firstWait (s : State) (pt : Part) : Option SeqWait := firstBy (s.waitBefore pt) pt.seqWaits

/-- Entries a sequence needs pages for at page index `i` of a layer (R366). -/
def State.needEntries (s : State) (c : SeqCtx) (layer i : Nat) : List Nat :=
  ((List.range c.hk).map fun g => c.entryIndex layer g i).filter fun e => !s.pteValid c e

/-! ## Attending (R366) -/

/-- Address of a slot's codes and scales of keys (`v` false) or values in a page. -/
def SeqCtx.slotCodes (c : SeqCtx) (page : Nat) (v : Bool) (j : Nat) : Nat :=
  page + (if v then c.tpp * c.codeBytes c.dh else 0) + j * c.codeBytes c.dh
def SeqCtx.slotScales (c : SeqCtx) (page : Nat) (v : Bool) (j : Nat) : Nat :=
  page + 2 * c.tpp * c.codeBytes c.dh + (if v then c.tpp * c.dh32 else 0) + j * c.dh32

/-- The block format of a context's pages. -/
def SeqCtx.blk (c : SeqCtx) : Blk := if c.format = 0 then ⟨8, true, 127, false, false⟩ else ⟨4, true, 7, false, false⟩

/-- The 32 codes of block `j` of a slot. -/
def SeqCtx.codes (c : SeqCtx) (s : State) (page : Nat) (v : Bool) (slot j : Nat) : List Int :=
  let a := c.slotCodes page v slot
  (List.range 32).map fun i => c.blk.code (c.blk.rawAt s a j i)

/-- The scale code of block `j` of a slot. -/
def SeqCtx.scale (c : SeqCtx) (s : State) (page : Nat) (v : Bool) (slot j : Nat) : Nat :=
  (s.rd (c.slotScales page v slot + j)).toNat

/-- One block of a score: the exact sum of q[d] · code and its scale. -/
def scoreBlock (a : Acc) (q : List Fp) (codes : List Int) (e : Nat) : Acc :=
  if e = 0xFF then (.nan, a.cause true 2)
  else
    let terms := (q.zip codes).map fun (x, c) => x.mul (Fp.ofInt c)
    let sum := terms.foldl (fun x t => x.add t) Fp.zero
    let made := sum.isNaN && !(q.any Fp.isNaN)
    if sum.isNaN then (.nan, a.cause made 0)
    else if sum.isZero then a
    else a.add (clampAddend (sum.scale ((e : Int) - 127)))

/-- s[k] as an FP32 word of the BF16 score, and the cause of a NaN made (R366). -/
def SeqCtx.score (c : SeqCtx) (s : State) (page slot : Nat) (q : List Fp) (scale : Nat) : Nat × Option Nat :=
  let acc := (List.range c.dh32).foldl (fun (a : Acc) j =>
    scoreBlock a (sliceList q (32 * j) 32) (c.codes s page false slot j) (c.scale s page false slot j)) ((.zero, none) : Acc)
  (enc32 (ofBf (scoreWord scale acc.1)), acc.2)

/-- value(k, d): exact, NaN by a reserved scale code (R53, R59). -/
def SeqCtx.value (c : SeqCtx) (s : State) (page slot d : Nat) : Fp × Bool :=
  let e := c.scale s page true slot (d / 32)
  if e = 0xFF then (.nan, true)
  else ((Fp.ofInt ((c.codes s page true slot (d / 32)).getD (d % 32) 0)).scale ((e : Int) - 127), false)

/-- The page and slot of position `k` of a layer and head. -/
def State.posPage (s : State) (pt : Part) (c : SeqCtx) (layer g k : Nat) : Nat × Nat :=
  (s.pageOf pt c (c.entryIndex layer g (k / c.tpp)), k % c.tpp)

/-- One query head attends positions 0 to n − 1 (R366). A NaN of the scores or of the normalisation, which write no tensor, is named
by OUT's element 0 of the head (DESIGN CHOICE, log entry 55). -/
def Run.attend (r : Run) (d : Desc) (pt : Part) (c : SeqCtx) (q o : TensorDesc) (b g h n : Nat) : Run :=
  let s := r.s
  let qv := (List.range c.dh).map fun e => (q.val s (q.index [e, b, h, 0])).1
  let at1 (k : Nat) : Nat × Nat := s.posPage pt c d.decLayer g k
  let sc := (List.range n).map fun k => let (page, slot) := at1 k; c.score s page slot qv d.decScale
  let evt (cause e : Nat) : NanEvt := r.evt cause o.id o.size (o.index [e, b, h, 0])
  let r1 := r.raise (sc.filterMap fun v => v.2.map fun x => evt x 0)
  let tiles := pieces 32 (ceilDiv n 32) (List.range n)
  let (_, es, l) := softRow (fun k => (sc[k]?).map fun v => v.1) tiles
  let rc := fpDiv fmt32 (.fin false 1 0) (of32 l.1)
  let ps := es.map fun (k, e) => let p := probOf e.1 rc; (k, ofBf (encBf none (of32 p.1)), e.2 || p.2)
  let r2 := if ps.any (fun x => x.2.2) || l.2 then r1.raise [evt 0 0] else r1
  foldS (fun (w : Run) e =>
    let acc := ps.foldl (fun (a : Acc) (k, p, _) =>
      let (page, slot) := at1 k
      a.addProduct (p, false) (c.value s page slot e)) ((.zero, none) : Acc)
    let w1 := match acc.2 with | some x => w.raise [evt x e] | none => w
    w1.writeMatrix o (o.index [e, b, h, 0]) acc.1) r2 (List.range c.dh)

/-- Quantise one new key or value row into its slot (R366). -/
def Run.appendRow (r : Run) (d : Desc) (c : SeqCtx) (t : TensorDesc) (b g page slot : Nat) (v : Bool) : Run :=
  let tid := (c.tid + 2 * (d.decLayer * c.hk + g) + (if v then 1 else 0)) % 2 ^ 32
  let key := drawKey d.seed d.step tid
  let idx (e : Nat) : Nat := t.index [e, b, g, 0]
  let r0 := r.readsElems t ((List.range c.dh).map idx)
  foldS (fun (w : Run) j =>
    let es := (List.range 32).map (32 * j + ·)
    let us := if c.sr then some (es.map fun e => drawU key (c.length * c.dh + e)) else none
    let q := quantBlock c.blk (.fin false 1 0) none (es.map fun e => (t.val r.s (idx e)).1) us
    let w1 := w.wr (c.slotCodes page v slot + j * c.blk.bytes) (packCodes c.blk.bits q.codes)
    let w2 := w1.wrN (c.slotScales page v slot + j) 1 q.e
    w2.raise (q.met.map fun i => w2.evt 1 t.id t.size (idx (32 * j + i)))) r0 (List.range c.dh32)

/-- The byte ranges of the pages a step of a sequence reads and writes for head `g`: positions below `n`. -/
def State.seqCells (s : State) (pt : Part) (c : SeqCtx) (layer g n : Nat) : List (Nat × Nat) :=
  (List.range (ceilDiv n c.tpp)).flatMap fun i =>
    let k := min c.tpp (n - i * c.tpp)
    let page := s.pageOf pt c (c.entryIndex layer g i)
    [(c.slotCodes page false 0, k * c.codeBytes c.dh), (c.slotCodes page true 0, k * c.codeBytes c.dh),
     (c.slotScales page false 0, k * c.dh32), (c.slotScales page true 0, k * c.dh32)]

/-- The pages of a layer that a step uses are pages of the partition (R362). -/
def State.pagesOk (s : State) (pt : Part) (c : SeqCtx) (layer n : Nat) : Bool :=
  (List.range c.hk).all fun g => (List.range (ceilDiv n c.tpp)).all fun i =>
    decide (s.pageNo c (c.entryIndex layer g i) < pt.page.pageCount)

/-- The page-table entries of a layer that a step of positions below `n` reads. -/
def SeqCtx.stepTable (c : SeqCtx) (layer n : Nat) : List (Nat × Nat) :=
  (List.range c.hk).map fun g => (c.entryAddr (c.entryIndex layer g 0), 4 * ceilDiv n c.tpp)

/-- Cells a unit reads besides its tensors and pages: where one reads poisoned the unit does nothing more, and its descriptor stops
with the slice (R368, R533). -/
def Run.unlessBad (r : Run) (cells : List (Nat × Nat)) (k : Run) : Run :=
  match r.s.poisonCells cells with
  | some l => { r with bad := r.bad <|> some l }
  | none => k

/-- A context agrees with the descriptor (R368 code 0x08). -/
def Desc.seqAgrees (d : Desc) (c : SeqCtx) (heads : Nat) (dh : Nat) : Bool :=
  c.valid && c.format ≤ 1 && 1 ≤ c.dh32 && c.dh32 ≤ 16 && c.dh == dh && c.hk == heads && d.decLayer < c.layers

/-- The new position's rows of one key and value head, where the descriptor appends. -/
def Run.seqAppend (r : Run) (d : Desc) (c : SeqCtx) (b g page slot : Nat) : Run :=
  if d.decAppend then
    match d.td (d.w32 0x44), d.td (d.w32 0x48) with
    | some k, some v => (r.appendRow d c k b g page slot false).appendRow d c v b g page slot true
    | _, _ => r
  else r

/-- The query heads of one key and value head. -/
def Run.seqAttend (r : Run) (d : Desc) (pt : Part) (c : SeqCtx) (q o : TensorDesc) (b g n : Nat) : Run :=
  let hs := (List.range (q.sz 2)).filter fun h => keyHead h c.hk (q.sz 2) == g
  foldS (fun (w : Run) h => w.attend d pt c q o b g h n)
    (r.readsElems q (hs.flatMap fun h => (List.range c.dh).map fun e => q.index [e, b, h, 0])) hs

/-- The end of a sequence's last head: its status byte, and its length where this was the last layer of an append. -/
def Run.seqTail (r : Run) (ref : DRef) (d : Desc) (c : SeqCtx) (seq b : Nat) : Run :=
  let r1 := (r.wrN (d.addr 0x58 + b) 1 0).endUnit
  let s2 := if d.decAppend && d.decLayer + 1 == c.layers then r1.s.setSeqWord ref.part seq 8 (c.length + 1) else r1.s
  { r1 with s := s2.updDesc ref fun x => x.setSeq seq 0 }

/-- Head `g` of sequence `seq` runs: append, quantise, attend; the last head ends the step (R366, R367). A page table that names a
page the partition does not have makes its context no valid one (DEDUCED, log entry 47). -/
def Run.seqHead (r : Run) (ref : DRef) (d : Desc) (seq g : Nat) : Run :=
  let pt := r.s.part ref.part
  let c := r.s.seqCtx pt seq
  let b := d.seqIndex seq
  match d.td (d.w32 0x40), d.td (d.w32 0x4C) with
  | some q, some o =>
    let n := c.length + (if d.decAppend then 1 else 0)
    r.unlessBad (c.stepTable d.decLayer n) <|
    if !r.s.pagesOk pt c d.decLayer n then r.endSeq ref d seq 0x08 seq 0
    else match (List.range c.hk).findSome? fun x => r.s.poisonCells (r.s.seqCells pt c d.decLayer x n) with
    | some l => r.endSeq ref d seq 0x0C seq l
    | none =>
      let (page, slot) := r.s.posPage pt c d.decLayer g c.length
      let r1 := (r.seqAppend d c b g page slot).seqAttend d pt c q o b g n
      if g + 1 < c.hk then
        { r1.endUnit with s := r1.s.updDesc ref fun x => x.setSeq seq (x.seqState seq - 1) }
      else r1.seqTail ref d c seq b
  | _, _ => r

/-- A sequence that needs pages: it waits where the pool is short, and takes them and runs where it is not. -/
def Run.seqTake (r : Run) (ref : DRef) (d : Desc) (pt : Part) (c : SeqCtx) (seq : Nat) (need : List Nat) : Run :=
  let v := d.seqState seq
  r.unlessBad (r.s.poolHead pt) <|
  if r.s.poolFor pt 0 < need.length then
    let w : SeqWait := ⟨seq, need.length, ref, d.decLayer, c.length / c.tpp, 0⟩
    { r with s := (r.s.updDesc ref fun x => x.setSeq seq (v + 8192)).updPart ref.part fun q =>
        { q with seqWaits := q.seqWaits ++ [w] } }
  else
    r.unlessBad (r.s.poolCells pt (r.s.poolTaken pt) need.length) <|
    let s1 := foldS (fun (t : State) i => t.takeEntry ref.part c i) r.s need
    let d1 := d.setSeq seq (v + 16384)
    ({ r with s := s1.updDesc ref fun x => x.setSeq seq (v + 16384) }).seqHead ref d1 seq 0

/-- The first unit of a sequence: what ends, stops or delays it, or its first head (R366, R368, R370). A sequence that is being
swapped out runs only in slices issued before (R372). -/
def Run.seqBegin (r : Run) (ref : DRef) (d : Desc) (seq : Nat) : Run :=
  let pt := r.s.part ref.part
  let c := r.s.seqCtx pt seq
  let v := d.seqState seq
  let (dh, hq) := match d.td (d.w32 0x40) with | some q => (q.sz 0, q.sz 2) | none => (0, 0)
  if pt.swaps.any fun w => w.seq == seq && !w.running.contains ref then
    { r with s := r.s.updDesc ref fun x => x.setSeq seq (v + 32768) }
  else if c.valid && c.preempted then r.endSeq ref d seq 0x05 seq 0
  else if !d.seqAgrees c (v % 512) dh || hq % max 1 c.hk != 0 then r.endSeq ref d seq 0x08 seq 0
  else if d.decAppend && c.length == c.capacity then r.endSeq ref d seq 0x0F seq 0
  else
    r.unlessBad (c.stepTable d.decLayer (c.length + (if d.decAppend then 1 else 0))) <|
    let need := if d.decAppend && c.length % c.tpp == 0 then r.s.needEntries c d.decLayer (c.length / c.tpp) else []
    if need.isEmpty then r.seqHead ref d seq 0 else r.seqTake ref d pt c seq need

/-- One unit of DECODE_STEP: the next head of the first sequence in list order that may run. A sequence begins with its
first head. -/
def Run.decodeUnit (r : Run) (ref : DRef) : Run :=
  match r.s.desc ref with
  | none => r
  | some d =>
    match d.seqStat.find? fun e => seqActive e.2 with
    | none => r
    | some (seq, v) =>
      r.unlessBad (r.s.ctxCells (r.s.part ref.part) seq) <|
      let c := r.s.seqCtx (r.s.part ref.part) seq
      let total := match d.td (d.w32 0x44) with
        | some k => if d.decAppend then k.sz 2 else c.hk
        | none => c.hk
      if v % 512 ≥ total ∧ !bitOf v 14 then r.seqBegin ref d seq
      else if v % 512 > c.hk then r.endSeq ref d seq 0x08 seq 0
      else r.seqHead ref d seq (c.hk - v % 512)

/-- Every sequence of a DECODE_STEP has ended. -/
def Desc.seqAllDone (d : Desc) : Bool := d.seqStat.all fun e => seqFinal e.2

/-- A sequence ends outside a slice: the rows and the status byte are written as in one (R249, R283, R533). -/
def State.endSeqNow (s : State) (r : DRef) (d : Desc) (seq status cause : Nat) : State :=
  let w := (Run.endSeq (Run.start s r.part 1 4 [] d) r d seq status cause 0).settlePoison
  (w.s.lateWrites r.part w.wrote).noteBad r w.bad

/-- A DECODE_STEP that ends: unfinished sequences get 0x05, 0x04 or 0x09, and the descriptor its status and DETAIL
(R368, R369, R375). -/
def State.endDecode (s0 : State) (r : DRef) : State :=
  let s := s0.updPart r.part fun q => { q with seqWaits := q.seqWaits.filter fun w => w.ref != r }
  match s.desc r with
  | none => s
  | some d =>
    let pt := s.part r.part
    match d.status with
    | some st =>
      (foldS (fun (t : State) (e : Nat × Nat) =>
        if seqFinal e.2 then t
        else
          let code := if (t.seqCtx pt e.1).preempted || bitOf e.2 15 then 5 else if st = stNanTrap then 4 else 9
          let cause := match pt.swaps.find? fun w => w.seq == e.1 with | some w => w.grower | none => e.1
          if code = 5 then t.endSeqNow r d e.1 5 cause
          else (t.wrOwn r.part (d.addr 0x58 + d.seqIndex e.1) 1 code).updDesc r fun x => x.setSeq e.1 code) s d.seqStat).testWaits r.part
    | none =>
      let good := (d.seqStat.filter fun e => e.2 == 0).length
      if good ≠ 0 then
        let bad := d.seqStat.length - good
        s.updDesc r fun x => { x with status := some stOk, detail := good + bad * 8192, exc := x.exc || bad != 0 }
      else
        s.updDesc r fun x => { x with status := some (d.seqStat.headD (0, 8)).2 }

/-- A DECODE_STEP that was admitted and ends without having started still gives every sequence its status byte (R368). -/
def State.unreached (s : State) (r : DRef) : State :=
  match s.desc r with
  | some d => if d.opcode = 0x0310 ∧ !d.started ∧ d.status.isSome ∧ !d.seqAllDone then s.endDecode r else s
  | none => s

/-! ## Serving waiting sequences (R370) -/

/-- A waiting sequence takes the pages it needs and runs again. -/
def State.serveWait (s : State) (p : Nat) (w : SeqWait) : State :=
  let c := s.seqCtx (s.part p) w.seq
  let s1 := foldS (fun (t : State) i => t.takeEntry p c i) s (s.needEntries c w.layer w.index)
  let s2 := s1.updDesc w.ref fun d => d.setSeq w.seq (4096 + 16384 + d.seqState w.seq % 512)
  s2.updPart p fun q => { q with seqWaits := q.seqWaits.filter fun x => !(x == w) }

/-- A waiting sequence's own cells read poisoned: its descriptor ends with MEMORY_UNCORRECTABLE, at once where no slice of it runs
(R533). -/
def State.failWait (s : State) (p : Nat) (w : SeqWait) (l : Nat) : State :=
  let s1 := (s.updPart p fun q => { q with seqWaits := q.seqWaits.filter fun x => !(x == w) }).noteBad w.ref (some l)
  match s1.desc w.ref with
  | some d => if d.slice.isNone then (s1.endDecode w.ref).updDesc w.ref fun x => x.finish stOk 0 else s1
  | none => s1

/-- A waiting sequence is served: the pool's entries and its page table are read. -/
def State.serve (s : State) (p : Nat) (w : SeqWait) : State :=
  let pt := s.part p
  match s.poisonCells (s.poolCells pt (s.poolTaken pt) w.need ++ s.tableCells pt w.seq) with
  | some l => s.failWait p w l
  | none => s.serveWait p w

/-- Give pages to waiting sequences while the first of them can be served. -/
def State.feedWaiters (s : State) (p : Nat) : Nat → State
  | 0 => s
  | n + 1 =>
    let pt := s.part p
    match s.firstWait pt with
    | none => s
    | some w =>
      match s.poisonCells (s.poolHead pt ++ s.ctxCells pt w.seq) with
      | some l => (s.failWait p w l).feedWaiters p n
      | none => if s.poolFor pt w.kept < w.need then s else (s.serve p w).feedWaiters p n

def State.feed (s : State) (p : Nat) : State := s.feedWaiters p ((s.part p).seqWaits.length + 1)

/-- DECODE_STEP: the running slice's units. -/
def runDecode (s : State) (d : Desc) (sl : Slice) (r : DRef) : State :=
  ((foldS (fun (w : Run) (_ : Nat) => w.decodeUnit r) (Run.start s r.part 1 4 sl.clusters d)
    (List.range sl.count)).finish r).feed r.part

/-- DECODE_STEP. -/
def execDecodeStep (r : DRef) (s : State) : Host.Outcome State Fault Refusal :=
  .next (s.runSlice r 0x0310 fun t d sl => runDecode t d sl r)

/-! ## PAGE_RELEASE (R364) -/

def Desc.relMode (d : Desc) : Nat := fld (d.w32 0x40) 1 0
def Desc.relSeq (d : Desc) : Nat := fld (d.w32 0x40) 27 16
def Desc.relCount (d : Desc) : Nat := fld (d.w32 0x50) 23 0

/-- Fetch checks of PAGE_RELEASE. -/
def releaseSpec (d : Desc) : OpSpec :=
  { OpSpec.plain [bitsAt 0x40 0 2, bitsAt 0x40 16 12, bitsAt 0x44 0 21, bits44 0x48, bitsAt 0x50 0 24] 1 with
    encOk := d.relMode ≠ 3, ranges := if d.relMode = 0 then [(d.addr 0x48, 4 * d.relCount, 1)] else [] }

/-- The entries a TRUNCATE or FREE gives. -/
def State.relEntries (s : State) (d : Desc) (c : SeqCtx) : List Nat :=
  if d.relMode = 2 then s.validEntries c
  else (s.validEntries c).filter fun e => decide (e % max 1 c.pmax ≥ ceilDiv (fld (d.w32 0x44) 20 0) c.tpp)

/-- The page numbers of a GIVE. -/
def Desc.relPages (d : Desc) : List Nat := (List.range d.relCount).map fun i => leNat (sliceList d.list (4 * i) 4)

/-- The device's own cells a PAGE_RELEASE reads: the pool's header, and the context and page table of its sequence. -/
def State.relCells (s : State) (pt : Part) (d : Desc) : List (Nat × Nat) :=
  s.poolHead pt ++ if d.relMode = 0 then [] else s.ctxCells pt d.relSeq ++ s.tableCells pt d.relSeq

/-- Admission of PAGE_RELEASE (R364, R533). -/
def admitRelease (s : State) (p : Nat) (d : Desc) : Chk Desc := do
  let pt := s.part p
  for e in s.relCells pt d do s.needClean e.1 e.2
  let room (n : Nat) : Chk Unit := need (s.poolCount pt + n ≤ s.poolCap pt) 0x0B 0xFF
  if d.relMode = 0 then
    s.needClean (d.addr 0x48) (4 * d.relCount)
    let list := s.rdBytes (d.addr 0x48) (4 * d.relCount)
    let d' := { d with list := list }
    need (d'.relPages.all fun g => g < pt.page.pageCount) 0x05 0xFF
    room d.relCount
    s.needOwned pt [(d.addr 0x48, 4 * d.relCount)]
    return { d' with units := max 1 (ceilDiv d.relCount 1024) }
  else
    let c := s.seqCtx pt d.relSeq
    let listed := pt.descs.any fun e => e.opcode == 0x0310 && e.active && e.seqStat.any fun x => x.1 == d.relSeq
    need (c.valid && !c.preempted && !listed && (d.relMode == 2 || fld (d.w32 0x44) 20 0 ≤ c.length)) 0x08 0xFF
    need ((s.relEntries d c).all fun e => s.pageNo c e < pt.page.pageCount) 0x05 0xFF
    let n := (s.relEntries d c).length
    room n
    return { d with units := max 1 (ceilDiv n 64) }

/-- PAGE_RELEASE: the running slice's pages; TRUNCATE and FREE change the context with their last unit, and pages given
go to waiting sequences at once (R364, R370). Where a cell it reads is poisoned it changes nothing (R533). -/
def runRelease (s : State) (d : Desc) (sl : Slice) (r : DRef) : State :=
  let pt := s.part r.part
  let c := s.seqCtx pt d.relSeq
  let pages := sliceList d.relPages (1024 * sl.first) (1024 * sl.count)
  let entries := (s.relEntries d c).take (64 * sl.count)
  let n := if d.relMode = 0 then pages.length else entries.length
  match s.poisonCells (s.relCells pt d ++ s.poolCells pt (s.poolGiven pt) n) with
  | some l => s.noteBad r (some l)
  | none =>
    let s1 := if d.relMode = 0 then foldS (fun (t : State) g => t.givePage r.part g) s pages
      else foldS (fun (t : State) e => t.giveEntry r.part c e) s entries
    let last := decide (sl.first + sl.count ≥ d.units)
    let s2 := if d.relMode = 1 && last then s1.setSeqWord r.part d.relSeq 8 (fld (d.w32 0x44) 20 0)
      else if d.relMode = 2 && last then s1.setSeqWord r.part d.relSeq 0 (clearBit (s1.rdN (pt.seqAddr d.relSeq) 4) 0)
      else s1
    s2.feed r.part

/-- A PAGE_RELEASE of mode `m`. -/
def State.releaseRow (s : State) (r : DRef) (m : Nat) : State :=
  match s.desc r with
  | some d => if d.relMode = m then s.runSlice r 0x0312 fun t d sl => runRelease t d sl r else s
  | none => s

/-- PAGE_RELEASE with MODE GIVE. -/
def execGive (r : Reading) (s : State) : Host.Outcome State Fault Refusal := .next ((s.finds r.ref r.found).releaseRow r.ref 0)
/-- PAGE_RELEASE with MODE TRUNCATE. -/
def execTruncate (r : Reading) (s : State) : Host.Outcome State Fault Refusal := .next ((s.finds r.ref r.found).releaseRow r.ref 1)
/-- PAGE_RELEASE with MODE FREE. -/
def execFree (r : Reading) (s : State) : Host.Outcome State Fault Refusal := .next ((s.finds r.ref r.found).releaseRow r.ref 2)

/-! ## Pre-emption and resume (R371 to R373) -/

/-- The entries a swap image restores: those valid when the sequence was swapped out. -/
def Part.imageEntries (pt : Part) (n : Nat) (c : SeqCtx) : List Nat :=
  match tlook pt.swapped n with
  | some l => l
  | none => (List.range (c.layers * c.hk)).flatMap fun x => (List.range (ceilDiv c.length c.tpp)).map fun i => x * c.pmax + i

/-- Read bytes of a swap area: host memory or the window (R360). -/
def State.swapRd (s : State) (pt : Part) (c : SeqCtx) (off n : Nat) : List Byte :=
  if c.swapHost then s.hostRd pt.ent.attach (c.swap + off) n else s.rdBytes (c.swap % 2 ^ 44 + off) n

/-- The first poisoned line of a swap area's bytes; one of the window that lies outside the partition reads poisoned (log entry
47). -/
def State.swapBad (s : State) (pt : Part) (c : SeqCtx) (off n : Nat) : Option Nat :=
  if c.swapHost then s.hostPoisonIn pt.ent.attach (c.swap + off) n
  else if pt.inWindow (c.swap % 2 ^ 44 + off) n then s.poisonIn (c.swap % 2 ^ 44 + off) n
  else some (c.swap % 2 ^ 44 + off)

/-- Write bytes to a swap area, the poison of the source lines with them (R533). A partition writes nothing outside its window
(log entry 47). -/
def State.swapWr (s : State) (p : Nat) (c : SeqCtx) (off : Nat) (bs : List Byte) (bad : Bool) : State :=
  let pt := s.part p
  if c.swapHost then
    let t := s.hostWr pt.ent.attach (c.swap + off) bs
    if bad then foldS (fun (u : State) l => u.hostPoison pt.ent.attach l) t (linesOf (c.swap + off) bs.length) else t
  else
    let a := c.swap % 2 ^ 44 + off
    if !pt.inWindow a bs.length then s
    else
      let t := (s.wrBytes a bs).lateWrites p [(a, bs.length)]
      if bad then foldS State.setPoison t (linesOf a bs.length) else t

/-- Copy one page's lines out, in order. -/
def State.swapPage (s : State) (p : Nat) (c : SeqCtx) (page off : Nat) : State :=
  foldS (fun (t : State) i => t.swapWr p c (off + 64 * i) (t.rdBytes (page + 64 * i) 64) (t.isPoison (page + 64 * i))) s
    (List.range 1024)

/-- What a swap writes: the sequence record's sector and each valid page into the swap area, the pages given back, and the
record's state, generation and token. -/
def State.swapWrites (s : State) (p : Nat) (c : SeqCtx) (seq : Nat) (entries : List Nat) : State :=
  let pt := s.part p
  let s0 := s.swapWr p c 64 (List.replicate 4032 0) false
  let s1 := s0.swapWr p c 0 (s.rdBytes (pt.seqAddr seq) 64) (s.isPoison (pt.seqAddr seq))
  let s2 := foldS (fun (t : State) (e : Nat × Nat) => t.swapPage p c (s.pageOf pt c e.1) (4096 + 65536 * e.2)) s1
    entries.zipIdx
  let s3 := foldS (fun (t : State) e => t.giveEntry p c e) s2 entries
  let gen := (c.gen + 1) % 2 ^ 31
  let s4 := s3.setSeqWord p seq 0 (setBit (s3.rdN (pt.seqAddr seq) 4) 1)
  (s4.wrOwn p (pt.seqAddr seq + 0x38) 4 (gen + s4.rdN (pt.seqAddr seq + 0x38) 4 / 2 ^ 31 * 2 ^ 31)).wrOwn p
    (pt.seqAddr seq + 0x30) 8 (seqToken seq c.length gen)

/-- The decodes that waited for a sequence being swapped out end it with PREEMPTED. -/
def State.swapEnds (s : State) (p : Nat) (w : Swap) : State :=
  foldS (fun (t : State) (d : Desc) =>
    if d.opcode == 0x0310 && bitOf (d.seqState w.seq) 15 then
      t.endSeqNow (d.ref p) d w.seq 5 w.grower
    else t) s (s.part p).descs

/-- A victim's `n` pages go to the sequence it made room for: as many as it needs are kept for it, and it is served once it has
them all (R371). -/
def State.feedGrower (s : State) (p : Nat) (w : Swap) (n : Nat) : State :=
  match (s.part p).seqWaits.find? fun x => x.seq == w.grower with
  | some g =>
    let g' := { g with kept := min g.need (g.kept + n) }
    let t := s.updPart p fun q => { q with seqWaits := q.seqWaits.map fun x => if x == g then g' else x }
    if t.poolFor (t.part p) g'.kept < g.need then t else t.serve p g'
  | none => s

/-- A sequence's swap ends: image, pages given, entries cleared, context; descriptors that list it give it 0x05; its
grower is served; a ring that waited for it stops (R368, R371, R372, R375). -/
def State.swapDone (s : State) (p : Nat) (w : Swap) : State :=
  let pt := s.part p
  let c := s.seqCtx pt w.seq
  let entries := s.validEntries c
  let s1 := (s.swapWrites p c w.seq entries).updPart p fun q => { q with
    swaps := q.swaps.filter fun x => !(x == w)
    swapped := tput q.swapped w.seq entries }
  let s2 := ((s1.swapEnds p w).feedGrower p w entries.length).feed p
  foldS (fun (t : State) ring => (t.ringStop p ring).release p ring) s2 (s2.part p).rings

/-- Fetch checks of SEQ_RESUME (R373). -/
def resumeSpec (_ : Desc) : OpSpec := OpSpec.plain [bitsAt 0x40 0 12, bitsAt 0x48 0 64] 1

def Desc.resSeq (d : Desc) : Nat := fld (d.w32 0x40) 11 0

/-- The token names the context's pre-emption. -/
def State.tokenOk (s : State) (pt : Part) (d : Desc) : Bool :=
  let c := s.seqCtx pt d.resSeq
  c.preempted && d.w64 0x48 == c.token

/-- Admission of SEQ_RESUME (R373). -/
def admitResume (s : State) (p : Nat) (d : Desc) : Chk Desc := do
  let pt := s.part p
  for e in s.ctxCells pt d.resSeq do s.needClean e.1 e.2
  need (s.tokenOk pt d) 0x08 0xFF
  let n := (pt.imageEntries d.resSeq (s.seqCtx pt d.resSeq)).length
  return { d with units := max 1 (ceilDiv n 64) }

/-- Pages a failed or cancelled resume has taken go back (R375). -/
def State.resumeBack (s : State) (r : DRef) (d : Desc) : State :=
  let pt := s.part r.part
  let c := s.seqCtx pt d.resSeq
  if c.preempted then
    (foldS (fun (t : State) e => if t.pteValid c e then t.giveEntry r.part c e else t) s (pt.imageEntries d.resSeq c)).feed r.part
  else s

/-- The device's own cells a slice of SEQ_RESUME reads: the context and the page table; with its first unit the pool too. -/
def State.resCells (s : State) (pt : Part) (d : Desc) (first : Bool) (n : Nat) : List (Nat × Nat) :=
  s.ctxCells pt d.resSeq ++ s.tableCells pt d.resSeq ++ if first then s.poolCells pt (s.poolTaken pt) n else []

/-- One page of a swap image is read back. -/
def State.resumePage (s : State) (p : Nat) (c : SeqCtx) (e src : Nat) : State :=
  let pt := s.part p
  let a := s.pageOf pt c e
  (s.wrBytes a (s.swapRd pt c src 65536)).lateWrites p [(a, 65536)]

/-- SEQ_RESUME: with its first unit it takes the pages; each unit reads 64 pages back; the last clears PREEMPTED and
RESUME_TOKEN (R373). -/
def runResume (s : State) (d : Desc) (sl : Slice) (r : DRef) : State :=
  let pt := s.part r.part
  let c := s.seqCtx pt d.resSeq
  let entries := pt.imageEntries d.resSeq c
  if let some l := s.poisonCells (s.ctxCells pt d.resSeq) then s.noteBad r (some l)
  else if sl.first = 0 ∧ !s.tokenOk pt d then s.updDesc r fun x => x.decide' stBadDescriptor (badCode 0x08)
  else if let some l := s.poisonCells (s.resCells pt d (decide (sl.first = 0)) 0) then s.noteBad r (some l)
  else if sl.first = 0 ∧ s.poolFor pt 0 < entries.length then
    s.updDesc r fun x => x.decide' stPreempted (d.w64 0x48)
  else if let some l := s.poisonCells (s.resCells pt d (decide (sl.first = 0)) entries.length) then s.noteBad r (some l)
  else
    let s1 := if sl.first = 0 then foldS (fun (t : State) e => t.takeEntry r.part c e) s entries else s
    let mine := (entries.zipIdx).filter fun e => decide (64 * sl.first ≤ e.2 ∧ e.2 < 64 * (sl.first + sl.count))
    let src (i : Nat) : Nat := 4096 + 65536 * i
    match mine.findSome? fun e => s1.swapBad pt c (src e.2) 65536 with
    | some l => s1.updDesc r fun x => x.decide' stMemory l
    | none =>
      let s2 := foldS (fun (t : State) (e : Nat × Nat) => t.resumePage r.part c e.1 (src e.2)) s1 mine
      if sl.first + sl.count ≥ d.units then
        let s3 := s2.setSeqWord r.part d.resSeq 0 (clearBit (s2.rdN (pt.seqAddr d.resSeq) 4) 1)
        (s3.wrOwn r.part (pt.seqAddr d.resSeq + 0x30) 8 0).updPart r.part fun q => { q with swapped := tdel q.swapped d.resSeq }
      else s2

/-- SEQ_RESUME. -/
def execSeqResume (r : DRef) (s : State) : Host.Outcome State Fault Refusal :=
  .next (s.runSlice r 0x0311 fun t d sl => runResume t d sl r)

/-- Sequences other than the grower that may give way to it, best victim first (R371). -/
def State.victims (s : State) (pt : Part) (grower : Nat) : List Nat :=
  let pr := (s.seqCtx pt grower).priority
  let can := (List.range 4096).filter fun n =>
    let c := s.seqCtx pt n
    c.valid && !c.preempted && decide (c.priority < pr) && !(pt.swaps.any fun w => w.seq == n)
  let pages (n : Nat) : Nat := (s.validEntries (s.seqCtx pt n)).length
  let before (a b : Nat) : Bool :=
    let (ca, cb) := (s.seqCtx pt a, s.seqCtx pt b)
    if ca.priority ≠ cb.priority then decide (ca.priority < cb.priority)
    else if pages a ≠ pages b then decide (pages a > pages b) else decide (a > b)
  foldS (fun (l : List Nat) n =>
    let (x, y) := l.span fun m => before m n
    x ++ n :: y) [] can

/-- The first of the victims whose pages cover a need; none where they cannot. -/
def State.coverNeed (s : State) (pt : Part) : Nat → List Nat → Option (List Nat)
  | need, [] => if need = 0 then some [] else none
  | need, n :: t =>
    if need = 0 then some []
    else (s.coverNeed pt (need - (s.validEntries (s.seqCtx pt n)).length) t).map (n :: ·)

/-- The heads a running slice of a DECODE_STEP that has not run holds, by sequence in list order. -/
def Desc.seqInSlice (d : Desc) (seq : Nat) : Bool :=
  match d.slice with
  | none => false
  | some sl =>
    let before := (d.seqStat.takeWhile fun e => e.1 != seq).foldl (fun n e => n + if seqActive e.2 then e.2 % 512 else 0) 0
    !sl.ran && seqActive (d.seqState seq) && decide (before < sl.count)

/-- A sequence begins to be swapped out: in every started DECODE_STEP its later units take status 0x05 when the swap
ends; a descriptor whose running slice holds units of it finishes them first (R372, R375). -/
def State.beginSwap (s : State) (p seq grower : Nat) : State :=
  s.updPart p fun q =>
    { q with
      swaps := q.swaps ++ [⟨seq, grower, (q.descs.filter fun d => d.opcode == 0x0310 && d.seqInSlice seq).map fun d => d.ref p⟩]
      seqWaits := q.seqWaits.filter fun x => x.seq != seq
      descs := q.descs.map fun (d : Desc) =>
        if d.opcode == 0x0310 && d.active && !seqFinal (d.seqState seq) && !bitOf (d.seqState seq) 15 &&
            d.seqStat.any (fun e => e.1 == seq) && !d.seqInSlice seq
        then d.setSeq seq (4096 + 32768 + d.seqState seq % 512) else d }

/-- One waiting sequence is resolved at step 4 (R371): victims' pages, those already on their way to it among them, must cover its
need. -/
def State.resolveWait (s : State) (p : Nat) (w : SeqWait) : State :=
  let pt := s.part p
  if !pt.seqWaits.contains w then s
  else
    let coming := (pt.swaps.filter fun x => x.grower == w.seq && x.seq != w.seq).foldl
      (fun n x => n + (s.validEntries (s.seqCtx pt x.seq)).length) w.kept
    let cover := if pt.page.preempt = 1 then s.coverNeed pt (w.need - coming) (s.victims pt w.seq) else none
    match cover with
    | some l => foldS (fun (t : State) v => t.beginSwap p v w.seq) s l
    | none => s.beginSwap p w.seq w.seq

/-- The waiting sequences in the order of R370. -/
def State.waitOrder (s : State) (pt : Part) : List SeqWait :=
  foldS (fun (l : List SeqWait) w => let (x, y) := l.span fun v => s.waitBefore pt v w; x ++ w :: y) [] pt.seqWaits

/-- Step 4 of a boundary for one partition: the waiting sequences are resolved in order. -/
def State.resolveWaits (s : State) (p : Nat) : State := foldS (fun (t : State) w => t.resolveWait p w) s (s.waitOrder (s.part p))

/-- After a slice of a DECODE_STEP, sequences being swapped give way, those that wait for pages too (R372). -/
def State.settleSwaps (s : State) (r : DRef) : State :=
  let out : List Nat := (s.part r.part).swaps.map fun w => w.seq
  (s.updDesc r fun d => out.foldl (fun (x : Desc) n =>
    if (x.seqStat.any fun e => e.1 == n) && !seqFinal (x.seqState n) && !bitOf (x.seqState n) 15 then
      x.setSeq n (4096 + 32768 + x.seqState n % 512) else x) d).updPart r.part fun q =>
    { q with
      swaps := q.swaps.map fun w => { w with running := w.running.filter fun x => x != r }
      seqWaits := q.seqWaits.filter fun w => !(w.ref == r && out.contains w.seq) }

/-- The decodes whose sequences have all ended end. -/
def State.endDecodes (s : State) (p : Nat) : State :=
  foldS (fun (t : State) (d : Desc) =>
    if d.opcode == 0x0310 && d.phase == .running && d.slice.isNone && d.status.isNone && d.seqAllDone then
      (t.endDecode (d.ref p)).updDesc (d.ref p) fun x => { x with phase := .ended }
    else t) s (s.part p).descs

/-- SWAP_COMPLETE: the swap of a sequence ends, once no running slice holds units of it (R372). A DECODE_STEP whose
last sequence this was has ended. -/
def State.swapComplete (s : State) (p seq : Nat) : State :=
  let pt := s.part p
  match pt.swaps.find? fun w => w.seq == seq with
  | none => s
  | some w =>
    if s.halted || !w.running.isEmpty then s
    else ((s.swapDone p w).endDecodes p).testWaits p

/-- SWAP_COMPLETE. -/
def execSwapComplete (part : Nat) (seq : SeqReading) (s : State) : Host.Outcome State Fault Refusal :=
  .next ((if s.halted then s else s.findAll 0 0 seq.found).swapComplete part seq.seq)

end Sys2Proof.Machine
end

