-- ==== Sys2Proof/Machine/Local.lean ====
section
/-!
DEFINITION. Descriptors that need no engine of a cluster: NOP, FLAG, COPY and STATE_DUMP (R170, R171, R181 to R183,
R189 to R192).
-/

namespace Sys2Proof.Machine

/-! ## NOP (R164) -/

/-- Start a descriptor of opcode `op` that is not sliced, if it may start, and apply `f` to the state in which it has. -/
def State.startOp (s : State) (r : DRef) (op : Nat) (f : State → Desc → State) : State :=
  match s.desc r with
  | none => s
  | some d => if d.opcode = op ∧ s.mayStart r.part d then f (s.updDesc r fun x => x.begin' s.tickNo) d else s

/-- NOP completes OK when admitted. -/
def execNop (r : DRef) (s : State) : Host.Outcome State Fault Refusal :=
  .next (s.startOp r 0 fun t _ => t.updDesc r fun x => x.finish stOk 0)

/-! ## FLAG (R171, R181 to R183, R246 to R250) -/

/-- Fetch checks of FLAG (R171, R181). -/
def flagSpec (d : Desc) : OpSpec :=
  { OpSpec.plain [bits44 0x40, bitsAt 0x48 0 64, bitsAt 0x50 0 64, bitsAt 0x58 0 4] 0 with
    encOk := decide (d.flagMode < 4) && (d.flagMode != 3 || d.flagMask == 2 ^ 64 - 1)
    win := [(d.flagAddr, 8, 8)] }

/-- A wait starts, and tests for the first time (R182). -/
def State.startWait (s : State) (r : DRef) (mode : Nat) : State :=
  match s.desc r with
  | none => s
  | some d => if d.flagMode = mode then (s.startOp r 1 fun t _ => t.testWait r) else s

/-- WAIT_GE. -/
def execWaitGe (r : Reading) (s : State) : Host.Outcome State Fault Refusal := .next ((s.finds r.ref r.found).startWait r.ref 0)
/-- WAIT_EQ. -/
def execWaitEq (r : Reading) (s : State) : Host.Outcome State Fault Refusal := .next ((s.finds r.ref r.found).startWait r.ref 1)

/-- The registered buffer whose ownership word lies at an address. -/
def Part.ownerWord (pt : Part) (a : Nat) : Option Nat := (pt.bufs.find? fun e => e.2.flag == a).map (·.1)

/-- The release value of an ownership word: OWNER 0, the next generation (R246, R247). -/
def releaseValue (w : Nat) : Nat := (w % 2 ^ 48 + 1) % 2 ^ 48

/-- DETAIL of WINDOW_OWNERSHIP for a flag operation on the word of buffer `k` (R247, R250), or none where it may apply.
A SET that finds OWNER 0 is reported so whatever its value. -/
def Desc.ownershipBreach (d : Desc) (k w : Nat) : Option Nat :=
  if d.flagMode = 3 then some (k + 2 * 4096)
  else if !bitOf w 63 then some (k + 3 * 4096)
  else if d.flagMask = 2 ^ 64 - 1 ∧ d.flagValue = releaseValue w then none
  else some (k + 4096)

/-- The word after a SET or ADD (R171). -/
def Desc.flagResult (d : Desc) (w : Nat) : Nat :=
  if d.flagMode = 3 then (w + d.flagValue) % 2 ^ 64
  else (w &&& (2 ^ 64 - 1 - d.flagMask)) ||| (d.flagValue &&& d.flagMask)

/-- SET and ADD: the word changes, and waits on it test (R171, R181 to R183, R247). -/
def State.flagWrite (s : State) (r : DRef) (mode : Nat) : State :=
  match s.desc r with
  | none => s
  | some d0 =>
    if d0.flagMode ≠ mode then s
    else s.startOp r 1 fun t d =>
      match t.poisonIn d.flagAddr 8 with
      | some l => t.updDesc r fun x => x.finish stMemory l
      | none =>
        let w := t.rdN d.flagAddr 8
        match ((t.part r.part).ownerWord d.flagAddr).bind fun k => d.ownershipBreach k w with
        | some detail => t.updDesc r fun x => x.finish stOwnership detail
        | none => ((t.wrN d.flagAddr 8 (d.flagResult w)).testWaits r.part).updDesc r fun x => x.finish stOk 0

/-- SET. -/
def execSet (r : Reading) (s : State) : Host.Outcome State Fault Refusal := .next ((s.finds r.ref r.found).flagWrite r.ref 2)
/-- ADD. -/
def execAdd (r : Reading) (s : State) : Host.Outcome State Fault Refusal := .next ((s.finds r.ref r.found).flagWrite r.ref 3)

/-! ## COPY (R170) -/

def Desc.copySrc (d : Desc) : Nat := d.addr 0x40
def Desc.copyDst (d : Desc) : Nat := d.addr 0x48
def Desc.copyLen (d : Desc) : Nat := d.w64 0x50 % 2 ^ 40

/-- A unit of COPY and STATE_DUMP (R207). -/
def unitBytes : Nat := 2 ^ 20

/-- Fetch checks of COPY (R170, R173). -/
def copySpec (d : Desc) : OpSpec :=
  { OpSpec.plain [bits44 0x40, bits44 0x48, bitsAt 0x50 0 40] 0 with
    ranges := [(d.copySrc, d.copyLen, 1), (d.copyDst, d.copyLen, 1)] }

/-- Admission of COPY (R170, R248). -/
def admitCopy (s : State) (p : Nat) (d : Desc) : Chk Desc := do
  need (!s.sharesByte d.copySrc d.copyLen d.copyDst d.copyLen) 0x08 0xFF
  s.needOwned (s.part p) [(d.copySrc, d.copyLen), (d.copyDst, d.copyLen)]
  if d.copyLen = 0 then .error (stEmptyOutput, 0) else return { d with units := ceilDiv d.copyLen unitBytes }

/-- COPY: the bytes of the running slice's units move; poison moves with them (R170, R533). -/
def runCopy (s : State) (d : Desc) (sl : Slice) (r : DRef) : State :=
  let lo := unitBytes * sl.first
  let n := min (unitBytes * sl.count) (d.copyLen - lo)
  let (t, bad) := s.moveBytes (d.copySrc + lo) (d.copyDst + lo) n
  (t.lateWrites r.part [(d.copyDst + lo, n)]).noteBad r bad

/-- COPY. -/
def execCopy (r : DRef) (s : State) : Host.Outcome State Fault Refusal :=
  .next (s.runSlice r 0x0002 fun t d sl => runCopy t d sl r)

/-! ## STATE_DUMP (R189 to R192) -/

def Desc.dumpDest (d : Desc) : Nat := d.addr 0x40
def Desc.dumpLen (d : Desc) : Nat := d.addr 0x48
def Desc.dumpFlags (d : Desc) : Nat := d.at' 0x60 2
def Desc.dumpTensors (d : Desc) : Nat := d.at' 0x62 2
def Desc.dumpSection (d : Desc) (i : Nat) : Bool := bitOf (d.w32 0x64) i

/-- Fetch checks of STATE_DUMP (R190). A list is an operand where its section is chosen. -/
def dumpSpec (d : Desc) : OpSpec :=
  { OpSpec.plain [bits44 0x40, bits44 0x48, bits44 0x50, bits44 0x58, bitsAt 0x60 0 37]
      (if d.dumpSection 0 || d.dumpSection 1 then 1 else 2) with
    ranges := (if d.dumpSection 2 then [(d.addr 0x50, 8 * d.dumpFlags, 8)] else []) ++
      (if d.dumpSection 3 then [(d.addr 0x58, 4 * d.dumpTensors, 4)] else [])
    win := [(d.dumpDest, d.dumpLen, 4096)] }

/-- What a stretch of a dump is made of: bytes, memory, a cluster's buffer, one tile of an accumulator slot. -/
inductive Piece where
  | bytes (l : List Byte)
  | mem (a n : Nat)
  | buffer (c : Nat)
  | tile (c core slot width : Nat)
deriving DecidableEq, Repr

/-- Bytes of a cluster buffer (R191). -/
def bufferBytes : Nat := 8 * 2 ^ 20

def Piece.len : Piece → Nat
  | .bytes l => l.length
  | .mem _ n => n
  | .buffer _ => bufferBytes
  | .tile _ _ _ w => 1024 * w

/-- Bytes [lo, lo + n) of a piece. An accumulator element is an FP32 word of 4 bytes or a container of 8 (R107). -/
def Piece.read (s : State) (lo n : Nat) : Piece → List Byte
  | .bytes l => sliceList l lo n
  | .mem a _ => s.rdBytes (a + lo) n
  | .buffer c =>
    let g := tget 0 s.clbuf c
    (List.range n).map fun i => if g = 0 then 0 else Config.clusterByte g (lo + i + bufferBytes * c)
  | .tile c core slot w =>
    let ws := (s.accTile c core slot).map fun x => if w = 4 then enc32 (of48 x) else x
    sliceList (ws.flatMap (leBytes w)) lo n

/-- The poisoned source lines of bytes [lo, lo + n): line, offset from `lo`, bytes. -/
def Piece.bad (s : State) (lo n : Nat) : Piece → List (Nat × Nat × Nat)
  | .mem a _ => ((linesOf (a + lo) n).filter s.isPoison).map fun l =>
      (l, max l (a + lo) - (a + lo), min (l + 64) (a + lo + n) - max l (a + lo))
  | _ => []

/-- The zeros that pad `n` bytes to a multiple of 64. -/
def padPiece (n : Nat) : Piece := .bytes (List.replicate (ceilDiv n 64 * 64 - n) 0)

/-- A section: its header and its data (R191). -/
def State.dumpSec (s : State) (kind count : Nat) (data : List Piece) : List Piece :=
  let n := data.foldl (fun k q => k + q.len) 0
  .bytes (leBytes 4 kind ++ leBytes 4 count ++ leBytes 8 (ceilDiv n 64 * 64) ++ leBytes 8 s.tickNo ++
    List.replicate 40 0) :: data ++ [padPiece n]

/-- A listed tensor: the bytes of its descriptor as they were read at admission (R163), then each plane; a strided tensor dense,
in logical order. -/
def dumpTensor (raw : List Byte) (t : TensorDesc) : List Piece :=
  let body := match stridedWidth t.format with
    | some w =>
      let rows := t.sz 1 * t.sz 2 * t.sz 3
      ((List.range rows).map fun j => Piece.mem (t.elemAddr (t.sz 0 * j)) (w * t.sz 0)) ++ [padPiece (w * t.count)]
    | none => t.planes.flatMap fun pl => [Piece.mem pl.1 pl.2, padPiece pl.2]
  .bytes raw :: (if t.count = 0 then [] else body)

/-- One ring's 32 bytes (R191, R204): what is in flight and has not started counts as fetched, though its entry wait. The tag of
a last completion that never was is free (log entry 6). -/
def Part.dumpRing (pt : Part) (ring free : Nat) : List Byte :=
  let q := pt.subRing ring
  let mine := pt.descs.filter fun d => d.ring == ring
  let late := (pt.comRing q.cq).waiting.filter fun e => e.ring == ring && !e.started
  leBytes 4 (ring % 256 + (if q.stopped || q.poisoned then 256 else 0)) ++ leBytes 4 q.stopTag ++
    leBytes 4 ((mine.filter fun d => !d.started).length + late.length) ++ leBytes 4 (mine.filter Desc.active).length ++
    leBytes 4 (q.lastTag.getD free) ++ List.replicate 12 0

/-- Every piece of a dump in order. The header records' unstated fields and unstated tags are `x`, `y` (R108). -/
def State.dumpPieces (s : State) (p : Nat) (d : Desc) (x y : Nat) : List Piece :=
  let pt := s.part p
  let cl := d.clusters
  let w := if d.mode = 0 then 4 else 8
  let accs := Piece.bytes (padTo (accHeader cl.length 32) (cl.flatMap fun c => (List.range 32).flatMap fun k =>
      s.accRecord c k x y)) ::
    cl.flatMap fun c => (List.range coresPerCluster).flatMap fun core => (List.range 32).map fun k => Piece.tile c core k w
  let flags := (List.range d.dumpFlags).flatMap fun i =>
    let a := leNat (sliceList d.list (8 * i) 8)
    [Piece.bytes (leBytes 8 a), Piece.mem a 8]
  let tens := (d.tds.zipIdx).flatMap fun (e, i) => dumpTensor (sliceList d.list (8 * d.dumpFlags + 64 * i) 64) e.2
  (if d.dumpSection 0 then s.dumpSec 1 cl.length accs else []) ++
  (if d.dumpSection 1 then s.dumpSec 2 cl.length (cl.map Piece.buffer) else []) ++
  (if d.dumpSection 2 then s.dumpSec 3 d.dumpFlags flags else []) ++
  (if d.dumpSection 3 then s.dumpSec 4 d.tds.length tens else []) ++
  (if d.dumpSection 4 then s.dumpSec 5 d.prog.length (d.prog.map fun n => Piece.bytes (pt.dumpRing n x)) else []) ++
  s.dumpSec 0 0 []

/-- Demand a condition on entry `i` of a list, else BAD_DESCRIPTOR. An index that DETAIL cannot hold is reported as 0x7FF (R185;
DESIGN CHOICE, log entry 44). -/
def needEntry (c : Bool) (code i : Nat) : Chk Unit :=
  if c then .ok () else .error (stBadDescriptor, badDetail code 0xFF (min i 0x7FF))

/-- Admission of STATE_DUMP: its lists, its tensors and its size (R46, R162, R181, R190). An entry that names no tensor is refused
with code 0x05 (DESIGN CHOICE, log entry 44). `list` keeps the flag list, then the tensor descriptors as read. The rings it will
show are those enabled now. -/
def admitDump (s : State) (p : Nat) (d : Desc) : Chk Desc := do
  let pt := s.part p
  let nf := if d.dumpSection 2 then d.dumpFlags else 0
  let fixed : List Byte := if d.dumpSection 2 then [] else List.replicate (8 * d.dumpFlags) 0
  let nt := if d.dumpSection 3 then d.dumpTensors else 0
  s.needClean (d.addr 0x50) (8 * nf)
  s.needClean (d.addr 0x58) (4 * nt)
  for i in List.range nf do
    let a := s.rdN (d.addr 0x50 + 8 * i) 8
    needEntry (decide (a % 8 = 0) && pt.inWindow a 8) 0x05 i
  let mut tds : List (Nat × TensorDesc) := []
  for i in List.range nt do
    let ptr := s.rdN (d.addr 0x58 + 4 * i) 4
    needEntry (ptr != noTensor) 0x05 i
    let t ← match s.readTd p ptr 0xFF .listed with
      | .ok t => .ok t
      | .error (st, x) => .error (if st = stBadDescriptor then (st, badDetail (x % 256) 0xFF (min i 0x7FF)) else (st, x))
    needEntry (t.format != fW48) 0x08 i
    tds := tds ++ [(ptr, t)]
  let raws := tds.flatMap fun e => s.rdBytes (pt.page.tdBase + 64 * e.1) 64
  let d' := { d with list := fixed ++ s.rdBytes (d.addr 0x50) (8 * nf) ++ raws, tds := tds, prog := pt.rings }
  let n := (s.dumpPieces p d' 0 0).foldl (fun k q => k + q.len) 0
  need (decide (n ≤ d.dumpLen)) 0x0B 0xFF
  s.needOwned pt ((d.dumpDest, n) :: tds.flatMap fun e => e.2.planes)
  return { d' with units := ceilDiv n unitBytes }

/-- Cut a list of pieces to bytes [lo, hi): piece, first byte in it, bytes, and offset from `lo`. -/
def cutPieces (lo hi : Nat) : Nat → List Piece → List (Piece × Nat × Nat × Nat)
  | _, [] => []
  | o, q :: t =>
    let rest := cutPieces lo hi (o + q.len) t
    if o < hi ∧ lo < o + q.len then
      (q, max lo o - o, min hi (o + q.len) - max lo o, max lo o - lo) :: rest
    else rest

/-- A piece is read from on-chip storage `c`: accumulator memory or a cluster buffer, of a cluster (R530). -/
def Piece.onChip (c : Nat × Nat) : Piece → Bool
  | .buffer b => c.1 == 3 && b == c.2
  | .tile b _ _ _ => c.1 == 2 && b == c.2
  | _ => false

/-- The line a dump writes from an uncorrectable word of on-chip storage: which one of those that hold bytes of it is free (log
entry 40). -/
def State.dumpChip (s : State) (r : DRef) (c : Nat × Nat) (lines : List Nat) : State :=
  match lines with
  | [] => s
  | _ :: _ =>
    let (i, t) := s.freeBelow lines.length
    (t.setPoison (lines.getD i 0)).updDesc r fun x =>
      if x.status.isNone then { x.decide' stMemory chipAddr with chip := some c } else x

/-- STATE_DUMP: the running slice's bytes are written, each line whole; poison moves with them, and so does an uncorrectable word
of on-chip storage (R191, R532, R533). -/
def runDump (s : State) (d : Desc) (sl : Slice) (r : DRef) : State :=
  let (x, s1) := s.free
  let (y, s2) := s1.free
  let cuts := cutPieces (unitBytes * sl.first) (unitBytes * (sl.first + sl.count)) 0 (s.dumpPieces r.part d x y)
  let bytes := cuts.flatMap fun c => c.1.read s c.2.1 c.2.2.1
  let bad := cuts.flatMap fun c => (c.1.bad s c.2.1 c.2.2.1).map fun b => (b.1, c.2.2.2 + b.2.1, b.2.2)
  let a := d.dumpDest + unitBytes * sl.first
  let s3 := s2.wrBytes a bytes
  let s4 := foldS State.setPoison s3 (bad.flatMap fun b => linesOf (a + b.2.1) b.2.2)
  let s5 := (s4.lateWrites r.part [(a, bytes.length)]).noteBad r (bad.head?.map (·.1))
  match sl.chip with
  | some c => s5.dumpChip r c ((cuts.filter fun q => q.1.onChip c).flatMap fun q => linesOf (a + q.2.2.2) q.2.2.1)
  | none => s5

/-- STATE_DUMP. It changes nothing but its destination, so its clusters' buffers stay as they are (R189). -/
def State.dumpRow (s : State) (r : DRef) : State :=
  match s.desc r with
  | none => s
  | some d => match d.slice with
    | none => s
    | some sl =>
      if d.opcode ≠ 3 ∨ sl.ran ∨ s.halted then s
      else ((runDump s d sl r).updDesc r fun x => { x with slice := some { sl with ran := true } }).testWaits r.part

/-- STATE_DUMP. -/
def execStateDump (r : Reading) (s : State) : Host.Outcome State Fault Refusal := .next ((s.finds r.ref r.found).dumpRow r.ref)

end Sys2Proof.Machine
end

