-- ==== Sys2Proof/Machine/Media.lean ====
section
/-!
DEFINITION. Media intake: STREAM_OPEN, STREAM_CLOSE, MEDIA_SAMPLE and its samples (R291 to R322).
-/

namespace Sys2Proof.Machine

/-! ## Engines (R15, R291) -/

/-- Unit kind of a sample kind: 1 video, 2 JPEG, 3 inflate, 4 audio. -/
def mediaClass (kind : Nat) : Nat := if kind ≤ 3 then kind else 4

/-- Engines of a class on each die. -/
def mediaPerDie (cls : Nat) : Nat := if cls = 1 then 16 else if cls = 2 then 8 else if cls = 3 then 4 else 2

/-- The mask of a partition's engines of a class. -/
def PartEntry.mediaMask (e : PartEntry) (cls : Nat) : Nat :=
  if cls = 1 then e.video else if cls = 2 then e.jpeg else if cls = 3 then e.inflate else e.audio

/-- Engine `n` of a class exists and is not fused off. -/
def State.mediaPresent (s : State) (cls n : Nat) : Bool :=
  if cls = 1 then s.videoPresent n else decide (n < 4 * mediaPerDie cls)

/-! ## Streams (R294 to R297) -/

def Desc.streamId (d : Desc) : Nat := fld (d.w32 0x40) 11 0
def Desc.streamCodec (d : Desc) : Nat := fld (d.w32 0x40) 15 12
def Desc.streamEngine (d : Desc) : Nat := fld (d.w32 0x40) 23 16

/-- The largest frame of a codec (R292): 1 AV1, 2 HEVC, 3 AVC. -/
def codecFrame (codec : Nat) : Nat × Nat := (8192, if codec = 1 then 4352 else 4320)

/-- Fetch checks of STREAM_OPEN (R294). -/
def streamOpenSpec (s : State) (p : Nat) (d : Desc) : OpSpec :=
  let e := d.streamEngine
  { mask := [bitsAt 0x40 0 24, bits32 0x44, bits44 0x48, bits32 0x50, bits44 0x58, bits44 0x60]
    encOk := 1 ≤ d.streamCodec && d.streamCodec ≤ 3 && 1 ≤ d.w32 0x50 && d.w32 0x50 ≤ 65536
    tdps := []
    ranges := [(d.addr 0x48, d.w32 0x50, 1), (d.addr 0x58, d.addr 0x60, 4096)]
    win := []
    set := 0
    units := if e = 0xFF ∨ s.mediaPresent 1 e then [] else [(e, 1)]
    assigned := e == 0xFF || bitOf (s.part p).ent.video e }

/-- Fetch checks of STREAM_CLOSE (R297). -/
def streamCloseSpec : OpSpec := OpSpec.plain [bitsAt 0x40 0 12] 0

/-- The media limit entry of a ring: pixel limit and expansion ratio (R301). -/
def State.mediaLimit (s : State) (p ring : Nat) : Chk (Nat × Nat) := do
  let pt := s.part p
  let a := pt.page.mediaBase + 16 * ring
  need (s.inRange pt a 16) 0x05 0xFF
  s.needClean a 16
  need (decide (s.rdN (a + 6) 2 = 0 ∧ s.rdN (a + 8) 8 = 0)) 0x07 0xFF
  let px := s.rdN a 4
  let rt := s.rdN (a + 4) 2
  return (if px = 0 then 67108864 else px, if rt = 0 then 4096 else rt)

/-- The open stream of an identifier. -/
def Part.stream (pt : Part) (n : Nat) : Option Stream := tlook pt.streams n

/-- Admission of STREAM_OPEN (R295), its parameter data apart. -/
def admitStreamOpen (s : State) (p : Nat) (d : Desc) : Chk Desc := do
  let pt := s.part p
  let w := d.at' 0x44 2
  let h := d.at' 0x46 2
  let lim ← s.mediaLimit p d.ring
  s.needOwned pt [(d.addr 0x48, d.w32 0x50), (d.addr 0x58, d.addr 0x60)]
  need ((pt.stream d.streamId).isNone && decide (w ≠ 0 ∧ h ≠ 0) && decide (w ≤ (codecFrame d.streamCodec).1) &&
    decide (h ≤ (codecFrame d.streamCodec).2)) 0x08 0xFF
  if w * h > lim.1 then .error (stDimClaim, 0)
  else
    need (decide (51 * w * h + 65536 ≤ d.addr 0x60) &&
      decide (pt.streams.length < 64 * countBits 64 pt.ent.video)) 0x0B 0xFF
    return d

/-- STREAM_OPEN: the engine parses the parameter data (R295). -/
def State.streamOpen (s : State) (r : DRef) : State :=
  match s.desc r with
  | none => s
  | some d =>
    if d.opcode ≠ 0x0401 ∨ !s.mayStart r.part d then s
    else
      let s1 := s.updDesc r fun x => x.begin' s.tickNo
      let hdr := s1.rdBytes (d.addr 0x48) (d.w32 0x50)
      match s1.poisonIn (d.addr 0x48) (d.w32 0x50) with
      | some l => s1.updDesc r fun x => x.finish stMemory l
      | none =>
        let pt := s1.part r.part
        if !Config.streamParses d.streamCodec hdr || (pt.stream d.streamId).isSome then s1.updDesc r fun x => x.finish stBadDescriptor (badCode 0x08)
        else if pt.streams.length ≥ 64 * countBits 64 pt.ent.video then
          s1.updDesc r fun x => x.finish stBadDescriptor (badCode 0x0B)
        else
          let st : Stream := ⟨d.streamCodec, d.streamEngine, d.at' 0x44 2, d.at' 0x46 2, d.addr 0x58, d.addr 0x60, none, hdr⟩
          let s2 := s1.updPart r.part fun q => { q with streams := tput q.streams d.streamId st }
          (s2.blurMem st.ctx st.ctxLen).updDesc r fun x => x.finish stOk 0

/-- STREAM_OPEN. -/
def execStreamOpen (r : DRef) (found : List Found) (s : State) : Host.Outcome State Fault Refusal :=
  .next ((s.finds r found).streamOpen r)

/-! ## Sample list entries and the recipe (R299, R300) -/

/-- The 64 bytes of the recipe come first in a MEDIA_SAMPLE's list, then the entries. -/
def Desc.recipe (d : Desc) (o n : Nat) : Nat := leNat (sliceList d.list o n)

/-- A field of sample `i`'s list entry. -/
def Desc.samp (d : Desc) (i o n : Nat) : Nat := leNat (sliceList d.list (64 + 64 * i + o) n)

def Desc.sampleCount (d : Desc) : Nat := fld (d.w32 0x70) 10 0
def Desc.segBase (d : Desc) : Nat := fld (d.w32 0x6C) 26 17
def Desc.tokBase (d : Desc) : Nat := fld (d.w32 0x6C) 16 0
def Desc.planar (d : Desc) : Bool := bitOf (d.w32 0x6C) 27
/-- The sample budget (R157). -/
def Desc.mediaBudget (d : Desc) : Nat := if d.budget = 0 then 16 else d.budget

def Desc.sKind (d : Desc) (i : Nat) : Nat := fld (d.samp i 0 4) 3 0
def Desc.sStream (d : Desc) (i : Nat) : Nat := fld (d.samp i 0 4) 15 4
def Desc.sSrc (d : Desc) (i : Nat) : Nat := d.samp i 8 8 % 2 ^ 44
def Desc.sSrcLen (d : Desc) (i : Nat) : Nat := d.samp i 0x10 4
def Desc.sWidth (d : Desc) (i : Nat) : Nat := d.samp i 0x14 2
def Desc.sHeight (d : Desc) (i : Nat) : Nat := d.samp i 0x16 2
def Desc.sRate (d : Desc) (i : Nat) : Nat := d.samp i 0x14 4
def Desc.visual (d : Desc) (i : Nat) : Bool := d.sKind i ≤ 3
/-- Frames a visual sample outputs: FRAMES for video, else one. -/
def Desc.sFrames (d : Desc) (i : Nat) : Nat := if d.sKind i = 1 then d.samp i 0x18 2 else 1
def Desc.sStride (d : Desc) (i : Nat) : Nat := d.samp i 0x1A 1
def Desc.sChannels (d : Desc) (i : Nat) : Nat := fld (d.samp i 0x18 4) 3 0
def Desc.sLen (d : Desc) (i : Nat) : Nat := d.samp i 0x1C 4
def Desc.cropX (d : Desc) (i : Nat) : Nat := d.samp i 0x20 2
def Desc.cropY (d : Desc) (i : Nat) : Nat := d.samp i 0x22 2
def Desc.cropW (d : Desc) (i : Nat) : Nat := if d.samp i 0x24 2 = 0 then d.sWidth i - d.cropX i else d.samp i 0x24 2
def Desc.cropH (d : Desc) (i : Nat) : Nat := if d.samp i 0x26 2 = 0 then d.sHeight i - d.cropY i else d.samp i 0x26 2
/-- START and COUNT of an audio sample. -/
def Desc.pcmStart (d : Desc) (i : Nat) : Nat := d.samp i 0x20 4
def Desc.pcmCount (d : Desc) (i : Nat) : Nat := if d.samp i 0x24 4 = 0 then d.sLen i - d.pcmStart i else d.samp i 0x24 4
def Desc.fx (d : Desc) (i : Nat) : Nat := fld (d.samp i 0x28 4) 4 0
def Desc.fy (d : Desc) (i : Nat) : Nat := fld (d.samp i 0x28 4) 12 8

def Desc.rColour (d : Desc) : Nat := fld (d.recipe 0 4) 1 0
def Desc.rFull (d : Desc) : Bool := bitOf (d.recipe 0 4) 2
def Desc.rPatch (d : Desc) : Nat := fld (d.recipe 0 4) 13 8
def Desc.rTubelet (d : Desc) : Nat := 2 ^ fld (d.recipe 0 4) 15 14
def Desc.rMix (d : Desc) : Bool := bitOf (d.recipe 0 4) 16
def Desc.rMean (d : Desc) (c : Nat) : Nat := d.recipe (0x08 + 4 * c) 4
def Desc.rScale (d : Desc) (c : Nat) : Nat := d.recipe (0x14 + 4 * c) 4
def Desc.rRate (d : Desc) : Nat := fld (d.recipe 0x20 4) 17 0
def Desc.rN (d : Desc) : Nat := 2 ^ fld (d.recipe 0x24 4) 3 0
def Desc.rHop (d : Desc) : Nat := fld (d.recipe 0x24 4) 20 8
def Desc.rMels (d : Desc) : Nat := fld (d.recipe 0x24 4) 29 21

/-- The entry holds no reserved field and no reserved code (R299). A value outside a field's stated range counts as a
reserved code. -/
def Desc.entryOk (d : Desc) (i : Nat) : Bool :=
  let h := d.samp i 0 4
  let k := d.sKind i
  let counts := d.samp i 0x18 4
  let factors := d.samp i 0x28 4
  1 ≤ k && k ≤ 6 && decide (fld h 31 18 = 0) && (k == 1 || decide (d.sStream i = 0)) && decide (d.samp i 8 8 < 2 ^ 44) &&
  decide (leNat (sliceList d.list (64 + 64 * i + 0x2C) 20) = 0) &&
  (if k = 1 then decide (fld counts 31 24 = 0) && 1 ≤ d.sStride i
   else if k ≤ 3 then decide (counts = 0 ∧ d.sLen i = 0)
   else decide (fld counts 31 4 = 0) && 1 ≤ d.sChannels i && d.sChannels i ≤ 8 && decide (factors = 0) &&
     8000 ≤ d.sRate i && d.sRate i ≤ 192000 && (k != 5 || d.sRate i == 48000)) &&
  (decide (3 < k) || (1 ≤ d.fx i && d.fx i ≤ 16 && 1 ≤ d.fy i && d.fy i ≤ 16 &&
    decide (fld factors 7 5 = 0 ∧ fld factors 31 13 = 0)))

/-- The audio fields are valid (R300). -/
def Desc.audioOk (d : Desc) : Bool :=
  let fmin := of32 (d.recipe 0x28 4)
  let fmax := of32 (d.recipe 0x2C 4)
  let g := d.recipe 0x24 4
  8000 ≤ d.rRate && d.rRate ≤ 48000 && 6 ≤ fld g 3 0 && fld g 3 0 ≤ 12 && decide (fld g 5 4 ≠ 3) && 1 ≤ d.rHop &&
  d.rHop ≤ d.rN && 1 ≤ d.rMels && d.rMels ≤ 256 && fmin.isFin && fmax.isFin && (Fp.zero.le fmin) && fmin.lt fmax &&
  (fmax.scale 1).le (Fp.ofNat d.rRate) && isPosNormal (d.recipe 0x30 4)

/-- The recipe holds no reserved field and no reserved code (R300). P is ignored in PLANAR mode. -/
def Desc.recipeOk (d : Desc) : Bool :=
  let h := d.recipe 0 4
  let g := d.recipe 0x24 4
  decide (fld h 7 3 = 0 ∧ fld h 31 17 = 0 ∧ d.recipe 4 4 = 0 ∧ fld (d.recipe 0x20 4) 31 18 = 0 ∧ fld g 7 6 = 0 ∧
    bitOf g 31 = false ∧ d.recipe 0x34 12 = 0) &&
  (d.planar || (1 ≤ d.rPatch && d.rPatch ≤ 32)) &&
  ((List.range 3).all fun c => (of32 (d.rMean c)).isFin && (of32 (d.rScale c)).isFin) &&
  (d.audioOk || (List.range d.sampleCount).all d.visual)

/-! ## Shapes and claims (R302, R306, R308, R311, R314) -/

/-- Values the resampler gives (R308 step 4). -/
def Desc.resampled (d : Desc) (i : Nat) : Nat :=
  if d.sRate i = d.rRate then d.pcmCount i else d.pcmCount i * d.rRate / max 1 (d.sRate i)

/-- STFT frames (R308 step 5). -/
def Desc.stftFrames (d : Desc) (i : Nat) : Nat :=
  if d.resampled i < d.rN then 0 else (d.resampled i - d.rN) / max 1 d.rHop + 1

/-- Channels, width, height and frames a sample gives. -/
def Desc.sShape (d : Desc) (i : Nat) : Nat × Nat × Nat × Nat :=
  if d.visual i then (3, d.cropW i / max 1 (d.fx i), d.cropH i / max 1 (d.fy i), d.sFrames i)
  else (1, d.rMels, d.stftFrames i, 1)

/-- T of a sample (R311). -/
def Desc.sTube (d : Desc) (i : Nat) : Nat := if d.sKind i = 1 then d.rTubelet else 1

/-- Elements D of a sample's token. -/
def Desc.tokenLen (d : Desc) (i : Nat) : Nat := (d.sShape i).1 * d.sTube i * d.rPatch * d.rPatch

/-- Tokens of a sample. -/
def Desc.tokens (d : Desc) (i : Nat) : Nat :=
  let (_, w, h, f) := d.sShape i
  f / d.sTube i * (h / max 1 d.rPatch) * (w / max 1 d.rPatch)

/-- Tokens of the first `i` samples. -/
def Desc.tokensBefore (d : Desc) (i : Nat) : Nat := (List.range i).foldl (fun n j => n + d.tokens j) 0

/-- START and LENGTH of sample `i`'s mark (R313). -/
def Desc.markSpan (d : Desc) (i : Nat) : Nat × Nat :=
  if d.planar then (i, 1) else (d.tokBase + d.tokensBefore i, d.tokens i)

/-- C and S of a sample (R302). -/
def Desc.claim (d : Desc) (i : Nat) : Nat × Nat :=
  let wh := d.sWidth i * d.sHeight i
  if d.sKind i = 1 then
    (3 * wh * (d.sLen i + d.sFrames i * d.sStride i + 1 - d.sStride i), 3 * wh * d.sFrames i)
  else if d.visual i then (3 * wh, 3 * wh)
  else (4 * d.sChannels i * d.sLen i, 4 * d.sChannels i * d.sLen i)

/-- Sample `i` claims more than R303 allows. -/
def Part.overClaim (pt : Part) (d : Desc) (lim : Nat × Nat) (i : Nat) : Bool :=
  let (w, h) := (d.sWidth i, d.sHeight i)
  let frame := if d.sKind i = 1 then
      match pt.stream (d.sStream i) with
      | some st => (min st.maxW (codecFrame st.codec).1, min st.maxH (codecFrame st.codec).2)
      | none => codecFrame 1
    else (65535, 65535)
  (d.visual i && (decide (w * h > lim.1) || decide (w > frame.1) || decide (h > frame.2))) ||
    decide ((d.claim i).1 > lim.2 * d.sSrcLen i)

/-- The crop of a sample lies within its frame or audio input, and its scaled sizes are whole (R304). -/
def Desc.cropOk (d : Desc) (i : Nat) : Bool :=
  if d.visual i then
    decide (d.cropX i + d.cropW i ≤ d.sWidth i ∧ d.cropY i + d.cropH i ≤ d.sHeight i) &&
    decide (d.cropW i % d.fx i = 0 ∧ d.cropH i % d.fy i = 0) &&
    (d.planar || decide ((d.sShape i).2.1 % d.rPatch = 0 ∧ (d.sShape i).2.2.1 % d.rPatch = 0)) &&
    decide (d.sFrames i ≠ 0) && (d.planar || decide (d.sFrames i % d.sTube i = 0))
  else
    decide (d.pcmStart i + d.pcmCount i ≤ d.sLen i) && (d.planar || decide (d.rMels % d.rPatch = 0))

/-- The output takes sample `i` (R311, R314). -/
def Desc.outOk (d : Desc) (o : TensorDesc) (i : Nat) : Bool :=
  let (c, w, h, f) := d.sShape i
  if d.planar then decide (o.sz 0 = w ∧ o.sz 1 = h ∧ o.sz 2 = c * f) else decide (d.tokenLen i ≤ o.sz 0)

/-- The output's format, rank and modes are those of R305. -/
def Desc.outFormatOk (d : Desc) (o : TensorDesc) : Bool :=
  (o.format == fFP32 || o.format == fBF16) && o.rank == (if d.planar then 4 else 2) && !o.smode && !o.sentryEn &&
    decide (o.sentryId = 0) && (!d.planar || d.sampleCount ≤ o.sz 3)

/-- MEDIA_SAMPLE check failures name the sample, or 0x7FF (R304). -/
def needAt (c : Bool) (code i : Nat) : Chk Unit :=
  if c then .ok () else .error (stBadDescriptor, badDetail code 0xFF i)

/-- Every sample passes, else the first that does not is named. -/
def Desc.needAll (d : Desc) (code : Nat) (f : Nat → Bool) : Chk Unit :=
  match (List.range d.sampleCount).find? fun i => !f i with
  | some i => needAt false code i
  | none => .ok ()

/-- Fetch checks of MEDIA_SAMPLE (R298). -/
def mediaSpec (d : Desc) : OpSpec :=
  { mask := [bits44 0x40, bits44 0x48, bits44 0x50, bits44 0x58, bits44 0x60, bits32 0x68, bitsAt 0x6C 0 28, bitsAt 0x70 0 11]
    encOk := 1 ≤ d.sampleCount && d.sampleCount ≤ 1024 && decide (d.tokBase ≤ 65535) && ptrRule (d.w32 0x68) true
    tdps := [d.w32 0x68]
    ranges := [(d.addr 0x40, 64 * d.sampleCount, 64), (d.addr 0x48, 64, 64),
      (d.addr 0x50, 16 * (d.segBase + d.sampleCount), 16), (d.addr 0x58, d.addr 0x60, 4096)]
    win := []
    set := 0
    units := []
    assigned := true }

/-- Admission of MEDIA_SAMPLE (R301 to R305, R311, R314). A row has at most 65,536 positions, whatever SIZE1 says (R5; log
entry 49). -/
def admitMedia (s : State) (p : Nat) (d0 : Desc) : Chk Desc := do
  let pt := s.part p
  let n := d0.sampleCount
  let lim ← s.mediaLimit p d0.ring
  s.needClean (d0.addr 0x48) 64
  s.needClean (d0.addr 0x40) (64 * n)
  let d := { d0 with list := s.rdBytes (d0.addr 0x48) 64 ++ s.rdBytes (d0.addr 0x40) (64 * n) }
  d.needAll 0x05 fun i => s.inRange pt (d.sSrc i) (d.sSrcLen i)
  needAt d.recipeOk 0x07 0x7FF
  d.needAll 0x07 d.entryOk
  let o ← s.readTd p (d.w32 0x68) 0xFF .quant
  match (List.range n).find? (pt.overClaim d lim) with
  | some i => .error (stDimClaim, i)
  | none => .ok ()
  d.needAll 0x08 fun i => decide (pt.ent.mediaMask (mediaClass (d.sKind i)) ≠ 0)
  d.needAll 0x08 d.cropOk
  needAt (decide (d.segBase + n ≤ 1024)) 0x08 0x7FF
  needAt (d.outFormatOk o) 0x08 0x7FF
  d.needAll 0x08 (d.outOk o)
  needAt (!((o.planes ++ [(d.addr 0x50 + 16 * d.segBase, 16 * n)]).any fun r =>
    s.sharesByte r.1 r.2 (d.addr 0x58) (d.addr 0x60))) 0x08 0x7FF
  d.needAll 0x0B fun i => decide ((d.claim i).2 ≤ d.addr 0x60)
  needAt (d.planar || decide (d.tokBase + d.tokensBefore n ≤ min (o.sz 1) 65536)) 0x0B 0x7FF
  s.needOwned pt (o.planes ++ [(d.addr 0x50 + 16 * d.segBase, 16 * n), (d.addr 0x58, d.addr 0x60)] ++
    (List.range n).map fun i => (d.sSrc i, d.sSrcLen i))
  return { d with
    tds := [(d.w32 0x68, o)], units := n
    samples := List.replicate n ⟨.waiting, 0, 0, none, 0, 0, []⟩ }

/-! ## Order (R315, R316) -/

def Desc.sample (d : Desc) (i : Nat) : Sample := d.samples.getD i ⟨.abandoned, 0, 0, none, 0, 0, []⟩

/-- The sample has left the order or lies behind its commit. -/
def Sample.gone (x : Sample) : Bool := x.state == .committed || x.state == .abandoned

/-- Samples of a MEDIA_SAMPLE that have still to commit; COUNT before its admission. -/
def Desc.uncommitted (d : Desc) : Nat :=
  if d.status.isSome then 0
  else if d.samples.isEmpty then d.sampleCount
  else (d.samples.filter fun x => !x.gone).length

/-- Uncommitted samples of the ring before sample `i` of descriptor `d`. -/
def Part.mediaAhead (pt : Part) (d : Desc) (i : Nat) : Nat :=
  ((pt.descs.filter fun e => e.ring == d.ring && e.opcode == 0x0400 && e.num != d.num && numLe e.num d.num).foldl
    (fun n e => n + e.uncommitted) 0) + ((d.samples.take i).filter fun x => !x.gone).length

/-- The sample is started and not committed. -/
def Sample.holdsScratch (x : Sample) : Bool := x.state == .decoding || x.state == .decoded || x.state == .hole

/-- Scratch in use by a descriptor's samples. -/
def Desc.scratchUsed (d : Desc) : Nat :=
  (List.range d.samples.length).foldl (fun n i => n + if (d.sample i).holdsScratch then (d.claim i).2 else 0) 0

/-- A waiting sample may start, an engine apart (R315, R296). -/
def Part.sampleReady (pt : Part) (d : Desc) (i : Nat) : Bool :=
  d.opcode == 0x0400 && d.active && d.status.isNone && (d.sample i).state == .waiting && pt.mediaAhead d i < 4096 &&
  d.scratchUsed + (d.claim i).2 ≤ d.addr 0x60 &&
  (d.sKind i != 1 || (match pt.stream (d.sStream i) with | some st => st.holder.isNone | none => true))

/-- The engine may take the sample: of its class, and the stream's own where the stream names one (R291, R294). -/
def Part.engineTakes (pt : Part) (d : Desc) (i engine : Nat) : Bool :=
  bitOf (pt.ent.mediaMask (mediaClass (d.sKind i))) engine &&
  (d.sKind i != 1 || (match pt.stream (d.sStream i) with
    | some st => st.engine == 0xFF || st.engine == engine
    | none => true))

/-- The engine of a class decodes a sample. -/
def Part.engineBusy (pt : Part) (cls engine : Nat) : Bool :=
  pt.descs.any fun d => d.opcode == 0x0400 && d.active &&
    (List.range d.samples.length).any fun i =>
      (d.sample i).state == .decoding && mediaClass (d.sKind i) == cls && (d.sample i).engine == engine

/-- Sample order of R315 among ready samples: the higher ring PRIO, then the older sample. Samples of different rings of
one PRIO are as old as their descriptors' admission. -/
def Part.sampleBefore (pt : Part) (a : Desc × Nat) (b : Desc × Nat) : Bool :=
  let (pa, pb) := ((pt.subRing a.1.ring).prio, (pt.subRing b.1.ring).prio)
  if pa ≠ pb then decide (pa > pb)
  else if a.1.ring == b.1.ring ∧ a.1.num == b.1.num then decide (a.2 < b.2)
  else if a.1.ring == b.1.ring then numLe a.1.num b.1.num
  else decide (a.1.order < b.1.order)

/-- A ready sample that the engine serves before sample `i`. -/
def Part.betterSample (pt : Part) (d : Desc) (i engine : Nat) : Bool :=
  pt.descs.any fun e => e.opcode == 0x0400 && (List.range e.samples.length).any fun j =>
    mediaClass (e.sKind j) == mediaClass (d.sKind i) && pt.sampleReady e j && pt.engineTakes e j engine &&
    pt.sampleBefore (e, j) (d, i)

/-- Change one sample. -/
def State.updSample (s : State) (r : DRef) (i : Nat) (f : Sample → Sample) : State :=
  s.updDesc r fun d => { d with samples := d.samples.set i (f (d.sample i)) }

/-- Free the stream a sample holds. -/
def Part.dropHolder (pt : Part) (h : DRef × Nat) : Part :=
  { pt with streams := pt.streams.map fun e => if e.2.holder == some h then (e.1, { e.2 with holder := none }) else e }

/-- A sample becomes a hole (R318); an offset of all ones names no byte. -/
def State.makeHole (s : State) (r : DRef) (i cause offset : Nat) : State :=
  (s.updSample r i fun x => { x with state := .hole, cause := cause, offset := offset, value := none }).updPart r.part
    fun q => q.dropHolder (r, i)

def noOffset : Nat := 2 ^ 64 - 1

/-- A started MEDIA_SAMPLE stops: its uncommitted samples leave the order and free their streams (R321). -/
def State.abandon (s : State) (r : DRef) : State :=
  let s1 := s.updDesc r fun d =>
    { d with samples := d.samples.map (fun x => if x.gone then x else { x with state := .abandoned, value := none })
             phase := .ended }
  s1.updPart r.part fun q =>
    { q with streams := q.streams.map fun e => match e.2.holder with
        | some (h, _) => if h == r then (e.1, { e.2 with holder := none }) else e
        | none => e }

/-! ## Start and decode (R296, R315, R318) -/

/-- MEDIA_SAMPLE starts once nothing holds it (R174). -/
def State.mediaStart (s : State) (r : DRef) : State :=
  match s.desc r with
  | some d => if d.opcode == 0x0400 && s.mayStart r.part d then s.updDesc r fun x => x.begin' s.tickNo else s
  | none => s

/-- MEDIA_SAMPLE. -/
def execMediaSample (r : DRef) (s : State) : Host.Outcome State Fault Refusal := .next (s.mediaStart r)

/-- The first `n` bytes of an area of `len` bytes from offset `o` on that none of the shares `used` takes; the first argument
bounds the pieces (DESIGN CHOICE, log entry 49: no rule places a share). -/
def takeShare (used : List (Nat × Nat)) (len : Nat) : Nat → Nat → Nat → List (Nat × Nat)
  | 0, _, _ => []
  | fuel + 1, o, n =>
    if n = 0 ∨ len ≤ o then []
    else match used.find? fun u => decide (u.1 ≤ o ∧ o < u.1 + u.2) with
      | some u => takeShare used len fuel (u.1 + u.2) n
      | none =>
        let stop := used.foldl (fun m u => if o < u.1 then min m u.1 else m) len
        let k := min n (stop - o)
        (o, k) :: takeShare used len fuel (o + k) (n - k)

/-- The share of the scratch area that sample `i` gets when it starts. -/
def Desc.shareFor (d : Desc) (i : Nat) : List (Nat × Nat) :=
  let used := (d.samples.filter Sample.holdsScratch).flatMap (·.share)
  takeShare used (d.addr 0x60) (2 * used.length + 2) 0 (d.claim i).2

/-- Sample `i` starts on an engine; a video sample whose stream is not open becomes a hole (R318). The engine uses its share of
the scratch area, and its stream's context (R312). -/
def State.sampleStart (s : State) (r : DRef) (i engine : Nat) : State :=
  match s.desc r with
  | none => s
  | some d =>
    let pt := s.part r.part
    let cls := mediaClass (d.sKind i)
    if s.halted || !pt.sampleReady d i || !s.mediaPresent cls engine || !pt.engineTakes d i engine ||
        pt.engineBusy cls engine || pt.betterSample d i engine then s
    else
      let share := d.shareFor i
      let s1 := s.updSample r i fun x => { x with state := .decoding, engine := engine, share := share }
      let use (t : State) : State := foldS (fun u (x : Nat × Nat) => u.blurMem (d.addr 0x58 + x.1) x.2) t share
      if d.sKind i = 1 then
        match pt.stream (d.sStream i) with
        | none => s1.makeHole r i 5 noOffset
        | some st =>
          let s2 := s1.updPart r.part fun q =>
            { q with streams := tput q.streams (d.sStream i) { st with holder := some (r, i) } }
          use (s2.blurMem st.ctx st.ctxLen)
      else use s1

/-- SAMPLE_START. -/
def execSampleStart (r : DRef) (i engine : Nat) (s : State) : Host.Outcome State Fault Refusal :=
  .next (s.sampleStart r i engine)

/-! ## What an input decodes to (R292, R293, R312) -/

/-- Where a chunk of a RIFF file with the name `id` has its data, and the data's length; `o` is the next chunk, and the first
argument bounds the chunks (PRESUMED, log entry 7: the layout is the WAVE format's). -/
def wavChunk (b : List Byte) (id : Nat) : Nat → Nat → Option (Nat × Nat)
  | 0, _ => none
  | fuel + 1, o =>
    if b.length < o + 8 then none
    else
      let n := leNat (sliceList b (o + 4) 4)
      if leNat (sliceList b o 4) = id then some (o + 8, n) else wavChunk b id fuel (o + 8 + n + n % 2)

/-- The value of a PCM word of `w` bytes: 8-bit words are offset by 128, wider ones are two's complement. -/
def wavInt (w x : Nat) : Int := if w = 1 then (x : Int) - 128 else toSigned (8 * w) x

/-- A WAV file (R292, R293): its PCM, or the hole cause and the offset of what is wrong. -/
def wavDecode (b : List Byte) : Except (Nat × Nat) Decoded :=
  let at' (o n : Nat) : Nat := leNat (sliceList b o n)
  if at' 0 4 ≠ 0x46464952 ∨ at' 8 4 ≠ 0x45564157 then .error (2, 0)
  else match wavChunk b 0x20746D66 b.length 12, wavChunk b 0x61746164 b.length 12 with
    | some (f, n), some (p, m) =>
      let tag := if at' f 2 = 0xFFFE then at' (f + 24) 2 else at' f 2
      let ch := at' (f + 2) 2
      let bits := at' (f + 14) 2
      let w := bits / 8
      if n < (if at' f 2 = 0xFFFE then 40 else 16) ∨ ch = 0 then .error (2, f)
      else if 8 < ch ∨ 192000 < at' (f + 4) 4 ∨
          !(tag == 1 && [8, 16, 24, 32].contains bits || tag == 3 && bits == 32) then .error (4, f)
      else
        let word (c j : Nat) : Nat := at' (p + (j * ch + c) * w) w
        let frames := List.range (min m (b.length - p) / (ch * w))
        .ok (if tag = 3 then .pcmFloat ((List.range ch).map fun c => frames.map (word c))
          else .pcmInt bits ((List.range ch).map fun c => frames.map fun j => wavInt w (word c j)))
    | _, _ => .error (2, noOffset)

/-- The decoded values are of a kind R292 accepts, for sample kind `kind` and, for video, the stream's codec. -/
def accepted (kind codec : Nat) : Decoded → Bool
  | .frames depth rgb shifts _ =>
    if kind = 1 then
      !rgb && (shifts == [(0, 0), (1, 1), (1, 1)] || codec == 1 && shifts == [(0, 0)]) &&
        (depth == 8 || depth == 10 && codec != 3)
    else if kind = 2 then
      !rgb && depth == 8 && (shifts.length == 1 || shifts.length == 3) && shifts.all fun c => decide (c.1 ≤ 1 ∧ c.2 ≤ 1)
    else kind == 3 && rgb && 1 ≤ depth && depth ≤ 16 && (shifts == [(0, 0)] || shifts == [(0, 0), (0, 0), (0, 0)])
  | .pcmInt bits chans =>
    decide (1 ≤ chans.length) &&
      (if kind = 4 then decide (8 ≤ bits ∧ bits ≤ 24 ∧ chans.length ≤ 8)
       else if kind = 5 then bits == 16 && decide (chans.length ≤ 2)
       else kind == 6 && [8, 16, 24, 32].contains bits && decide (chans.length ≤ 8))
  | .pcmFloat chans =>
    decide (1 ≤ chans.length) &&
      (if kind = 5 then decide (chans.length ≤ 2) else kind == 6 && decide (chans.length ≤ 8))

/-- Frames the input decodes to by the declaration: for video the last output frame is the last one (R299, R312; DEDUCED, log
entry 49). -/
def Desc.sDecoded (d : Desc) (i : Nat) : Nat :=
  if d.sKind i = 1 then d.sLen i + (d.sFrames i - 1) * d.sStride i + 1 else 1

/-- The decoded sample is what the entry declares (R312): planes of the declared size, declared frames and channels. -/
def Desc.asDeclared (d : Desc) (i : Nat) : Decoded → Bool
  | .frames _ _ shifts fs =>
    d.visual i && fs.length == d.sDecoded i && fs.all fun ps => ps.length == shifts.length &&
      (ps.zip shifts).all fun (pl, cx, cy) =>
        pl.length == ceilDiv (d.sWidth i) (2 ^ cx) * ceilDiv (d.sHeight i) (2 ^ cy)
  | .pcmInt _ chans => !d.visual i && chans.length == d.sChannels i && chans.all fun c => c.length == d.sLen i
  | .pcmFloat chans => !d.visual i && chans.length == d.sChannels i && chans.all fun c => c.length == d.sLen i

/-- What the source of sample `i` decodes to under the parameter data of its stream, or its hole's cause and offset (R293, R312,
R318). -/
def State.decodeSample (s : State) (p : Nat) (d : Desc) (i : Nat) : Except (Nat × Nat) Decoded := do
  let b := s.rdBytes (d.sSrc i) (d.sSrcLen i)
  let (codec, hdr) := match (if d.sKind i = 1 then (s.part p).stream (d.sStream i) else none) with
    | some st => (st.codec, st.hdr)
    | none => (0, [])
  let v ← if d.sKind i = 6 then wavDecode b
    else match Config.decodeError (d.sKind i) codec hdr b [d.samp i 0x14 4, d.samp i 0x18 4, d.sLen i] with
      | some (c, o) => .error (if 2 ≤ c ∧ c ≤ 4 then c else 2, o % 2 ^ 64)
      | none => .ok (Config.decodeValue (d.sKind i) codec hdr b)
  if !accepted (d.sKind i) codec v then .error (4, noOffset)
  else if !d.asDeclared i v then .error (3, noOffset)
  else .ok v

/-- Bytes of its source a sample has read when its decoding ends. -/
def Desc.sourceRead (d : Desc) (i : Nat) : Except (Nat × Nat) Decoded → Nat
  | .ok _ => d.sSrcLen i
  | .error (_, o) => min (d.sSrcLen i) (o + 1)

/-- Sample `i`'s decoding ends; poison in what it read ends the descriptor (R321). -/
def State.sampleDecodeEnd (s : State) (r : DRef) (i : Nat) : State :=
  match s.desc r with
  | none => s
  | some d =>
    if s.halted || d.opcode != 0x0400 || !d.active || d.status.isSome || (d.sample i).state != .decoding then s
    else
      let v := s.decodeSample r.part d i
      match s.poisonIn (d.sSrc i) (d.sourceRead i v) with
      | some l => (s.updDesc r fun x => x.decide' stMemory l).abandon r
      | none => match v with
        | .ok x => (s.updSample r i fun y => { y with state := .decoded, value := some x }).updPart r.part fun q =>
            q.dropHolder (r, i)
        | .error (c, o) => s.makeHole r i c o

/-- SAMPLE_DECODE_END. -/
def execSampleDecodeEnd (r : DRef) (i : Nat) (found : List Found) (s : State) : Host.Outcome State Fault Refusal :=
  .next ((s.finds r found).sampleDecodeEnd r i)

/-- Step 7 of a boundary: charges, and the holes of spent budgets (R317). -/
def State.chargeSamples (s : State) (p : Nat) : State :=
  foldS (fun (t : State) (d : Desc) =>
    if d.opcode == 0x0400 && d.active && d.status.isNone then
      foldS (fun (u : State) i =>
        if (d.sample i).state == .decoding then
          let u1 := u.updSample (d.ref p) i fun x => { x with charge := x.charge + 1 }
          if (d.sample i).charge + 1 ≥ d.mediaBudget then u1.makeHole (d.ref p) i 1 noOffset else u1
        else u) t (List.range d.samples.length)
    else t) s (s.part p).descs

/-- The descriptor's list, once read, names the stream; a list not yet read may. -/
def Desc.namesStream (d : Desc) (n : Nat) : Bool :=
  d.samples.isEmpty || (List.range d.samples.length).any fun i => d.sKind i == 1 && d.sStream i == n

/-- STREAM_CLOSE: it starts, waits for the ring's earlier samples of the stream, then frees it. A sample of another ring
that decodes the stream becomes a hole (R297, R322). -/
def State.streamClose (s : State) (r : DRef) : State :=
  match s.desc r with
  | none => s
  | some d =>
    if d.opcode ≠ 0x0402 ∨ s.halted ∨ d.status.isSome ∨ !(d.active || s.mayStart r.part d) then s
    else
      let s1 := s.updDesc r fun x => x.begin' s.tickNo
      let pt := s1.part r.part
      if pt.descs.any fun e => e.ring == r.ring && e.opcode == 0x0400 && e.phase != .done && numLe e.num r.num &&
          e.namesStream d.streamId then s1
      else
        let s2 := match (pt.stream d.streamId).bind (·.holder) with
          | some (h, i) => s1.makeHole h i 5 noOffset
          | none => s1
        (s2.updPart r.part fun q => { q with streams := tdel q.streams d.streamId }).updDesc r fun x => x.finish stOk 0

/-- STREAM_CLOSE. -/
def execStreamClose (r : DRef) (s : State) : Host.Outcome State Fault Refusal := .next (s.streamClose r)

/-! ## Values of visual samples (R306, R307) -/

/-- The FP32 word nearest a decimal num/den. -/
def dec32 (num den : Nat) : Nat := roundMag fmt32 none num den 0

/-- One FP32 operation on words. -/
def fadd (a b : Nat) : Nat := enc32 ((of32 a).add (of32 b))
def fsub (a b : Nat) : Nat := enc32 ((of32 a).sub (of32 b))
def fmul (a b : Nat) : Nat := enc32 ((of32 a).mul (of32 b))
def fdiv (a b : Nat) : Nat := fpDiv fmt32 (of32 a) (of32 b)
def fnat (n : Nat) : Nat := enc32 (Fp.ofNat n)

/-- Kr and Kb in ten-thousandths (R307). -/
def colourK (c : Nat) : Nat × Nat := if c = 1 then (2990, 1140) else if c = 2 then (2126, 722) else (2627, 593)

/-- Clamp to [0, 1]. -/
def clamp01 (w : Nat) : Nat := enc32 (((of32 w).max Fp.zero).min (.fin false 1 0))

/-- y, cb, cr of R307 from the averaged codes. -/
def ycc (full : Bool) (depth : Nat) (v : List Nat) : Nat × Nat × Nat :=
  let g (i : Nat) : Nat := v.getD i 0
  if full then
    let m := fnat (2 ^ depth - 1)
    let h := fnat (2 ^ (depth - 1))
    (fdiv (g 0) m, fdiv (fsub (g 1) h) m, fdiv (fsub (g 2) h) m)
  else
    let k := 2 ^ (depth - 8)
    let c (x : Nat) : Nat := fdiv (fsub x (fnat (128 * k))) (fnat (224 * k))
    (fdiv (fsub (g 0) (fnat (16 * k))) (fnat (219 * k)), c (g 1), c (g 2))

/-- The colour conversion of R307 for COLOUR `col`; RGB sources only divide. -/
def colour (col : Nat) (full rgb : Bool) (depth : Nat) (v : List Nat) : List Nat :=
  if rgb then v.map fun x => fdiv x (fnat (2 ^ depth - 1))
  else
    let (y, cb, cr) := ycc full depth v
    if col = 0 then [y, cb, cr]
    else
      let (kr, kb) := colourK col
      let r := fadd y (fmul (dec32 (2 * (10000 - kr)) 10000) cr)
      let b := fadd y (fmul (dec32 (2 * (10000 - kb)) 10000) cb)
      let g := fdiv (fsub (fsub y (fmul (dec32 kr 10000) r)) (fmul (dec32 kb 10000) b)) (dec32 (10000 - kr - kb) 10000)
      [clamp01 r, clamp01 g, clamp01 b]

/-- The code of component `c` over luma sample (x, y), each sample repeated over the luma samples it covers; neutral where a
component is missing. -/
def codeAt (depth : Nat) (rgb : Bool) (shifts : List (Nat × Nat)) (w : Nat) (planes : List (List Nat)) (c x y : Nat) : Nat :=
  if planes.length = 1 ∧ c ≠ 0 ∧ !rgb then 2 ^ (depth - 1)
  else
    let k := if planes.length = 1 then 0 else c
    let (cx, cy) := shifts.getD k (0, 0)
    (planes.getD k []).getD (x / 2 ^ cx + ceilDiv w (2 ^ cx) * (y / 2 ^ cy)) 0 % 2 ^ depth

/-- The exact cell sum over FY × FX luma samples, divided and rounded once (R306 step 3). -/
def cellMean (d : Desc) (i depth : Nat) (rgb : Bool) (shifts : List (Nat × Nat)) (planes : List (List Nat)) (c x y : Nat) : Nat :=
  let (fx, fy) := (d.fx i, d.fy i)
  let sum := (List.range fy).foldl (fun n v => (List.range fx).foldl (fun n u =>
    n + codeAt depth rgb shifts (d.sWidth i) planes c (d.cropX i + fx * x + u) (d.cropY i + fy * y + v)) n) 0
  roundMag fmt32 none sum (fx * fy) 0

/-- A word and whether a NaN of it was produced, not passed on (R75). -/
abbrev Made := Nat × Bool

/-- A word is a NaN. -/
def isNaN32 (w : Nat) : Bool := (of32 w).isNaN

/-- One operation on words, with whether it produced a NaN (R75). -/
def made (f : Nat → Nat → Nat) (x : Made) (b : Nat) : Made :=
  (f x.1 b, x.2 || (!isNaN32 x.1 && !isNaN32 b && isNaN32 (f x.1 b)))

/-- Normalisation (R306 step 5). -/
def Desc.normal (d : Desc) (c : Nat) (x : Made) : Made := made fmul (made fsub x (d.rMean c)) (d.rScale c)

/-- The three values of one output pixel. -/
def Desc.pixel (d : Desc) (i depth : Nat) (rgb : Bool) (shifts : List (Nat × Nat)) (planes : List (List Nat)) (x y : Nat) :
    List Made :=
  let v := (List.range 3).map fun c => cellMean d i depth rgb shifts planes c x y
  ((colour d.rColour d.rFull rgb depth v).zipIdx).map fun (w, c) => d.normal c (w, false)

/-! ## Values of audio samples (R308 to R310) -/

/-- PCM as FP32 words, channel by channel (R308 step 1). -/
def pcmWords : Decoded → List (List Nat)
  | .frames _ _ _ _ => []
  | .pcmInt bits chans => chans.map fun c => c.map fun x =>
      enc32 ((Fp.ofInt (toSigned bits (ofSigned bits x))).scale (-((bits - 1 : Nat) : Int)))
  | .pcmFloat chans => chans.map fun c => c.map (· % 2 ^ 32)

/-- The channel chosen, or the average of the channels (R308 step 2). -/
def mixDown (one : Bool) (chans : List (List Nat)) : List Made :=
  match chans with
  | [] => []
  | c :: rest =>
    if one then c.map fun x => (x, false)
    else (c.zipIdx).map fun (x, j) =>
      made fdiv (rest.foldl (fun a (l : List Nat) => made fadd a (l.getD j 0)) (x, false)) (fnat chans.length)

/-- The fixed-point numbers of the chain: FP32 values in steps of 2^-149, sines and windows with 128 fraction bits. -/
def chainP : Nat := 128

/-- A finite word in steps of 2^-149. -/
def steps149 (w : Nat) : Int :=
  match of32 w with
  | .fin s m e => truncAt s m e (-149)
  | .nan | .inf _ => 0

/-- cos and sin of 2πk/n in fixed point: the quadrant, and the angle within it. -/
def turn (n k : Nat) : Int × Int :=
  let q := 4 * (k % n) / n
  let r := piFix chainP * ((4 * (k % n) - q * n : Nat) : Int) / ((2 * n : Nat) : Int)
  let c := cosFix chainP r
  let d := sinFix chainP r
  if q = 0 then (c, d) else if q = 1 then (-d, c) else if q = 2 then (-c, -d) else (d, -c)

/-- The window of R308 step 5: Hann, Hamming or 1. -/
def windowAt (kind n k : Nat) : Int :=
  let one : Int := (2 ^ chainP : Nat)
  let c := (turn n k).1
  if kind = 0 then (one - c) / 2 else if kind = 1 then (54 * one - 46 * c) / 100 else one

/-- The tap of a windowed sinc at `x` / `b` source samples from its middle, in steps of 2^-40 (R309): a sinc that cuts off between 0.9
and 1.0 of the lower Nyquist frequency, times the window's value `w` in the same steps. -/
def sincTap (a b : Nat) (x w : Int) : Int :=
  -- the cut-off in thousandths of the source's Nyquist frequency, over `max a b`
  let c := (900 + Config.resampleCutoff a b % 101) * min a b
  let n := 1000 * a
  let h : Int := if x = 0 then ((c * 2 ^ 40 / n : Nat) : Int)
    else (turn (2 * n * b) (c * x.natAbs)).2 * (b : Int) * (2 ^ 40 : Nat) / (piFix chainP * x.natAbs)
  h * w / (2 ^ 40 : Nat)

/-- The window positions that value `n` of the resampled signal is formed from, with the taps in steps of 2^-40: the value
itself where the rates are equal. A tap beyond the window meets nothing (DESIGN CHOICE, log entry 9). -/
def Desc.tapsAt (d : Desc) (i n : Nat) : List (Nat × Int) :=
  let (a, b) := (d.sRate i, max 1 d.rRate)
  if a = b then [(n, (2 ^ 40 : Nat))]
  else
    let reach := Config.resampleReach a b
    (List.range (2 * reach + 1)).filterMap fun k =>
      let j := n * a / b + k
      if reach ≤ j ∧ j - reach < d.pcmCount i then
        some (j - reach, sincTap a b (((k : Int) - reach) * b - (n * a % b : Nat)) (Config.resampleWindow a b (n * a % b) k))
      else none

/-- The power |X_k|² of a frame's bin for k from 0 to N/2 (R308 steps 4 and 5). -/
def Desc.powers (d : Desc) (i : Nat) (window : List Nat) (j : Nat) : List Nat :=
  let n := d.rN
  let xs := (List.range n).map fun k =>
    windowAt (fld (d.recipe 0x24 4) 5 4) n k *
      ((d.tapsAt i (j * d.rHop + k)).foldl (fun (a : Int) t => a + t.2 * steps149 (window.getD t.1 0)) 0)
  (List.range (n / 2 + 1)).map fun k =>
    let (re, im) := (xs.zipIdx).foldl (fun (a : Int × Int) (x, l) =>
      let (c, v) := turn n (k * l)
      (a.1 + x * c, a.2 - x * v)) (0, 0)
    re.natAbs * re.natAbs + im.natAbs * im.natAbs

/-- The exponent of a step of `powers`. -/
def powerExp : Int := 2 * (-149 - 40 - 2 * (chainP : Int))

/-- ln(1 + f/700) of an FP32 frequency in fixed point. -/
def melLog (f : Fp) : Int :=
  match (Fp.ofNat 700).add f with
  | .fin _ m e => logFix chainP m e - logFix chainP 700 0
  | .nan | .inf _ => 0

/-- Vertex `v` of the filters in Hz, fixed point: equally spaced on the mel scale from FMIN to FMAX (R308 step 6). -/
def Desc.vertex (d : Desc) (v : Nat) : Int :=
  let a := melLog (of32 (d.recipe 0x28 4))
  let b := melLog (of32 (d.recipe 0x2C 4))
  let (x, k) := expSplit chainP (a + (b - a) * (v : Int) / ((d.rMels + 1 : Nat) : Int))
  700 * (x * pow2 k / pow2 (-k) - (2 ^ chainP : Nat))

/-- Filter `m` at bin `k`, with 64 fraction bits: a triangle in Hz of peak 1 over three vertices (DEDUCED, log entry 9). -/
def Desc.filterAt (d : Desc) (m k : Nat) : Nat :=
  let f : Int := ((k * d.rRate * 2 ^ chainP : Nat) : Int) / (d.rN : Int)
  let (f0, f1, f2) := (d.vertex m, d.vertex (m + 1), d.vertex (m + 2))
  (if f ≤ f0 ∨ f2 ≤ f then 0
   else if f ≤ f1 then (f - f0) * (2 ^ 64 : Nat) / (f1 - f0) else (f2 - f) * (2 ^ 64 : Nat) / (f2 - f1)).toNat

/-- Band energy `m` of a frame by an exact computation, and the frame's total power, in steps of 2^-64 of a power's step. -/
def Desc.bandExact (d : Desc) (ps : List Nat) (m : Nat) : Nat × Nat :=
  (ps.zipIdx).foldl (fun (a : Nat × Nat) (p, k) => (a.1 + p * d.filterAt m k, a.2 + p * 2 ^ 64)) (0, 0)

/-- The device's band energy: a number within 2^-16 relative plus 2^-20 of the total power of the exact one (R309), else free. -/
def bandClamp (w exact total : Nat) : Fp :=
  let x : Fp := .fin false exact (powerExp - 64)
  let slack : Fp := .fin false (16 * exact + total) (powerExp - 64 - 20)
  let v := if (of32 w).isFin then of32 w else x
  (v.max (x.sub slack)).min (x.add slack)

/-- The recipe's audio fields and the source rate, which with the window decide the plane. -/
def Desc.audioFields (d : Desc) (i : Nat) : List Nat :=
  [d.sRate i, d.rRate, d.recipe 0x24 4, d.recipe 0x28 4, d.recipe 0x2C 4, d.recipe 0x30 4]

/-- The log band energy of element (m, j) of the plane (R308 steps 4 to 7). A NaN in the frame passes; with an infinity in it the
bands are +∞ or a produced NaN, which is free (R310; log entry 9). -/
def Desc.logBand (d : Desc) (i : Nat) (window : List Made) (m j : Nat) : Made :=
  let ws := window.map (·.1)
  let free := Config.bandEnergy ws (d.audioFields i) (m + d.rMels * j) % 2 ^ 32
  let met := ((List.range d.rN).flatMap fun k => d.tapsAt i (j * d.rHop + k)).map fun t => window.getD t.1 (0, false)
  if met.any fun x => isNaN32 x.1 then (nan32, met.any (·.2))
  else if met.any fun x => !(of32 x.1).isFin then (if free % 2 = 0 then (inf32, false) else (nan32, true))
  else
    let (e, t) := d.bandExact (d.powers i ws j) m
    ((if bitOf (d.recipe 0x24 4) 30 then Fun.log10 else Fun.log).eval ((bandClamp free e t).max (of32 (d.recipe 0x30 4))), false)

/-- Element (m, j) of the plane, normalised. -/
def Desc.melValue (d : Desc) (i : Nat) (window : List Made) (m j : Nat) : Made := d.normal 0 (d.logBand i window m j)

/-! ## Commit (R311, R313, R316, R318, R319) -/

/-- The value of sample `i` at channel, column, row and frame, as an FP32 word. A video sample outputs the decoded frames
SKIP + j × FSTRIDE (R299). -/
def Desc.valueAt (d : Desc) (i : Nat) (v : Option Decoded) (c x y f : Nat) : Made :=
  match v with
  | none => (0, false)
  | some (.frames depth rgb shifts fs) =>
    let k := if d.sKind i = 1 then d.sLen i + f * d.sStride i else f
    (d.pixel i depth rgb shifts (fs.getD k []) x y).getD c (0, false)
  | some pcm =>
    d.melValue i (sliceList (mixDown d.rMix (pcmWords pcm)) (d.pcmStart i) (d.pcmCount i)) x y

/-- The elements sample `i` writes: coordinates in the output, and the value's channel, column, row and frame, or none
for the padding of a token (R311, R314). -/
def Desc.spanElems (d : Desc) (o : TensorDesc) (i : Nat) : List (List Nat × Option (Nat × Nat × Nat × Nat)) :=
  let (c, w, h, f) := d.sShape i
  if d.planar then
    (List.range f).flatMap fun t => (List.range c).flatMap fun k => (List.range h).flatMap fun y =>
      (List.range w).map fun x => ([x, y, k + c * t, i], some (k, x, y, t))
  else
    let p := d.rPatch
    let tb := d.sTube i
    let pw := w / max 1 p
    let ph := h / max 1 p
    (List.range (d.tokens i)).flatMap fun k =>
      let (px, py, pt) := (k % max 1 pw, k / max 1 pw % max 1 ph, k / max 1 (pw * ph))
      (List.range (o.sz 0)).map fun e =>
        ([e, (d.markSpan i).1 + k], if e < d.tokenLen i then
          some (e / (p * p * tb), px * p + e % p, py * p + e / p % p, pt * tb + e / (p * p) % tb) else none)

/-- The 16 bytes of sample `i`'s mark (R313). -/
def Desc.markBytes (d : Desc) (i : Nat) (hole : Bool) (cause : Nat) : List Byte :=
  let h := d.samp i 0 4
  leBytes 4 (d.markSpan i).1 ++ leBytes 4 (d.markSpan i).2 ++
  leBytes 4 (i + d.sKind i * 4096 + (if hole then 65536 else 0) + fld h 17 16 * 2 ^ 17 + (if hole then cause * 2 ^ 24 else 0)) ++
  leBytes 4 (d.samp i 4 4)

/-- The hole record (R319). -/
def Desc.holeRecord (d : Desc) (i tick : Nat) : List Byte :=
  let x := d.sample i
  leBytes 4 (0x04 + 0x07 * 256 + x.cause * 65536 + mediaClass (d.sKind i) * 2 ^ 24) ++ leBytes 4 d.tag ++ leBytes 8 tick ++
  leBytes 4 (x.engine % 256 + d.ring * 256 + i * 65536) ++ leBytes 4 (d.samp i 4 4) ++ leBytes 4 (d.markSpan i).1 ++
  leBytes 4 (d.markSpan i).2 ++ leBytes 4 x.charge ++ leBytes 4 0 ++ leBytes 8 x.offset ++ List.replicate 16 0

/-- DETAIL of a completed MEDIA_SAMPLE (R316). -/
def Desc.mediaDetail (d : Desc) : Nat :=
  let n := d.samples.length
  (if d.planar then 0 else d.tokensBefore n) + n * 2 ^ 17 + (d.samples.filter fun x => x.cause != 0).length * 2 ^ 28

/-- Write sample `i`'s span and mark (R311, R313, R318). A NaN the chain produced, or that the BF16 conversion meets, is named by the
output element (R75, R80; DESIGN CHOICE, log entries 9 and 55). -/
def State.writeSample (s : State) (r : DRef) (d : Desc) (o : TensorDesc) (i : Nat) : State :=
  let x := d.sample i
  let cls := mediaClass (d.sKind i)
  let run := { Run.start s r.part 3 0 [] d with place := (x.engine / mediaPerDie cls, x.engine) }
  let r1 := foldS (fun (w : Run) (e : List Nat × Option (Nat × Nat × Nat × Nat)) =>
    let k := o.index e.1
    let v : Made := match e.2 with
      | some (c, u, y, f) => d.valueAt i x.value c u y f
      | none => (0, false)
    (if v.2 then w.raise [w.evt 0 o.id o.size k] else w).writeElem o k (of32 v.1) (o.id, o.size, k)) run (d.spanElems o i)
  (r1.wr (d.addr 0x50 + 16 * (d.segBase + i)) (d.markBytes i (x.state == .hole) x.cause)).finish r

/-- A hole that commits counts under its cause, modulo 2^16 (R553). -/
def State.countHole (s : State) (cause : Nat) : State :=
  { s with media := { s.media with holes := s.media.holes.set (cause - 1) ((s.media.holes.getD (cause - 1) 0 + 1) % 65536) } }

/-- Sample `i` commits, in the order of R316. The last one ends the descriptor; a trap or poison stops it (R321). -/
def State.sampleCommit (s : State) (r : DRef) (i : Nat) : State :=
  match s.desc r with
  | none => s
  | some d =>
    let x := d.sample i
    match d.td (d.w32 0x68) with
    | none => s
    | some o =>
      if s.halted || d.opcode != 0x0400 || !d.active || d.status.isSome ||
          !(x.state == .decoded || x.state == .hole) || (s.part r.part).mediaAhead d i != 0 then s
      else
        let s1 := s.writeSample r d o i
        let s2 := if x.state == .hole then
            let (t, n) := s1.exception r.part (d.holeRecord i s1.tickNo) false
            (t.updDesc r fun y => { y with exc := y.exc || n != 0 }).countHole x.cause
          else s1
        let s3 := (s2.updSample r i fun y => { y with state := .committed, value := none }).testWaits r.part
        match s3.desc r with
        | none => s3
        | some e =>
          if e.status.isSome then s3.abandon r
          else if e.samples.all Sample.gone then
            s3.updDesc r fun y => y.finish (if y.samples.any fun z => z.cause != 0 then stDecodeHole else stOk) e.mediaDetail
          else s3

/-- SAMPLE_COMMIT. -/
def execSampleCommit (r : Reading) (i : Nat) (s : State) : Host.Outcome State Fault Refusal :=
  .next ((s.finds r.ref r.found).sampleCommit r.ref i)

end Sys2Proof.Machine
end

