-- ==== Sys2Proof/Machine/Update.lean ====
section
/-!
DEFINITION. Masters, working copies and update programs: the update engines' instructions, UPDATE_BIND, UPDATE_CHUNK,
REGENERATE, ANNEAL_CHECK and CHECKPOINT (R444 to R474).
-/

namespace Sys2Proof.Machine

/-! ## Update engines (R279, R451) -/

def State.engine (s : State) (u : Nat) : UpdEngine := tget UpdEngine.dflt s.upd u
def State.setEngine (s : State) (u : Nat) (v : UpdEngine) : State := { s with upd := tset UpdEngine.dflt s.upd u v }

/-! ## The program's lanes (R452 to R457) -/

/-- What an update instruction works on: lanes, per-block mode, the master's format, the registers, M, scalars and deltas,
the key of MADD's draws if it rounds by SR, the element of lane 0, and the lanes at which a NaN was made. -/
structure UCtx where
  n : Nat
  block : Bool
  x : Bool
  v : List (Nat × List Nat)
  mh : List Nat
  mr : List Nat
  scal : List Nat
  delta : List Nat
  sr : Option W64
  base : Nat
  nans : List Nat
deriving DecidableEq, Repr

def zeros (n : Nat) : List Nat := List.replicate n 0

/-- A V register; unlisted registers hold +0. -/
def UCtx.reg (c : UCtx) (k : Nat) : List Nat := (tlook c.v k).getD (zeros c.n)

/-- An operand code (R455). -/
def UCtx.arg (c : UCtx) (code : Nat) : List Nat :=
  if code < 0x20 then c.reg code
  else if code < 0x30 then List.replicate c.n (c.scal.getD (code - 0x20) 0)
  else if code < 0x33 then List.replicate c.n (c.delta.getD (code - 0x30) 0)
  else if code = 0x34 then List.replicate c.n one32
  else zeros c.n

/-- Write V register D; a list equal to zeros is not listed. -/
def UCtx.put (c : UCtx) (d : Nat) (l : List Nat) : UCtx := { c with v := tset (zeros c.n) c.v d l }

/-- Write results with marks where the lane made a NaN (R463). -/
def UCtx.putF (c : UCtx) (d : Nat) (l : List (Nat × Bool)) : UCtx :=
  { (c.put d (l.map (·.1))) with nans := c.nans ++ ((l.zipIdx).filter fun e => e.1.2).map (·.2) }

/-- A one-operand operation. -/
def UCtx.un (c : UCtx) (i : UInst) (f : Fp → Nat) : UCtx :=
  c.putF i.d ((c.arg i.a).map fun a => let w := f (of32 a); (w, !(of32 a).isNaN && (of32 w).isNaN))

/-- A two-operand operation. -/
def UCtx.bin (c : UCtx) (i : UInst) (f : Fp → Fp → Nat) : UCtx :=
  c.putF i.d (((c.arg i.a).zip (c.arg i.b)).map fun (a, b) =>
    let w := f (of32 a) (of32 b)
    (w, !(of32 a).isNaN && !(of32 b).isNaN && (of32 w).isNaN))

def UCtx.opNop (c : UCtx) : UCtx := c
def UCtx.opMov (c : UCtx) (i : UInst) : UCtx := c.put i.d (c.arg i.a)
def UCtx.opAdd (c : UCtx) (i : UInst) : UCtx := c.bin i fun a b => enc32 (a.add b)
def UCtx.opSub (c : UCtx) (i : UInst) : UCtx := c.bin i fun a b => enc32 (a.sub b)
def UCtx.opMul (c : UCtx) (i : UInst) : UCtx := c.bin i fun a b => enc32 (a.mul b)
/-- FMA: one rounding. -/
def UCtx.opFma (c : UCtx) (i : UInst) : UCtx :=
  c.putF i.d (((c.arg i.a).zip ((c.arg i.b).zip (c.arg i.c))).map fun (a, b, d) =>
    let w := enc32 ((of32 a).fma (of32 b) (of32 d))
    (w, !(of32 a).isNaN && !(of32 b).isNaN && !(of32 d).isNaN && (of32 w).isNaN))
def UCtx.opDiv (c : UCtx) (i : UInst) : UCtx := c.bin i (fpDiv fmt32)
def UCtx.opSqrt (c : UCtx) (i : UInst) : UCtx := c.un i (fpSqrt fmt32)
def UCtx.opRsqrt (c : UCtx) (i : UInst) : UCtx := c.un i (fpRsqrt fmt32)
def UCtx.opRcp (c : UCtx) (i : UInst) : UCtx := c.un i (fpDiv fmt32 (.fin false 1 0))
def UCtx.opMax (c : UCtx) (i : UInst) : UCtx := c.bin i fun a b => enc32 (a.max b)
def UCtx.opMin (c : UCtx) (i : UInst) : UCtx := c.bin i fun a b => enc32 (a.min b)
def UCtx.opAbs (c : UCtx) (i : UInst) : UCtx := c.un i fun a => enc32 a.abs
def UCtx.opNeg (c : UCtx) (i : UInst) : UCtx := c.un i fun a => enc32 a.neg
def UCtx.opCmp (c : UCtx) (i : UInst) : UCtx :=
  c.put i.d (((c.arg i.a).zip (c.arg i.b)).map fun (a, b) => if cmpF i.md (of32 a) (of32 b) then one32 else 0)
/-- SEL: A where C ≠ 0; a NaN compares unequal (R77). -/
def UCtx.opSel (c : UCtx) (i : UInst) : UCtx :=
  c.put i.d (((c.arg i.a).zip ((c.arg i.b).zip (c.arg i.c))).map fun (a, b, d) => if (of32 d).eq Fp.zero then b else a)
def UCtx.opMrd (c : UCtx) (i : UInst) : UCtx := c.put i.d (c.mh ++ zeros (c.n - c.mh.length))

/-- The exact value of M in lane `j` (R452). -/
def UCtx.master (c : UCtx) (j : Nat) : Fp := if c.x then ofX (c.mh.getD j 0) (c.mr.getD j 0) else of32 (c.mh.getD j 0)

/-- MADD: M + A rounded once to the master's format (R457). -/
def UCtx.opMadd (c : UCtx) (i : UInst) : UCtx :=
  let res := ((c.arg i.a).zipIdx).map fun (a, j) =>
    let m := c.master j
    let x := m.add (of32 a)
    let r : Rnd := c.sr.map fun k => drawU k (c.base + j)
    (if c.x then encX x else (x.enc fmt32 r, 0), !m.isNaN && !(of32 a).isNaN && x.isNaN)
  { c with
    mh := res.map (·.1.1)
    mr := if c.x then res.map (·.1.2) else c.mr
    nans := c.nans ++ ((res.zipIdx).filter fun e => e.1.2).map (·.2) }

def UCtx.opExp2 (c : UCtx) (i : UInst) : UCtx := c.un i Fun.exp2.eval
def UCtx.opLog2 (c : UCtx) (i : UInst) : UCtx := c.un i Fun.log2.eval

/-- BSUM: the tree of R147 over each block's 32 lanes. -/
def UCtx.opBsum (c : UCtx) (i : UInst) : UCtx :=
  let op (x y : Nat × Bool) : Nat × Bool :=
    let w := enc32 ((of32 x.1).add (of32 y.1))
    (w, x.2 || y.2 || (!(of32 x.1).isNaN && !(of32 y.1).isNaN && (of32 w).isNaN))
  c.putF i.d ((pieces 32 (ceilDiv c.n 32) (c.arg i.a)).flatMap fun b =>
    List.replicate b.length (treeUp op (0, false) 5 (b.map fun w => (w, false))))

/-- BMAX: the same with maximumNumber. -/
def UCtx.opBmax (c : UCtx) (i : UInst) : UCtx :=
  c.put i.d ((pieces 32 (ceilDiv c.n 32) (c.arg i.a)).flatMap fun b =>
    List.replicate b.length (enc32 (treeUp Fp.max (.inf true) 5 (b.map of32))))

/-- The effect of one update instruction (R456). -/
def updStep (op : Nat) (i : UInst) (c : UCtx) : UCtx :=
  match op with
  | 0x01 => c.opMov i
  | 0x02 => c.opAdd i
  | 0x03 => c.opSub i
  | 0x04 => c.opMul i
  | 0x05 => c.opFma i
  | 0x06 => c.opDiv i
  | 0x07 => c.opSqrt i
  | 0x08 => c.opRsqrt i
  | 0x09 => c.opRcp i
  | 0x0A => c.opMax i
  | 0x0B => c.opMin i
  | 0x0C => c.opAbs i
  | 0x0D => c.opNeg i
  | 0x0E => c.opCmp i
  | 0x0F => c.opSel i
  | 0x10 => c.opMrd i
  | 0x11 => c.opMadd i
  | 0x12 => c.opExp2 i
  | 0x13 => c.opLog2 i
  | 0x18 => c.opBsum i
  | 0x19 => c.opBmax i
  | _ => c.opNop

/-- Opcode and fields of a program word; none where a reserved bit is set (R454). -/
def parseUInst (w : Nat) : Option (Nat × UInst) :=
  if fld w 63 36 ≠ 0 then none
  else some (fld w 7 0, ⟨fld w 11 8, fld w 17 12, fld w 23 18, fld w 29 24, fld w 35 30⟩)

/-- Fields an opcode uses: D, A, B, C; none for a reserved opcode (R456). -/
def updUses (op : Nat) : Option (Bool × Bool × Bool × Bool) :=
  if op = 0 then some (false, false, false, false)
  else if op = 0x05 ∨ op = 0x0F then some (true, true, true, true)
  else if op = 0x02 ∨ op = 0x03 ∨ op = 0x04 ∨ op = 0x06 ∨ op = 0x0A ∨ op = 0x0B ∨ op = 0x0E then some (true, true, true, false)
  else if op = 0x10 then some (true, false, false, false)
  else if op = 0x11 then some (false, true, false, false)
  else if op ≤ 0x13 ∨ op = 0x18 ∨ op = 0x19 then some (true, true, false, false)
  else none

/-- A program word obeys R454 to R456. -/
def updWordOk (block : Bool) (w : Nat) : Bool :=
  match parseUInst w with
  | none => false
  | some (op, i) =>
    match updUses op with
    | none => false
    | some (d, a, b, c) =>
      let arg (used : Bool) (x : Nat) : Bool := if used then decide (x ≤ 0x34) else x == 0
      (if d then decide (i.d < 0x20) else i.d == 0) && arg a i.a && arg b i.b && arg c i.c &&
        (if op = 0x0E then decide (i.md ≤ 6) else i.md == 0) && (block || decide (op < 0x18))

/-! ## Instructions at an engine -/

/-- The lanes an engine holds for a binding. -/
def State.updCtx (s : State) (p : UpdAt) (b : Binding) : UCtx :=
  let e := s.engine p.engine
  let d? := e.at'.bind fun x => s.desc x.1
  let u? := d?.bind (·.upd)
  { n := 512, block := b.block, x := b.master.format == fFP32X, v := e.v, mh := e.mh, mr := e.mr,
    scal := (u?.map (·.scalars)).getD [], delta := (u?.map (·.deltas)).getD [],
    sr := if b.masterSr then d?.map fun d => drawKey d.seed d.step b.master.id else none,
    base := (e.at'.map (·.2)).getD 0, nans := [] }

/-- One instruction on the lanes of an engine that serves a binding; a NaN made traps the descriptor whose chunk it
holds (R463). -/
def State.updRow (s : State) (p : UpdAt) (f : UCtx → UCtx) : State :=
  match (s.part p.part).binding p.bind with
  | none => s
  | some b =>
    if s.halted || !s.updPresent p.engine then s
    else
      let e := s.engine p.engine
      let c := f (s.updCtx p b)
      let s1 := s.setEngine p.engine { e with v := c.v, mh := c.mh, mr := c.mr }
      match c.nans, e.at' with
      | j :: rest, some (r, base) =>
        let k := base + rest.foldl min j
        s1.seedTrap r ⟨0, 2, b.master.id, coordsOf b.master.size k, k, [], 0, (p.engine / 5, p.engine), 0⟩
      | _, _ => s1

/-- UPD_NOP. -/
def execUpdNop (p : UpdAt) (_ : UInst) (s : State) : Host.Outcome State Fault Refusal := .next (s.updRow p UCtx.opNop)
/-- UPD_MOV. -/
def execUpdMov (p : UpdAt) (i : UInst) (s : State) : Host.Outcome State Fault Refusal := .next (s.updRow p fun c => c.opMov i)
/-- UPD_ADD. -/
def execUpdAdd (p : UpdAt) (i : UInst) (s : State) : Host.Outcome State Fault Refusal := .next (s.updRow p fun c => c.opAdd i)
/-- UPD_SUB. -/
def execUpdSub (p : UpdAt) (i : UInst) (s : State) : Host.Outcome State Fault Refusal := .next (s.updRow p fun c => c.opSub i)
/-- UPD_MUL. -/
def execUpdMul (p : UpdAt) (i : UInst) (s : State) : Host.Outcome State Fault Refusal := .next (s.updRow p fun c => c.opMul i)
/-- UPD_FMA. -/
def execUpdFma (p : UpdAt) (i : UInst) (s : State) : Host.Outcome State Fault Refusal := .next (s.updRow p fun c => c.opFma i)
/-- UPD_DIV. -/
def execUpdDiv (p : UpdAt) (i : UInst) (s : State) : Host.Outcome State Fault Refusal := .next (s.updRow p fun c => c.opDiv i)
/-- UPD_SQRT. -/
def execUpdSqrt (p : UpdAt) (i : UInst) (s : State) : Host.Outcome State Fault Refusal := .next (s.updRow p fun c => c.opSqrt i)
/-- UPD_RSQRT. -/
def execUpdRsqrt (p : UpdAt) (i : UInst) (s : State) : Host.Outcome State Fault Refusal :=
  .next (s.updRow p fun c => c.opRsqrt i)
/-- UPD_RCP. -/
def execUpdRcp (p : UpdAt) (i : UInst) (s : State) : Host.Outcome State Fault Refusal := .next (s.updRow p fun c => c.opRcp i)
/-- UPD_MAX. -/
def execUpdMax (p : UpdAt) (i : UInst) (s : State) : Host.Outcome State Fault Refusal := .next (s.updRow p fun c => c.opMax i)
/-- UPD_MIN. -/
def execUpdMin (p : UpdAt) (i : UInst) (s : State) : Host.Outcome State Fault Refusal := .next (s.updRow p fun c => c.opMin i)
/-- UPD_ABS. -/
def execUpdAbs (p : UpdAt) (i : UInst) (s : State) : Host.Outcome State Fault Refusal := .next (s.updRow p fun c => c.opAbs i)
/-- UPD_NEG. -/
def execUpdNeg (p : UpdAt) (i : UInst) (s : State) : Host.Outcome State Fault Refusal := .next (s.updRow p fun c => c.opNeg i)
/-- UPD_CMP. -/
def execUpdCmp (p : UpdAt) (i : UInst) (s : State) : Host.Outcome State Fault Refusal := .next (s.updRow p fun c => c.opCmp i)
/-- UPD_SEL. -/
def execUpdSel (p : UpdAt) (i : UInst) (s : State) : Host.Outcome State Fault Refusal := .next (s.updRow p fun c => c.opSel i)
/-- UPD_MRD. -/
def execUpdMrd (p : UpdAt) (i : UInst) (s : State) : Host.Outcome State Fault Refusal := .next (s.updRow p fun c => c.opMrd i)
/-- UPD_MADD. -/
def execUpdMadd (p : UpdAt) (i : UInst) (s : State) : Host.Outcome State Fault Refusal := .next (s.updRow p fun c => c.opMadd i)
/-- UPD_EXP2. -/
def execUpdExp2 (p : UpdAt) (i : UInst) (s : State) : Host.Outcome State Fault Refusal := .next (s.updRow p fun c => c.opExp2 i)
/-- UPD_LOG2. -/
def execUpdLog2 (p : UpdAt) (i : UInst) (s : State) : Host.Outcome State Fault Refusal := .next (s.updRow p fun c => c.opLog2 i)
/-- UPD_BSUM. -/
def execUpdBsum (p : UpdAt) (i : UInst) (s : State) : Host.Outcome State Fault Refusal := .next (s.updRow p fun c => c.opBsum i)
/-- UPD_BMAX. -/
def execUpdBmax (p : UpdAt) (i : UInst) (s : State) : Host.Outcome State Fault Refusal := .next (s.updRow p fun c => c.opBmax i)

/-! ## UPDATE_BIND (R445 to R447) -/

def Desc.bindId (d : Desc) : Nat := fld (d.w32 0x40) 9 0
def Desc.unbind (d : Desc) : Bool := bitOf (d.w32 0x40) 10

/-- Fetch checks of UPDATE_BIND. -/
def bindSpec (d : Desc) : OpSpec :=
  { OpSpec.plain [bitsAt 0x40 0 11, bits44 0x48] 0 with
    encOk := !d.unbind || d.addr 0x48 == 0
    ranges := if d.unbind then [] else [(d.addr 0x48, 64, 64)] }

/-- The record, then the program, as an UPDATE_BIND reads them. -/
def Desc.rec' (d : Desc) (o n : Nat) : Nat := leNat (sliceList d.list o n)
def Desc.recLen (d : Desc) : Nat := fld (d.rec' 4 4) 5 0 + 1
def Desc.recBlock (d : Desc) : Bool := bitOf (d.rec' 4 4) 6
def Desc.recSr (d : Desc) : Bool := bitOf (d.rec' 4 4) 7
def Desc.recEngine (d : Desc) : Nat := fld (d.rec' 4 4) 12 8
def Desc.recStates (d : Desc) : Nat := fld (d.rec' 4 4) 15 13
def Desc.recProg (d : Desc) : List Nat := (List.range d.recLen).map fun k => d.rec' (64 + 8 * k) 8

/-- The record holds no reserved field and no reserved code (R446). -/
def Desc.recOk (d : Desc) : Bool :=
  decide (fld (d.rec' 4 4) 31 16 = 0 ∧ d.rec' 8 8 < 2 ^ 44 ∧ d.rec' 0x10 8 < 2 ^ 44 ∧ d.rec' 0x30 8 < 2 ^ 44 ∧ d.rec' 0x38 8 = 0) &&
  decide (d.recStates ≤ 4 ∧ (d.recEngine < 20 ∨ d.recEngine = 0x1F)) &&
  (List.range 4).all fun k => decide (k < d.recStates) || d.rec' (0x20 + 4 * k) 4 == noTensor

/-- Master, states and working copy have one dense rank-1 shape of whole blocks (R447). -/
def sameShape (l : List TensorDesc) : Bool :=
  l.all fun t => t.rank == 1 && t.dense && t.sz 0 % 32 == 0 && (match l with | u :: _ => t.sz 0 == u.sz 0 | [] => true)

/-- No two planes of tensors overlap. -/
def State.planesApart (s : State) : List (Nat × Nat) → Bool
  | [] => true
  | a :: t => t.all (fun b => !s.sharesByte a.1 a.2 b.1 b.2) && s.planesApart t

/-- The tensor pointers of a binding record. -/
def Desc.recTdps (d : Desc) : List Nat :=
  d.rec' 0x18 4 :: d.rec' 0x1C 4 :: (List.range d.recStates).map fun k => d.rec' (0x20 + 4 * k) 4

/-- Admission of UPDATE_BIND (R446, R447). A pointer that names no tensor is refused (R162; its code is a DESIGN CHOICE, log
entry 44). -/
def admitBind (s : State) (p : Nat) (d0 : Desc) : Chk Desc := do
  let pt := s.part p
  if d0.unbind then
    need ((pt.binding d0.bindId).isSome && !(pt.descs.any fun e =>
      !(e.ring == d0.ring && e.num == d0.num) && e.phase != .waiting && e.phase != .done && e.namesBinding d0.bindId)) 0x08 0xFF
    return d0
  else
    s.needClean (d0.addr 0x48) 64
    let d1 := { d0 with list := s.rdBytes (d0.addr 0x48) 64 }
    need d1.recOk 0x08 0xFF
    let (prog, scal, tree) := (d1.rec' 8 8, d1.rec' 0x10 8, d1.rec' 0x30 8)
    need (decide (prog % 64 = 0 ∧ scal % 64 = 0 ∧ tree % 64 = 0)) 0x05 0xFF
    s.needRange pt prog (8 * d1.recLen) 0xFF
    s.needRange pt scal 64 0xFF
    s.needRange pt tree 64 0xFF
    s.needClean prog (8 * d1.recLen)
    let d := { d1 with list := d1.list ++ s.rdBytes prog (8 * d1.recLen) }
    need (d.recTdps.all (· != noTensor)) 0x08 0xFF
    let m ← s.readTd p (d.rec' 0x18 4) 0 .plain
    let w ← s.readTd p (d.rec' 0x1C 4) 1 .quant
    let sts ← ((List.range d.recStates).mapM fun k =>
      s.readTd p (d.rec' (0x20 + 4 * k) 4) (2 + k) .quant : Chk (List TensorDesc))
    s.needRange pt tree (64 + 32 * nLeaf w.treePlanes) 0xFF
    if d.recEngine ≠ 0x1F ∧ !s.updPresent d.recEngine then .error (stEngineAbsent, absentDetail d.recEngine 7)
    else
      need (pt.binding d.bindId).isNone 0x08 0xFF
      need (pt.gradBinding (d.rec' 0 4)).isNone 0x08 0xFF
      need (m.format == fFP32 || m.format == fFP32X) 0x08 0
      need (sts.all fun t => t.format == fFP32 || (t.format == 0x10 && t.rmode)) 0x08 0xFF
      need (w.format == fBF16 || isBlk w.format) 0x08 1
      need (sameShape ([m, w] ++ sts)) 0x08 0xFF
      need (s.planesApart ((([m, w] ++ sts)).flatMap TensorDesc.planes)) 0x08 0xFF
      need (d.recProg.all (updWordOk d.recBlock)) 0x08 0xFF
      s.needOwned pt (([m, w] ++ sts).flatMap TensorDesc.planes)
      return { d with tds := [(0, m), (1, w)] ++ (sts.zipIdx).map fun (t, k) => (2 + k, t) }

/-- The binding an admitted UPDATE_BIND declares. -/
def Desc.newBinding (d : Desc) : Option Binding :=
  match d.td 0, d.td 1 with
  | some m, some w =>
    some { gradId := d.rec' 0 4, block := d.recBlock, masterSr := d.recSr, engine := d.recEngine, prog := d.recProg,
           scalarsAt := d.rec' 0x10 8, tree := d.rec' 0x30 8, master := m, wc := w, wcPtr := d.rec' 0x1C 4,
           states := (List.range d.recStates).filterMap fun k => d.td (2 + k), prevSentry := none, holder := none,
           broken := none }
  | _, _ => none

/-- An update descriptor of an opcode starts and takes its binding until it completes: its own row runs it whole (R448).
Waits on words it wrote test their conditions (R182). -/
def State.updOp (s : State) (r : DRef) (ok : Desc → Bool) (f : State → Desc → State) : State :=
  match s.desc r with
  | none => s
  | some d =>
    if ok d && s.mayStart r.part d && (s.part r.part).bindFree d.bindId then
      (f ((s.updDesc r fun x => x.begin' s.tickNo).updPart r.part fun q => q.takeBinding d.bindId r) d).testWaits r.part
    else s

/-- UPDATE_BIND: the binding stands, VALID 0 and PARTIAL 0 (R460). -/
def State.bindStart (s : State) (r : DRef) : State :=
  s.updOp r (fun d => d.opcode == 0x0600 && !d.unbind) fun t d =>
    match d.newBinding with
    | none => t
    | some b =>
      let pt := t.part r.part
      if (pt.binding d.bindId).isSome || (pt.gradBinding b.gradId).isSome then
        t.updDesc r fun x => x.finish stBadDescriptor (badCode 0x08)
      else
        let h := t.rdN b.tree 8
        let t1 := (t.noteBad r (t.poisonIn b.tree 8)).wrN b.tree 8 (clearBit (clearBit h 32) 33)
        (t1.updPart r.part fun q => { q with binds := tput q.binds d.bindId { b with holder := some r } }).updDesc r fun x => x.finish stOk 0

/-- UPDATE_BIND. -/
def execUpdateBind (r : DRef) (s : State) : Host.Outcome State Fault Refusal := .next (s.bindStart r)

/-- UPDATE_UNBIND: the binding ends with it; till it completes it is taken (R448). -/
def State.bindEnd (s : State) (r : DRef) : State :=
  s.updOp r (fun d => d.opcode == 0x0600 && d.unbind) fun t d =>
    if ((t.part r.part).binding d.bindId).isNone then t.updDesc r fun x => x.finish stBadDescriptor (badCode 0x08)
    else t.updDesc r fun x => x.finish stOk 0

/-- UPDATE_UNBIND. -/
def execUpdateUnbind (r : DRef) (s : State) : Host.Outcome State Fault Refusal := .next (s.bindEnd r)

/-! ## Applying a chunk (R449, R452, R453, R463, R474) -/

/-- Master words of elements [a, a + n). -/
def Binding.masterWords (b : Binding) (s : State) (a n : Nat) : List Nat × List Nat :=
  let l := (List.range n).map (a + ·)
  if b.master.format = fFP32X then
    (l.map fun i => s.rdN (b.master.wd 0 + 4 * i) 4, l.map fun i => s.rdN (b.master.wd 1 + 2 * i) 2)
  else (l.map fun i => s.rdN (b.master.elemAddr i) 4, [])

/-- The working copy of elements [a, a + n) from the exact master values (R453). A NaN its quantiser meets is the master's
element (R80). -/
def Run.writeWc (r : Run) (b : Binding) (a : Nat) (ms : List Fp) : Run :=
  match b.wc.blk with
  | some k => foldS (fun (w : Run) (e : List Fp × Nat) =>
      w.writeBlock b.wc k (a + 32 * e.2) e.1 (b.master.id, b.master.size)) r (pieces 32 (ceilDiv ms.length 32) ms).zipIdx
  | none => foldS (fun (w : Run) (e : Fp × Nat) =>
      w.writeElem b.wc (a + e.2) e.1 (b.master.id, b.master.size, a + e.2)) r ms.zipIdx

/-- State tensor `k` from V(2 + k): an SB8 state in AMAX mode (R449, R453). The quantiser's input is a register; a NaN it meets is
named by the state tensor's element (DESIGN CHOICE, log entry 55). -/
def Run.writeState (r : Run) (t : TensorDesc) (a : Nat) (ws : List Nat) : Run :=
  match t.blk with
  | some k => foldS (fun (w : Run) (e : List Nat × Nat) =>
      w.writeBlock { t with smode := false } k (a + 32 * e.2) (e.1.map of32) (t.id, t.size)) r
      (pieces 32 (ceilDiv ws.length 32) ws).zipIdx
  | none => foldS (fun (w : Run) (e : Nat × Nat) => w.wrN (t.elemAddr (a + e.2)) 4 (enc32 (of32 e.1))) r ws.zipIdx

/-- Write master words back; every FP32X pair is canonical (R449). -/
def Run.writeMaster (r : Run) (b : Binding) (a : Nat) (c : UCtx) : Run :=
  foldS (fun (w : Run) j =>
    if c.x then
      let (h, q) := encX (c.master j)
      (w.wrN (b.master.wd 0 + 4 * (a + j)) 4 h).wrN (b.master.wd 1 + 2 * (a + j)) 2 q
    else w.wrN (b.master.elemAddr (a + j)) 4 (enc32 (c.master j))) r (List.range c.n)

/-- One instruction of a pass, and the NaNs it produces (R463), which come before those of later instructions (R79). They are named
by the master's element (R80 and R463 say nothing of it: DESIGN CHOICE, log entry 55). -/
def Run.updInst (r : Run) (b : Binding) (c : UCtx) (op : Nat) (i : UInst) : Run × UCtx :=
  let x := updStep op i c
  (r.raise (x.nans.map fun j => r.evt 0 b.master.id b.master.size (c.base + j)), { x with nans := [] })

/-- The states of a pass as FP32 words: a reserved scale code raises the seed trap as it is read (R59). -/
def Run.readStates (r : Run) (b : Binding) (a n : Nat) : Run × List (Nat × List Nat) :=
  let vals (t : TensorDesc) : List (Fp × Bool) := (List.range n).map fun j => t.val r.s (a + j)
  let made := b.states.flatMap fun t => ((vals t).zipIdx.filter fun e => e.1.2).map fun e => r.evt 2 t.id t.size (a + e.2)
  (r.raise made, (b.states.zipIdx).map fun (t, k) => (2 + k, (vals t).map fun e => enc32 e.1))

/-- One pass of 512 elements from element `a` of the shard: the program, then master, states and working copy. -/
def Run.updPass (r : Run) (b : Binding) (u : UpdRun) (d : Desc) (a : Nat) (g : List Nat) : Run × UCtx :=
  let n := g.length
  let (mh, mr) := b.masterWords r.s a n
  let (r0, sts) := r.readStates b a n
  let c0 : UCtx := { n := n, block := b.block, x := b.master.format == fFP32X, v := [], mh := mh, mr := mr, scal := u.scalars,
                     delta := u.deltas, sr := if b.masterSr then some (drawKey d.seed d.step b.master.id) else none,
                     base := a, nans := [] }
  let c1 := foldS (fun (c : UCtx) (e : Nat × List Nat) => c.put e.1 e.2) c0 ([(0, g), (1, mh)] ++ sts)
  let (rp, c2) := foldS (fun (w : Run × UCtx) (e : Nat × UInst) => w.1.updInst b w.2 e.1 e.2) (r0, c1)
    (b.prog.filterMap parseUInst)
  let r1 := rp.writeMaster b a c2
  let r2 := foldS (fun (w : Run) (e : TensorDesc × Nat) => w.writeState e.1 a (c2.reg (2 + e.2))) r1 b.states.zipIdx
  (r2.writeWc b a ((List.range n).map c2.master), c2)

/-- The leaves of the working copy that elements [a, a + n) cover (R464). -/
def State.writeLeaves (s : State) (b : Binding) (a n : Nat) : State :=
  let ps := b.wc.treePlanes
  let per (p : Nat) : Nat × Nat := match b.wc.blk with
    | some k => (32, if p = 0 then k.bytes else if p = 1 then 1 else 4)
    | none => (1, 2)
  foldS (fun (t : State) (e : (Nat × Nat) × Nat) =>
    let (q, w) := per e.2
    let (lo, hi) := (a / q * w, ceilDiv (a + n) q * w)
    foldS (fun (u : State) j =>
      let off := 4096 * (lo / 4096 + j)
      u.wrBytes (b.tree + 64 + 16 * leafIndex ps e.2 off)
        (digestOf (u.rdBytes (e.1.1 + off) (min 4096 (e.1.2 - off))))) t
      (List.range (ceilDiv hi 4096 - lo / 4096))) s ps.zipIdx

/-- Byte ranges that a chunk reads: master, the states where the program runs, and the given scales of a working copy under
SMODE 1 (R453, R461). -/
def Binding.chunkCells (b : Binding) (s : State) (a n : Nat) (runs : Bool) : List (Nat × Nat) :=
  ([b.master] ++ if runs then b.states else []).flatMap (fun t => (List.range n).flatMap fun j => t.cells s (a + j)) ++
    (if b.wc.smode then [(b.wc.wd 1 + a / 32, ceilDiv n 32)] else [])

/-- The passes of one chunk, 512 words at a time, and the context and address of the last. -/
def Run.updPasses (r : Run) (b : Binding) (u : UpdRun) (d : Desc) (a : Nat) (words : List Nat) :
    Run × Option (UCtx × Nat) :=
  foldS (fun (w : Run × Option (UCtx × Nat)) (g : List Nat × Nat) =>
    let x := w.1.updPass b u d (a + 512 * g.2) g.1
    (x.1, some (x.2, a + 512 * g.2))) (r, none) (pieces 512 (ceilDiv words.length 512) words).zipIdx

/-- An engine's record of the chunk it has ended. -/
def UpdEngine.ended (e : UpdEngine) (r : DRef) (last : Option (UCtx × Nat)) : UpdEngine :=
  match last with
  | some (c, base) => { e with chunks := e.chunks + 1, v := c.v, mh := c.mh, mr := c.mr, at' := some (r, base) }
  | none => { e with chunks := e.chunks + 1 }

/-- The masters of one chunk as values. -/
def Binding.masterVals (b : Binding) (s : State) (a n : Nat) : List Fp :=
  let (mh, mr) := b.masterWords s a n
  (List.range n).map fun j => if b.master.format = fFP32X then ofX (mh.getD j 0) (mr.getD j 0) else of32 (mh.getD j 0)

/-- A chunk of `words` from element `a` of the shard at engine `e`; no words: only the working copy is regenerated. The
second value is the first poisoned line, in which case nothing is written (R474); an uncorrectable word of the engine's store
is read as one (R532). -/
def State.applyChunk (s : State) (r : DRef) (d : Desc) (b : Binding) (u : UpdRun) (e a n : Nat) (words : List Nat)
    (chip : Bool) : State × Option Nat :=
  match if chip then some chipAddr else s.poisonCells (b.chunkCells s a n !words.isEmpty) with
  | some l => (s, some l)
  | none =>
    let run := { Run.start s r.part 2 0 [] d with place := (e / 5, e) }
    if words.isEmpty then (((run.writeWc b a (b.masterVals s a n)).finish r).writeLeaves b a n, none)
    else
      let x := run.updPasses b u d a words
      let s1 := (x.1.finish r).writeLeaves b a n
      (s1.setEngine e ((s1.engine e).ended r x.2), none)

/-- Keep with a descriptor the uncorrectable word of on-chip storage that its engine meets (R525). -/
def State.noteChip (s : State) (r : DRef) (found : List Found) : State :=
  match chipOf found with
  | some c => s.updDesc r fun d => { d with chip := some c }
  | none => s

/-- A chunk is applied, or left as a poisoned one is where its binding is broken (R474, R535). -/
def State.applyWhole (s : State) (r : DRef) (d : Desc) (b : Binding) (u : UpdRun) (e a n : Nat) (words : List Nat) (chip : Bool) :
    State × Option Nat :=
  match b.broken with
  | some l => (s, some l)
  | none => s.applyChunk r d b u e a n words chip

/-- UPDATE_CHUNK: a checked chunk is applied by its engine, which serves chunks in arrival order (R451, R474); `chip` says
that the engine meets an uncorrectable word of its store. A broken binding's chunks are left as poisoned ones are (R535). -/
def State.updateChunk (s : State) (r : DRef) (k : Nat) (chip : Bool) : State :=
  match s.collOf r with
  | none => s
  | some (d, c) =>
    match d.upd with
    | none => s
    | some u =>
      match (s.part r.part).binding u.bind, u.ready.find? fun e => e.chunk == k with
      | some b, some e =>
        if s.halted || !s.firstAtEngine e then s
        else
          let (own, lo, n) := c.chunks.getD k (0, 0, 0)
          let y := s.applyWhole r d b u e.engine (lo - shardAt c.elems c.g own) n e.words chip
          ((y.1.noteBad r y.2).updDesc r fun x => { x with upd := x.upd.map fun (v : UpdRun) =>
            { v with
              ready := v.ready.filter fun q => q.chunk != k
              doneChunks := v.doneChunks ++ [k]
              failed := v.failed || y.2.isSome } }).collSettle r
      | _, _ => s

/-- UPDATE_CHUNK. -/
def execUpdateChunk (r : Reading) (c : Nat) (s : State) : Host.Outcome State Fault Refusal :=
  .next (((s.finds r.ref r.found).noteChip r.ref r.found).updateChunk r.ref c (chipOf r.found).isSome)

/-! ## REGENERATE (R461) -/

/-- Fetch checks of REGENERATE. -/
def regenSpec : OpSpec := OpSpec.plain [bitsAt 0x40 0 10] 0

/-- Admission of REGENERATE: the binding must exist and be whole, and own its master and working copy (R248, R461, R535). -/
def admitBound (s : State) (p : Nat) (d : Desc) : Chk Desc :=
  match (s.part p).binding d.bindId with
  | none => bad 0x08 0xFF
  | some b => do
    needWhole b.broken
    s.needOwned (s.part p) (b.master.planes ++ b.wc.planes)
    return d

/-- Every chunk of a binding's master applied with no update words; the first poisoned address met, if any. Which chunk
meets an uncorrectable word of an engine's store is free (log entry 6). -/
def State.regenChunks (s : State) (r : DRef) (d : Desc) (b : Binding) (chip : Bool) : State × Option Nat :=
  let total := b.master.sz 0
  let n := ceilDiv total redLen
  let (at', s1) := if chip then s.freeBelow n else (n, s)
  foldS (fun (w : State × Option Nat) k =>
    let x := w.1.applyChunk r d b ⟨d.bindId, [], [], [], [], false⟩ (w.1.engineFor b d.bindId k) (redLen * k)
      (min redLen (total - redLen * k)) [] (k == at')
    (x.1, w.2 <|> x.2)) (s1, none) (List.range n)

/-- The leaves of a binding's tree, read when its upper levels are formed (R464). -/
def Binding.leafCells (b : Binding) : Nat × Nat := (b.tree + 64, 16 * nLeaf b.wc.treePlanes)

/-- A regeneration ends: at a poisoned line it marks the tree and ends with MEMORY, and otherwise it closes the tree. -/
def State.regenEnd (s : State) (r : DRef) (d : Desc) (b : Binding) (bad : Option Nat) : State :=
  match bad with
  | some l => ((s.wrN b.tree 8 (setBit (s.rdN b.tree 8) 33)).updDesc r fun y => y.decideMemory l).updDesc r fun y =>
      y.finish stMemory l
  | none =>
    ((s.noteBad r (s.poisonIn b.leafCells.1 b.leafCells.2)).closeTree b.tree d.step b.wc.treePlanes false).updDesc r fun y =>
      y.finish stOk 0

/-- REGENERATE: the whole working copy from the master, the tree, the stamp. Chunks whose master reads poisoned are left,
and PARTIAL is set. -/
def State.regenerate (s : State) (r : DRef) (chip : Bool) : State :=
  s.updOp r (fun d => d.opcode == 0x0601) fun t d =>
    match (t.part r.part).binding d.bindId with
    | none => t.updDesc r fun x => x.finish stBadDescriptor (badCode 0x08)
    | some b =>
      let x := t.regenChunks r d b chip
      x.1.regenEnd r d b x.2

/-- REGENERATE. -/
def execRegenerate (r : Reading) (s : State) : Host.Outcome State Fault Refusal :=
  .next (((s.finds r.ref r.found).noteChip r.ref r.found).regenerate r.ref (chipOf r.found).isSome)

/-! ## ANNEAL_CHECK (R470, R471) -/

def Desc.annealCount (d : Desc) : Nat := d.at' 0x50 2

/-- Fetch checks of ANNEAL_CHECK. -/
def annealSpec (d : Desc) : OpSpec :=
  let compare := bitOf (d.w32 0x40) 10
  { OpSpec.plain [bitsAt 0x40 0 12, bits44 0x48, bitsAt 0x50 0 16] 0 with
    encOk := if compare then 2 ≤ d.annealCount else d.annealCount == 0
    ranges := [(d.addr 0x48, 64, 64)] }

/-- The planes an anneal check covers (R470): a state's sentry plane is one of its planes. -/
def Binding.annealPlanes (b : Binding) (states : Bool) : List (Nat × Nat) :=
  b.master.planes ++ (if states then b.states.flatMap TensorDesc.planes else [])

/-- T of an image. -/
def imageLen (n : Nat) : Nat := ceilDiv (64 + 16 * n) 64 * 64

/-- Admission of ANNEAL_CHECK. -/
def admitAnneal (s : State) (p : Nat) (d : Desc) : Chk Desc := do
  let pt := s.part p
  match pt.binding d.bindId with
  | none => bad 0x08 0xFF
  | some b =>
    needWhole b.broken
    let planes := b.annealPlanes (bitOf (d.w32 0x40) 11)
    let len := imageLen (nLeaf planes) * max 1 d.annealCount
    s.needRange pt (d.addr 0x48) len 0xFF
    s.needOwned pt ((if bitOf (d.w32 0x40) 10 then [] else planes) ++ [(d.addr 0x48, len)])
    return d

/-- COMPUTE: the image of the master's tree. The spec gives VALID and PARTIAL of an image no value: they are free (log
entry 6). -/
def State.annealCompute (s : State) (r : DRef) : State :=
  s.updOp r (fun d => d.opcode == 0x0602 && !bitOf (d.w32 0x40) 10) fun t d =>
    match (t.part r.part).binding d.bindId with
    | none => t.updDesc r fun x => x.finish stBadDescriptor (badCode 0x08)
    | some b =>
      let planes := b.annealPlanes (bitOf (d.w32 0x40) 11)
      let leaves := t.leafDigests planes
      let up := treeLevels 64 leaves
      let (x, t1) := t.freeBelow 4
      let bytes := treeHeader d.step (x % 2 == 1) (x / 2 == 1) leaves.length (rootOf leaves up) ++ leaves.flatten
      let bad := planes.findSome? fun q => t.poisonIn q.1 q.2
      let t2 := (t1.noteBad r (bad <|> t1.poisonPart (d.addr 0x48) bytes.length)).wrBytes (d.addr 0x48) bytes
      let t3 := if bad.isSome then foldS State.setPoison t2 (linesOf (d.addr 0x48) bytes.length) else t2
      (t3.lateWrites r.part [(d.addr 0x48, bytes.length)]).updDesc r fun x => x.finish stOk 0

/-- COMPUTE. -/
def execCompute (r : Reading) (s : State) : Host.Outcome State Fault Refusal :=
  .next ((s.finds r.ref r.found).annealCompute r.ref)

/-- COMPARE: the roots of the images, and the first differing leaf of the first that differs (R471). -/
def State.annealCompare (s : State) (r : DRef) : State :=
  s.updOp r (fun d => d.opcode == 0x0602 && bitOf (d.w32 0x40) 10) fun t d =>
    match (t.part r.part).binding d.bindId with
    | none => t.updDesc r fun x => x.finish stBadDescriptor (badCode 0x08)
    | some b =>
      let n := nLeaf (b.annealPlanes (bitOf (d.w32 0x40) 11))
      let len := imageLen n
      let at' (j o : Nat) : Nat := d.addr 0x48 + len * j + o
      match t.poisonIn (d.addr 0x48) (len * d.annealCount) with
      | some l => t.updDesc r fun x => x.finish stMemory l
      | none =>
        let js := List.range d.annealCount
        if js.any fun j => t.rdN (at' j 0) 4 != t.rdN (at' 0 0) 4 || t.rdN (at' j 8) 4 != t.rdN (at' 0 8) 4 then
          t.updDesc r fun x => x.finish stBadDescriptor (badCode 0x08)
        else match js.find? fun j => t.rdBytes (at' j 0x10) 16 != t.rdBytes (at' 0 0x10) 16 with
          | none => t.updDesc r fun x => x.finish stOk 0
          | some j =>
            let leaf := ((List.range n).find? fun k =>
              t.rdBytes (at' j (64 + 16 * k)) 16 != t.rdBytes (at' 0 (64 + 16 * k)) 16).getD (2 ^ 64 - 1)
            let pol := if (t.part r.part).policy = 1 then 1 else 0
            let (t1, x) := t.exception r.part
              (divergenceRecord 1 pol d.tag t.tickNo d.bindId j leaf (t.rdN (at' j 0) 4) 0) false
            let t2 := t1.markExc (some r) x
            (if pol = 1 then t2.updDesc r fun y => { y with exc := true } else t2.divergeHalt r d.bindId leaf).updDesc r fun y =>
              y.finish stOk 0

/-- COMPARE. -/
def execCompare (r : Reading) (s : State) : Host.Outcome State Fault Refusal :=
  .next ((s.finds r.ref r.found).annealCompare r.ref)

/-! ## CHECKPOINT (R472, R473) -/

def Desc.withState (d : Desc) : Bool := bitOf (d.w32 0x40) 11

/-- Fetch checks of CHECKPOINT. -/
def checkpointSpec (d : Desc) : OpSpec :=
  { OpSpec.plain [bitsAt 0x40 0 12, bits44 0x48, bits44 0x50] 0 with
    win := [(d.addr 0x48, d.addr 0x50, 4096)] }

/-- The planes of a stream's data, in order. -/
def Binding.streamPlanes (b : Binding) (states : Bool) : List (Nat × Nat) := b.annealPlanes states

/-- Bytes of a plane padded to 64. -/
def pad64 (n : Nat) : Nat := ceilDiv n 64 * 64

/-- Bytes of a stream's data. -/
def dataLen (planes : List (Nat × Nat)) : Nat := planes.foldl (fun n p => n + pad64 p.2) 0

/-- Admission of CHECKPOINT. -/
def admitCheckpoint (s : State) (p : Nat) (d : Desc) : Chk Desc := do
  let pt := s.part p
  match pt.binding d.bindId with
  | none => bad 0x08 0xFF
  | some b =>
    needWhole b.broken
    let planes := b.streamPlanes d.withState
    need (decide (128 + dataLen planes ≤ d.addr 0x50)) 0x0B 0xFF
    s.needOwned pt (planes ++ [(d.addr 0x48, d.addr 0x50)])
    return d

/-- The 64-byte header of a stream (R472). -/
def Binding.streamHeader (b : Binding) (states : Bool) (stamp : Nat) : List Byte :=
  leBytes 4 (1 + b.states.length * 256 + (if b.master.format = fFP32X then 2048 else 0) + (if states then 4096 else 0)) ++
    leBytes 4 b.gradId ++ leBytes 8 stamp ++ leBytes 8 (b.master.sz 0) ++ leBytes 8 (dataLen (b.streamPlanes states)) ++
    List.replicate 32 0

/-- Planes with their offsets in the stream. -/
def streamPlaces : Nat → List (Nat × Nat) → List (Nat × Nat × Nat)
  | _, [] => []
  | o, (a, n) :: t => (o, a, n) :: streamPlaces (o + pad64 n) t

/-- The header of a stream is written; poison of the stamp's line moves with its bytes (R472, R533). -/
def State.saveHeader (s : State) (r : DRef) (b : Binding) (area : Nat) (states : Bool) : State :=
  let t := s.wrBytes area (b.streamHeader states (s.rdN b.tree 4))
  match s.poisonIn b.tree 4 with
  | some l => (t.setPoison area).noteBad r (some l)
  | none => t

/-- A plane is written into the stream, padded with zeros; poison of its lines moves with the bytes (R472, R533). -/
def State.savePlane (s : State) (r : DRef) (area : Nat) (e : Nat × Nat × Nat) : State :=
  let x := (s.wrBytes (area + e.1 + e.2.2) (List.replicate (pad64 e.2.2 - e.2.2) 0)).moveBytes e.2.1 (area + e.1) e.2.2
  x.1.noteBad r x.2

/-- A plane is read back from the stream (R473). -/
def State.loadPlane (s : State) (r : DRef) (area : Nat) (e : Nat × Nat × Nat) : State :=
  let x := s.moveBytes (area + e.1) e.2.1 e.2.2
  x.1.noteBad r x.2

/-- The trailer: the digest over `n` bytes of header and data, then zeros (R472). -/
def State.saveTrailer (s : State) (area n : Nat) : State :=
  s.wrBytes (area + n) (shake256 (s.rdBytes area n) ++ List.replicate 32 0)

/-- SAVE: header, data and the digest over both (R472). -/
def State.checkpointSave (s : State) (r : DRef) : State :=
  s.updOp r (fun d => d.opcode == 0x0603 && !bitOf (d.w32 0x40) 10) fun t d =>
    match (t.part r.part).binding d.bindId with
    | none => t.updDesc r fun x => x.finish stBadDescriptor (badCode 0x08)
    | some b =>
      let area := d.addr 0x48
      let planes := b.streamPlanes d.withState
      let n := dataLen planes
      let t1 := foldS (fun (u : State) e => u.savePlane r area e) (t.saveHeader r b area d.withState) (streamPlaces 64 planes)
      ((t1.saveTrailer area (64 + n)).lateWrites r.part [(area, 128 + n)]).updDesc r fun x => x.finish stOk 0

/-- SAVE. -/
def execSave (r : Reading) (s : State) : Host.Outcome State Fault Refusal :=
  .next ((s.finds r.ref r.found).checkpointSave r.ref)

/-- LOAD: the header is judged before the stream is read, then the digest, then master and state are written (R473). -/
def State.checkpointLoad (s : State) (r : DRef) : State :=
  s.updOp r (fun d => d.opcode == 0x0603 && bitOf (d.w32 0x40) 10) fun t d =>
    match (t.part r.part).binding d.bindId with
    | none => t.updDesc r fun x => x.finish stBadDescriptor (badCode 0x08)
    | some b =>
      let area := d.addr 0x48
      let planes := b.streamPlanes d.withState
      let n := dataLen planes
      let hdr := b.streamHeader d.withState (t.rdN (area + 8) 8)
      if let some l := t.poisonIn area 64 then t.updDesc r fun x => x.finish stMemory l
      else if t.rdBytes area 0x20 ≠ hdr.take 0x20 then t.updDesc r fun x => x.finish stBadDescriptor (badCode 0x08)
      else match t.poisonIn (area + 64) (64 + n) with
      | some l => t.updDesc r fun x => x.finish stMemory l
      | none =>
        if shake256 (t.rdBytes area (64 + n)) ≠ t.rdBytes (area + 64 + n) 32 then
          let (t1, x) := t.exception r.part
            (divergenceRecord 2 (t.part r.part).policy d.tag t.tickNo d.bindId 0 (2 ^ 64 - 1) (t.rdN (area + 8) 4) 0) false
          (t1.markExc (some r) x).updDesc r fun y => y.finish stDivergence (d.bindId + (2 ^ 32 - 1) * 2 ^ 32)
        else
          let t1 := foldS (fun (u : State) e => u.loadPlane r area e) t (streamPlaces 64 planes)
          let h := t1.rdN b.tree 8
          let t2 := ((t1.noteBad r (t1.poisonIn b.tree 8)).wrN b.tree 8 (clearBit (clearBit h 32) 33)).lateWrites r.part
            (planes ++ [(b.tree, 8)])
          t2.updDesc r fun x => x.finish stOk 0

/-- LOAD. -/
def execLoad (r : Reading) (s : State) : Host.Outcome State Fault Refusal :=
  .next ((s.finds r.ref r.found).checkpointLoad r.ref)

end Sys2Proof.Machine
end

