-- ==== Sys2Proof/Machine/Life.lean ====
section
/-!
DEFINITION. The life of a descriptor: fetch, admission, slices, completion, the completion entry (R173 to R180, R184 to
R189, R196 to R211, R218, R219, R534).
-/

namespace Sys2Proof.Machine

/-! ## The opcode table (R164) -/

/-- What an opcode's parameters must satisfy at fetch; none for a reserved opcode. -/
def State.opSpec (s : State) (p : Nat) (d : Desc) : Option OpSpec :=
  match d.opcode with
  | 0x0000 => some (OpSpec.plain [] 0)
  | 0x0001 => some (flagSpec d)
  | 0x0002 => some (copySpec d)
  | 0x0003 => some (dumpSpec d)
  | 0x0004 | 0x0005 => some (accSpec d)
  | 0x0100 => some (matmulSpec d)
  | 0x0110 | 0x0111 | 0x0112 => some (convSpec d)
  | 0x0118 => some (poolSpec d)
  | 0x0119 => some (boxSpec d)
  | 0x011A => some (supSpec d)
  | 0x0200 => some (vecSpec d)
  | 0x0201 | 0x0202 => some (xc16Spec d)
  | 0x0300 | 0x0301 | 0x0302 | 0x0303 => some (attnSpec d)
  | 0x0310 => some (decodeSpec d)
  | 0x0311 => some (resumeSpec d)
  | 0x0312 => some (releaseSpec d)
  | 0x0400 => some (mediaSpec d)
  | 0x0401 => some (streamOpenSpec s p d)
  | 0x0402 => some streamCloseSpec
  | 0x0500 | 0x0501 | 0x0502 | 0x0503 | 0x0504 | 0x0505 => some (collSpec s p d)
  | 0x0600 => some (bindSpec d)
  | 0x0601 => some regenSpec
  | 0x0602 => some (annealSpec d)
  | 0x0603 => some (checkpointSpec d)
  | _ => none

/-- The admission checks and reads of an opcode (R174). -/
def admitOp (s : State) (p : Nat) (d : Desc) : Chk Desc :=
  match d.opcode with
  | 0x0002 => admitCopy s p d
  | 0x0003 => admitDump s p d
  | 0x0004 | 0x0005 => admitAcc s p d
  | 0x0100 => admitMatmul s p d
  | 0x0110 | 0x0111 | 0x0112 => admitConv s p d
  | 0x0118 => admitPool s p d
  | 0x0119 => admitBox s p d
  | 0x011A => admitSup s p d
  | 0x0200 => admitVec s p d
  | 0x0201 | 0x0202 => admitXc16 s p d
  | 0x0300 | 0x0301 | 0x0302 | 0x0303 => admitAttn s p d
  | 0x0310 => admitDecode s p d
  | 0x0311 => admitResume s p d
  | 0x0312 => admitRelease s p d
  | 0x0400 => admitMedia s p d
  | 0x0401 => admitStreamOpen s p d
  | 0x0500 | 0x0501 | 0x0502 | 0x0503 | 0x0504 | 0x0505 => admitColl s p d
  | 0x0600 => admitBind s p d
  | 0x0601 => admitBound s p d
  | 0x0602 => admitAnneal s p d
  | 0x0603 => admitCheckpoint s p d
  | _ => .ok d

/-! ## Fetch checks (R154, R155, R165, R173) -/

/-- The bits a list of fields (bit offset, width) covers. -/
def maskBits (l : List (Nat × Nat)) : Nat := l.foldl (fun m f => m ||| ((2 ^ f.2 - 1) * 2 ^ f.1)) 0

/-- A number of `n` bits has a bit outside a mask. -/
def outside (n x mask : Nat) : Bool := x &&& (2 ^ n - 1 - mask) != 0

/-- The common fields of a descriptor (R154): 64 bytes. -/
def commonMask : Nat := maskBits [(0, 21), (32, 32), (64, 32), (96, 16), (128, 80), (256, 192), (448, 44)]

def Desc.ndep (d : Desc) : Nat := fld (d.w32 0) 18 16
def Desc.depBlk (d : Desc) : Bool := bitOf (d.w32 0) 19
/-- Inline dependency tag `i`. -/
def Desc.depTag (d : Desc) (i : Nat) : Nat := d.w32 (0x20 + 4 * i)

/-- No reserved field holds anything (R155). -/
def Desc.reservedOk (d : Desc) (spec : OpSpec) : Bool :=
  !outside 512 (d.at' 0 64) commonMask && !outside 512 (d.at' 0x40 64) (maskBits spec.mask) &&
  ((List.range 6).all fun i => decide (i < d.ndep) || d.depTag i == 0) && (d.depBlk || d.at' 0x38 8 == 0)

/-- The first unit a descriptor names that is absent: number and kind (R165). -/
def State.absentUnit (s : State) (d : Desc) (spec : OpSpec) : Option (Nat × Nat) :=
  match d.clusters.find? fun c => !s.clusterPresent c with
  | some c => some (c, 0)
  | none => match spec.units with
    | u :: _ => some u
    | [] =>
      ((spec.ranges.map (·.1) ++ spec.win.map (·.1) ++ (if d.depBlk then [d.addr 0x38] else [])).findSome? s.absentStack).map fun st => (st, 8)

/-- CLUSTER_SET obeys the column of R164 and stays within the partition. -/
def Desc.setOk (d : Desc) (pt : Part) (spec : OpSpec) : Bool :=
  (spec.set != 0 || d.clusterMask == 0) && (spec.set != 1 || d.clusterMask != 0) &&
  d.clusters.all fun c => bitOf pt.ent.clusters c

/-- The operand of the first tensor pointer whose tensor descriptor would lie outside the partition (R162). -/
def State.badPointer (s : State) (pt : Part) (spec : OpSpec) : Option Nat :=
  ((spec.tdps.zipIdx).find? fun e => e.1 != noTensor && !s.inRange pt (pt.page.tdBase + 64 * e.1) 64).map (·.2)

/-- Every address lies where it must, aligned, and what the fields name is assigned (R173 check 5). -/
def State.addressesOk (s : State) (pt : Part) (d : Desc) (spec : OpSpec) : Bool :=
  (spec.ranges.all fun q => q.1 % max 1 q.2.2 == 0 && s.inRange pt q.1 q.2.1) &&
  (spec.win.all fun q => q.1 % max 1 q.2.2 == 0 && pt.inWindow q.1 q.2.1) &&
  (!d.depBlk || (d.addr 0x38 % 64 == 0 && s.inRange pt (d.addr 0x38) 8)) && spec.assigned

/-- The nearest earlier descriptor of the ring with a tag, within E − 1 entries (R175). -/
def SubRing.resolve (q : SubRing) (num tag : Nat) : Option Dep :=
  (q.hist.reverse.find? fun h => h.tag == tag && decide (seqSub num h.num ≤ 2 ^ q.log2 - 1)).map fun h =>
    ⟨h.num, h.tag, h.status⟩

/-- Drop later repeats of a tag (R175). -/
def uniqTags : List Nat → List Nat
  | [] => []
  | t :: l => t :: (uniqTags l).filter (· != t)

/-- The dependency tags of a descriptor, the block's after the inline ones (R176). -/
def State.depTags (s : State) (pt : Part) (d : Desc) : Chk (List Nat) := do
  let inl := (List.range d.ndep).map d.depTag
  if !d.depBlk then return uniqTags inl
  else
    let a := d.addr 0x38
    s.needClean a 8
    let h := s.rdN a 8
    let n := h % 65536
    need (decide (h < 65536 ∧ 1 ≤ n ∧ n ≤ 254) && s.inRange pt a (8 + 4 * n)) 0x06 0xFF
    s.needClean a (8 + 4 * n)
    return uniqTags (inl ++ (List.range n).map fun i => s.rdN (a + 8 + 4 * i) 4)

/-- The dependencies of a descriptor, each resolved (R175). -/
def State.resolveDeps (s : State) (pt : Part) (d : Desc) : Chk (List Dep) := do
  let tags ← s.depTags pt d
  let found := tags.map ((pt.subRing d.ring).resolve d.num)
  need (found.all Option.isSome) 0x06 0xFF
  return found.filterMap id

/-- The checks of R173 in their order. -/
def State.fetchChecks (s : State) (p : Nat) (d : Desc) : Chk Desc :=
  let pt := s.part p
  match s.opSpec p d with
  | none => bad 0x01 0xFF
  | some spec => do
    need (d.reservedOk spec) 0x02 0xFF
    need (decide (d.ndep < 7) && spec.encOk) 0x03 0xFF
    match s.absentUnit d spec with
    | some (n, k) => .error (stEngineAbsent, absentDetail n k)
    | none => .ok ()
    need (d.setOk pt spec) 0x04 0xFF
    match s.badPointer pt spec with
    | some i => bad 0x05 i
    | none => .ok ()
    need (s.addressesOk pt d spec) 0x05 0xFF
    let deps ← s.resolveDeps pt d
    return { d with deps := deps }

/-! ## Fetch (R156, R196, R204, R205) -/

/-- Descriptors of a ring in flight (R204). -/
def Part.inFlight (pt : Part) (ring : Nat) : Nat :=
  (pt.descs.filter fun d => d.ring == ring).length +
    ((pt.comRing (pt.subRing ring).cq).waiting.filter fun e => e.ring == ring).length

/-- Descriptors in flight on a home die. -/
def State.dieInFlight (s : State) (die : Nat) : Nat :=
  s.parts.foldl (fun n e => n + (e.2.sq.filter fun q => q.2.enabled && q.2.homeDie == die).foldl
    (fun m q => m + e.2.inFlight q.1) 0) 0

/-- A ring has a descriptor to fetch and nothing keeps it from being fetched (R204, R231, R263, R534). -/
def State.mayFetch (s : State) (p ring : Nat) : Bool :=
  let pt := s.part p
  let q := pt.subRing ring
  !s.halted && q.enabled && q.fetched != q.produced && !q.poisoned && decide (pt.inFlight ring < q.fetchMax) &&
  decide (s.dieInFlight q.homeDie < 512) && (q.loc == 0 || s.linked pt.ent.attach)

/-- The rings of a home die and priority, as partition × 256 + ring, that may fetch. -/
def State.fetchers (s : State) (die prio : Nat) : List Nat :=
  s.parts.flatMap fun e => (e.2.sq.filter fun q => q.2.homeDie == die && q.2.prio == prio && s.mayFetch e.1 q.1).map fun q =>
    e.1 * 256 + q.1

/-- The next of rising numbers after `last`, round and round. -/
def nextInTurn (last : Option Nat) (l : List Nat) : Option Nat :=
  match last with
  | none => l.head?
  | some x => match l.find? fun y => decide (x < y) with
    | some y => some y
    | none => l.head?

/-- R205 serves this ring now. -/
def State.servesNow (s : State) (p ring : Nat) : Bool :=
  let q := (s.part p).subRing ring
  ((List.range 4).all fun k => k ≤ q.prio || (s.fetchers q.homeDie k).isEmpty) &&
  nextInTurn (tlook s.served (q.homeDie * 4 + q.prio)) (s.fetchers q.homeDie q.prio) == some (p * 256 + ring)

/-- The address of entry `i` of a ring of `size`-byte entries (R196). -/
def ringEntry (base log2 i size : Nat) : Nat := base + size * (i % 2 ^ log2)

/-- The bytes of a ring entry, and whether they read poisoned. -/
def State.readEntry (s : State) (pt : Part) (q : SubRing) : List Byte × Bool :=
  let a := ringEntry q.base q.log2 q.fetched.toNat 128
  if q.loc = 0 then (s.rdBytes a 128, (s.poisonIn a 128).isSome) 
  else (s.hostRd pt.ent.attach a 128, (s.hostPoisonIn pt.ent.attach a 128).isSome)

/-- A descriptor as it is fetched (R63, R156, R236). -/
def Part.newDesc (pt : Part) (ring num : Nat) (raw : List Byte) : Desc :=
  { ring := ring, num := num, raw := raw, seed := pt.page.jobSeed, mode := pt.ent.mode, phase := .waiting, deps := [],
    order := pt.nextOrder, tds := [], prog := [], list := [], units := 0, doneUnits := 0, slice := none, rate := none,
    slack := false, startTick := 0, overruns := 0, started := false, exc := false, status := none, detail := 0,
    cancel := false, endTick := 0, heldCancel := false, go := false, groups := [], chip := none, memTick := none, memSectors := 0, xcOver := [],
    samples := [], seqStat := [], coll := none, upd := none }

/-- Keep what a later dependency can reach (R175). -/
def SubRing.trim (q : SubRing) (num : Nat) : SubRing :=
  { q with hist := q.hist.filter fun (h : Hist) => decide (seqSub num h.num < 2 ^ q.log2) }

/-- The ring after its next descriptor has been fetched: counts, history, the stop descriptor (R187), the end of a
cancelled range. -/
def SubRing.take (q : SubRing) (tag : Nat) : SubRing :=
  let n := q.fetched.toNat
  let q1 := ({ q with fetched := q.fetched + 1 }.trim n)
  { q1 with
    hist := q1.hist ++ [⟨n, tag, none⟩]
    stopNum := if q.stopEn && q.stopNum.isNone && !q.stopNow && tag == q.stopTag then some n else q.stopNum
    cancels := q.cancels.filter fun c => c.2 != (n + 1) % 2 ^ 32 }

/-- What fetch decides for a descriptor: its checks, or CANCELLED without checks where cancels reach it, whose release groups
`groups` are (R173, R178, R221). -/
def State.fetchDecide (s : State) (p : Nat) (d : Desc) (groups : List Nat) : Desc :=
  if !groups.isEmpty then { d with status := some stCancelled, cancel := true, groups := groups }
  else match s.fetchChecks p d with
    | .error (st, detail) => { d with status := some st, detail := detail }
    | .ok d' => match d'.depFailure (s.part p).mirror.hold with
      | some x => { d' with status := some stDepFailed, detail := x }
      | none => d'

/-- The entry of a ring that reads poisoned is lost: one completion entry, and the ring fetches no more (R534). `sectors`: those
its read newly poisoned. -/
def State.lostEntry (s : State) (p ring sectors : Nat) : State :=
  let pt := s.part p
  let q := pt.subRing ring
  let n := q.fetched.toNat
  let d := { (pt.newDesc ring n (leBytes 4 0 ++ leBytes 4 0xFFFFFFFF)) with
    status := some stMemory
    detail := ringEntry q.base q.log2 n 128
    memSectors := sectors }
  let s1 := s.setPart p (({ pt with descs := pt.descs ++ [d], nextOrder := pt.nextOrder + 1 }).setSub ring
    { q with fetched := q.fetched + 1, poisoned := true,
             cancels := q.cancels.filter fun c => c.2 != (n + 1) % 2 ^ 32 })
  s1.complete ⟨p, ring, n⟩

/-- DESCRIPTOR_FETCH of the next descriptor of a ring; `found` is what its reads find wrong. -/
def State.fetch (s1 : State) (p ring : Nat) (found : List Found) : State :=
  if !s1.mayFetch p ring || !s1.servesNow p ring then s1
  else
    let s0 := s1.findAll 0 0 found
    let pt := s0.part p
    let q := pt.subRing ring
    let s := { s0 with served := tput s0.served (q.homeDie * 4 + q.prio) (p * 256 + ring) }
    let (raw, lost) := s.readEntry pt q
    let sectors := s0.poison.length - s1.poison.length
    if lost then s.lostEntry p ring sectors
    else
      let n := q.fetched.toNat
      let d := s.fetchDecide p { pt.newDesc ring n raw with memSectors := sectors } (q.cancels.map (·.1))
      let s2 := s.setPart p (({ pt with descs := pt.descs ++ [d], nextOrder := pt.nextOrder + 1 }).setSub ring (q.take d.tag))
      if d.status.isSome then s2.complete ⟨p, ring, n⟩ else s2

/-- DESCRIPTOR_FETCH. -/
def execDescriptorFetch (part : Nat) (ring : RingReading) (s : State) : Host.Outcome State Fault Refusal :=
  .next (s.fetch part ring.ring ring.found)

/-! ## Admission (R163, R174, R177) -/

/-- Every dependency has completed with success (R177). -/
def Desc.ready (d : Desc) : Bool :=
  d.deps.all fun e => match e.status with
    | some st => isSuccess st
    | none => false

/-- DESCRIPTOR_ADMIT; `found` is what its reads find wrong. -/
def State.admitDesc (s0 : State) (r : DRef) (found : List Found) : State :=
  match s0.desc r with
  | none => s0
  | some d0 =>
    if s0.halted || d0.phase != .waiting || d0.status.isSome || !d0.ready then s0
    else
      let s := s0.foundBy r found
      let d := (s.desc r).getD d0
      match admitOp s r.part d with
      | .ok d' =>
        let pt := s.part r.part
        let s1 := s.updDesc r fun _ => { d' with phase := .admitted, order := pt.nextOrder }
        (s1.updPart r.part fun q => { q with nextOrder := q.nextOrder + 1 }).latchSentry r
      | .error (st, detail) =>
        let s1 := if st = stEmptyOutput then convZero s r.part d else s
        s1.updDesc r fun x => x.finish st detail

/-- DESCRIPTOR_ADMIT. -/
def execDescriptorAdmit (r : Reading) (s : State) : Host.Outcome State Fault Refusal :=
  .next (s.admitDesc r.ref r.found)

/-! ## Slices (R206 to R209, R218) -/

/-- An opcode that moves bytes runs on after it has met poison (R533). -/
def Desc.moves' (d : Desc) : Bool := d.opcode == 2 || d.opcode == 3

/-- A status decided so far ends the descriptor at the end of its slice (R218). -/
def Desc.stops (d : Desc) : Bool := match d.status with
  | none => d.cancel
  | some st => d.cancel || !(d.moves' && st == stMemory)

/-- A slice of the descriptor may be sized at time `t`: step 8 of a boundary comes 2 µs after it (R34, R38, R174, R208). -/
def State.mayIssue (s : State) (r : DRef) (d : Desc) (t : Nat) : Bool :=
  isSliced d.opcode && !s.halted && s.tick.running && decide (s.now ≤ t ∧ s.tick.start + 2000 ≤ t ∧ t < s.nextBoundary) &&
  d.slice.isNone && !d.slack &&
  decide (d.unitsLeft > 0) &&
  (s.mayStart r.part d || (d.phase == .running && !d.stops)) &&
  s.clustersFree r.part t d ((s.part r.part).clustersNow d)

/-- SLICE_ISSUE at time `t`: the checks of start, then the procedure of R208. `found` is what the slice's reads find wrong: each
sector at once, an uncorrectable word of on-chip storage by the engine that meets it in the slice (R532). -/
def State.sliceIssue (s0 : State) (r : DRef) (t : Nat) (found : List Found) : State :=
  match s0.desc r with
  | none => s0
  | some d0 =>
    if !s0.mayIssue r d0 t then s0
    else
      let s := (s0.advance t).foundBy r found
      match (if d0.started then none else s.startCheck d0) with
      | some (st, detail) => s.updDesc r fun x => x.finish st detail
      | none => s.sizeSlice r d0 ((s.part r.part).clustersNow d0) t (chipOf found)

/-- SLICE_ISSUE. -/
def execSliceIssue (r : Reading) (t : Nat) (s : State) : Host.Outcome State Fault Refusal :=
  .next (s.sliceIssue r.ref t r.found)

/-- Charge a running slice's clusters up to time `t` (R438, R439). -/
def Part.chargeTo (pt : Part) (gov : PwrSt) (sl : Slice) (t : Nat) (stall : List (Nat × Nat)) : Part :=
  foldS (fun (q : Part) c => q.chargeSlice gov c (t - sl.charged) (tget 0 stall c) gov.fMhz) pt sl.clusters

/-- The rate a slice measures (R209). -/
def Slice.measured (sl : Slice) (t : Nat) : Rate := ⟨sl.count, max 1 (t - sl.start), max 1 sl.clusters.length, sl.f⟩

/-- The slice of a descriptor is over: units counted, rate kept, overrun lent clusters given back (R209, R217). -/
def State.closeSlice (s : State) (r : DRef) (d : Desc) (sl : Slice) (t : Nat) (stall : List (Nat × Nat)) : State :=
  let m := sl.measured t
  let s1 := s.updPart r.part fun q =>
    let q1 := q.chargeTo s.pwr sl t stall
    { q1 with
      rates := tput q1.rates d.rateKey m
      lent := if sl.tick = s.tickNo then q1.lent
        else q1.lent.filter fun (l : Lent) => !(l.ring == d.ring && l.num == d.num && sl.clusters.contains l.cluster) }
  s1.updDesc r fun x => { x with
    slice := none
    rate := some m
    doneUnits := if x.opcode = 0x0310 then x.doneUnits else x.doneUnits + sl.count }

/-- What an opcode does when its descriptor stops or has done its units. -/
def State.endOp (s : State) (r : DRef) : State :=
  match s.desc r with
  | none => s
  | some d =>
    let s1 := if d.opcode = 0x0310 then s.endDecode r
      else if d.opcode = 0x0311 ∧ d.status.isSome then s.resumeBack r d else s
    s1.updDesc r fun x => x.finish stOk 0

/-- End a started sliced descriptor whose slice is over, if a decision stops it or its units are done. -/
def State.settleSliced (s : State) (r : DRef) : State :=
  match s.desc r with
  | none => s
  | some d =>
    let s1 := if d.cancel then s.updDesc r fun x => x.decide' stCancelled 0 else s
    let done := if d.opcode = 0x0310 then d.seqAllDone else decide (d.unitsLeft = 0)
    if d.stops || done then s1.endOp r else s1

/-- SLICE_END at time `t`; `stall` is the time its clusters lost waiting for operands (R439). -/
def State.sliceEnd (s0 : State) (r : DRef) (t : Nat) (stall : List (Nat × Nat)) : State :=
  match (s0.desc r).bind fun d => d.slice.map fun sl => (d, sl) with
  | none => s0
  | some (d, sl) =>
    if s0.halted || !sl.ran || decide (t < s0.now ∨ s0.nextBoundary < t) then s0
    else
      let s := s0.advance t
      let s1 := s.closeSlice r d sl t stall
      let s2 := if d.opcode = 0x0310 then s1.settleSwaps r else s1
      (s2.settleSliced r).testWaits r.part

/-- SLICE_END. -/
def execSliceEnd (r : DRef) (t : Nat) (stall : List (Nat × Nat)) (s : State) : Host.Outcome State Fault Refusal :=
  .next (s.sliceEnd r t stall)

/-! ## Completion (R178, R184, R198, R199) -/

/-- A decided completion may take effect: the descriptor has ended, or has not started. -/
def Desc.mayComplete (d : Desc) : Bool :=
  d.status.isSome && (d.phase == .ended || ((d.phase == .waiting || d.phase == .admitted) && !d.started))

/-- A MEDIA_SAMPLE that has committed all its samples completes after every earlier one of its ring (R316). -/
def Part.mediaTurn (pt : Part) (d : Desc) : Bool :=
  d.opcode != 0x0400 || !d.started || !isSuccess (d.status.getD stOk) ||
  !(pt.descs.any fun e => e.ring == d.ring && e.opcode == 0x0400 && e.num != d.num && numLe e.num d.num && e.phase != .done)

/-- DESCRIPTOR_COMPLETE. -/
def State.descriptorComplete (s : State) (r : DRef) : State :=
  match s.desc r with
  | none => s
  | some d => if s.halted || !d.mayComplete || !(s.part r.part).mediaTurn d then s else (s.unreached r).complete r

/-- DESCRIPTOR_COMPLETE. -/
def execDescriptorComplete (r : DRef) (s : State) : Host.Outcome State Fault Refusal := .next (s.descriptorComplete r)

/-- The 32 bytes of entry `w` of a completion ring (R184, R198). -/
def Entry.bytes (e : Entry) (w log2 tick : Nat) : List Byte :=
  let b (x : Bool) (k : Nat) : Nat := if x then 2 ^ k else 0
  leBytes 4 e.tag ++
  leBytes 4 (e.status % 256 + e.ring % 256 * 256 + b ((w / 2 ^ log2 + 1) % 2 == 1) 16 + b e.exc 17 + b e.started 18) ++
  leBytes 8 tick ++ leBytes 4 e.ticks ++ leBytes 4 (e.overruns % 65536) ++ leBytes 8 e.detail

/-- A completion ring has room for its next entry (R198). -/
def ComRing.room (c : ComRing) : Bool := decide ((c.written - c.consumed).toNat < 2 ^ c.log2)

/-- The next entry of a completion ring, where it may be written now (R180, R187, R198, R224, R231, R263). -/
def State.entryDue (s : State) (p cq : Nat) : Option Entry :=
  let pt := s.part p
  let c := pt.comRing cq
  if s.halted || !c.enabled || (c.loc != 0 && !s.linked pt.ent.attach) then none
  else c.waiting.find? fun e => !pt.withholds e

/-- The entries of a completion ring that still wait once `e` is written. -/
def ComRing.without (c : ComRing) (e : Entry) : List Entry :=
  c.waiting.filter fun x => !(x.ring == e.ring && x.num == e.num)

/-- COMPLETION_ENTRY_WRITE: one entry is written whole, or waits on a full ring (R184, R198, R199). -/
def State.writeEntry (s : State) (p cq : Nat) : State :=
  match s.entryDue p cq with
  | none => s
  | some e =>
    let pt := s.part p
    let c := pt.comRing cq
    if !c.room then s
    else
      let w := c.written.toNat
      let a := ringEntry c.base c.log2 w 32
      let bytes := e.bytes w c.log2 s.tickNo
      let c1 := { c with waiting := c.without e, written := c.written + 1 }
      let s1 := s.setPart p (pt.setCom cq c1)
      let s2 := if c.loc = 0 then s1.wrBytes a bytes else s1.hostWr pt.ent.attach a bytes
      let s3 := if e.irq then s2.signal p c.vector else s2
      (s3.settleHold p).testWaits p

/-- COMPLETION_ENTRY_WRITE. -/
def execCompletionEntryWrite (part : Nat) (cq : CqReading) (s : State) : Host.Outcome State Fault Refusal :=
  .next ((if s.halted then s else s.findAll 0 0 cq.found).writeEntry part cq.cq)

end Sys2Proof.Machine
end

