-- ==== Sys2Proof/Machine/Bell.lean ====
section
/-!
DEFINITION. The doorbell page: producer and consumer counts, control block reloads, RESUME and CANCEL (R187, R188, R193
to R202, R220 to R224).
-/

namespace Sys2Proof.Machine

/-! ## Who a host access reaches (R233, R234) -/

/-- The ready partition behind a port, if there is one. -/
def State.portPart (s : State) (h : Port) : Option Nat :=
  if s.linked h.att then
    (s.parts.find? fun e => e.2.ent.ready && e.2.ent.attach == h.att && e.2.ent.ldId == h.ld).map (·.1)
  else none

def State.updMirror (s : State) (p : Nat) (f : Mirror → Mirror) : State :=
  s.updPart p fun q => { q with mirror := f q.mirror }

/-- Ignore a doorbell and count it (R201). -/
def State.reject (s : State) (p : Nat) : State :=
  s.updMirror p fun m => { m with doorbellReject := m.doorbellReject + 1 }

/-- A doorbell that reaches a partition: ignored and counted while the package is halted (R536); ignored while its function
is being reset or withdrawn, or the package enters a power state (R239, R262, R483). -/
def State.bell (s : State) (h : Port) (f : State → Nat → State) : State :=
  match s.portPart h with
  | none => s
  | some p => if s.halted then s.reject p else if (s.part p).life != .ready || s.pwr.busy then s else f s p

/-! ## Producer and consumer counts (R196, R198) -/

/-- SQ_PRODUCER of submission ring `ring`. -/
def State.sqProducer (s : State) (p ring : Nat) (v : Nat) : State :=
  let pt := s.part p
  let q := pt.subRing ring
  let n := BitVec.ofNat 32 v
  if decide (v < 2 ^ 32) && q.enabled && decide ((n - q.fetched).toNat ≤ 2 ^ q.log2) &&
      decide ((n - q.produced).toNat ≤ (n - q.fetched).toNat) then
    s.setPart p (pt.setSub ring { q with produced := n })
  else s.reject p

/-- SQ_PRODUCER; `stored` is what the host has stored in its memory before it (R254). -/
def execSqProducer (h : Port) (ring : Nat) (v : SqBell) (s : State) :
    Host.Outcome State Fault Refusal :=
  .next ((s.hostStore h.att v.stored).bell h fun t p => t.sqProducer p ring v.value.toNat)

/-- CQ_CONSUMER of completion ring `m`. -/
def State.cqConsumer (s : State) (p m : Nat) (v : Nat) : State :=
  let pt := s.part p
  let c := pt.comRing m
  let n := BitVec.ofNat 32 v
  if decide (v < 2 ^ 32) && c.enabled && decide ((n - c.consumed).toNat ≤ (c.written - c.consumed).toNat) then
    s.setPart p (pt.setCom m { c with consumed := n })
  else s.reject p

/-- CQ_CONSUMER. -/
def execCqConsumer (h : Port) (ring : Nat) (v : W64) (s : State) : Host.Outcome State Fault Refusal :=
  .next (s.bell h fun t p => t.cqConsumer p ring v.toNat)

/-! ## Control blocks (R194, R195) -/

/-- A reload is refused and counted. -/
def State.refuse (s : State) (p : Nat) : State := s.updMirror p fun m => { m with reloadReject := m.reloadReject + 1 }

/-- The words of a control block. -/
structure CtlBlock where
  base : Nat
  w1 : Nat
  w2 : Nat
  rest : Nat
deriving DecidableEq, Repr

def CtlBlock.log2 (b : CtlBlock) : Nat := fld b.w1 3 0
def CtlBlock.loc (b : CtlBlock) : Nat := fld b.w1 4 4
def CtlBlock.enable (b : CtlBlock) : Bool := bitOf b.w1 5

/-- Read a control block; none where it lies outside the range or reads poisoned. -/
def State.ctlBlock (s : State) (pt : Part) (a : Nat) : Option CtlBlock :=
  if s.inRange pt a 64 && (s.poisonIn a 64).isNone then
    some ⟨s.rdN a 8, s.rdN (a + 8) 8, s.rdN (a + 0x10) 8, leNat (s.rdBytes (a + 0x18) 40)⟩
  else none

/-- What both kinds of block obey (R194). LOG2_ENTRIES has four bits and cannot spell the 16 that R193 allows: 4 to 15 are taken
(DESIGN CHOICE, log entry 57). -/
def CtlBlock.commonOk (b : CtlBlock) : Bool :=
  decide (b.base % 4096 = 0 ∧ 4 ≤ b.log2 ∧ b.rest = 0) && (b.loc == 1 || decide (b.base < 2 ^ 44))

/-- A submission ring's block (R194). -/
def CtlBlock.subOk (b : CtlBlock) : Bool :=
  b.commonOk && decide (fld b.w1 15 12 = 0 ∧ fld b.w1 31 23 = 0 ∧ fld b.w1 63 42 = 0 ∧ b.w2 < 2 ^ 32 ∧
    1 ≤ fld b.w1 41 32 ∧ fld b.w1 41 32 ≤ 512)

/-- A completion ring's block (R194). -/
def CtlBlock.comOk (b : CtlBlock) : Bool :=
  b.commonOk && decide (fld b.w1 15 6 = 0 ∧ fld b.w1 63 27 = 0 ∧ b.w2 = 0)

/-- A ring in the window lies wholly within it. -/
def CtlBlock.fits (b : CtlBlock) (pt : Part) (size : Nat) : Bool := b.loc == 1 || pt.inWindow b.base (size * 2 ^ b.log2)

/-- The fields of a submission ring that a reload of an enabled ring may change. -/
def SubRing.reload (q : SubRing) (b : CtlBlock) (hold : Bool) : SubRing :=
  let on := bitOf b.w1 6
  let q1 := { q with
    stopEn := on, stopTag := b.w2, prio := fld b.w1 8 7, borrow := bitOf b.w1 9, fetchMax := fld b.w1 41 32 }
  if on then (if q.stopEn then q1 else if hold then { q1 with stopNow := true, stopped := true } else q1)
  else { q1 with stopNum := none, stopNow := false, stopped := false }

/-- A submission ring as its block enables it. -/
def CtlBlock.newSub (b : CtlBlock) (hold : Bool) : SubRing :=
  ({ SubRing.dflt with
    enabled := true, base := b.base, log2 := b.log2, loc := b.loc, homeDie := fld b.w1 11 10, cq := fld b.w1 22 16
  }).reload b hold

/-- The block leaves unchanged what an enabled submission ring may not change. -/
def CtlBlock.sameSub (b : CtlBlock) (q : SubRing) : Bool :=
  b.base == q.base && b.log2 == q.log2 && b.loc == q.loc && fld b.w1 11 10 == q.homeDie && fld b.w1 22 16 == q.cq

/-- RING_CTL of a submission ring (R187, R188, R195, R240). -/
def State.reloadSub (s : State) (p n : Nat) : State :=
  let pt := s.part p
  let q := pt.subRing n
  match s.ctlBlock pt (pt.page.ringBase + 64 * n) with
  | none => s.refuse p
  | some b =>
    if !b.subOk then s.refuse p
    else if q.enabled then
      if b.enable then
        if b.sameSub q then ((s.setPart p (pt.setSub n (q.reload b pt.mirror.hold))).ringStop p n).release p n else s.refuse p
      else if pt.inFlight n = 0 ∧ q.fetched = q.produced then s.setPart p (pt.setSub n SubRing.dflt) else s.refuse p
    else if b.enable then
      if (pt.comRing (fld b.w1 22 16)).enabled && decide (pt.rings.length < pt.ent.sqMax) && b.fits pt 128 then
        s.setPart p (pt.setSub n (b.newSub pt.mirror.hold))
      else s.refuse p
    else s

/-- RING_CTL of a completion ring (R195, R240). -/
def State.reloadCom (s : State) (p m : Nat) : State :=
  let pt := s.part p
  let c := pt.comRing m
  match s.ctlBlock pt (pt.page.ringBase + 0x4000 + 64 * m) with
  | none => s.refuse p
  | some b =>
    if !b.comOk then s.refuse p
    else if c.enabled then
      if b.enable then
        if b.base == c.base && b.log2 == c.log2 && b.loc == c.loc then
          s.setPart p (pt.setCom m { c with vector := fld b.w1 26 16 })
        else s.refuse p
      else if pt.sq.any fun e => e.2.enabled && e.2.cq == m then s.refuse p
      else s.setPart p (pt.setCom m ComRing.dflt)
    else if b.enable then
      if decide ((pt.cq.filter fun e => e.2.enabled).length < pt.ent.cqMax) && b.fits pt 32 then
        s.setPart p (pt.setCom m
          { ComRing.dflt with enabled := true, base := b.base, log2 := b.log2, loc := b.loc, vector := fld b.w1 26 16 })
      else s.refuse p
    else s

/-- A RING_CTL doorbell (R200, R201). -/
def State.ringCtl (s : State) (p v : Nat) : State :=
  if v ≥ 512 ∨ (bitOf v 8 ∧ v % 256 ≥ 128) then s.reject p
  else if bitOf v 8 then s.reloadCom p (v % 256) else s.reloadSub p (v % 256)

/-- RING_CTL_SUBMISSION. -/
def execRingCtlSubmission (h : Port) (v : Written) (s : State) : Host.Outcome State Fault Refusal :=
  .next (s.bell h fun t p => (t.findAll 0 0 v.found).ringCtl p v.value.toNat)

/-- RING_CTL_COMPLETION. -/
def execRingCtlCompletion (h : Port) (v : Written) (s : State) : Host.Outcome State Fault Refusal :=
  .next (s.bell h fun t p => (t.findAll 0 0 v.found).ringCtl p v.value.toNat)

/-! ## RESUME (R81, R223) -/

/-- A hold begins to end, 1 by RESUME or 2 by a cancel: the entries it withheld go out, and once they are written it is over
(R223, R224). -/
def State.endHold (s : State) (p how g : Nat) : State :=
  ((s.updPart p fun q => q.letGo how g).releaseAll p).settleHold p

/-- A RESUME doorbell. -/
def State.resumeBell (s : State) (p v : Nat) : State :=
  let m := (s.part p).mirror
  if v ≠ m.trapSeq then s.reject p
  else if m.hold && m.ending == 0 then let (g, t) := s.takeGroup p; t.endHold p 1 g
  else s

/-- RESUME. -/
def execResume (h : Port) (v : W64) (s : State) : Host.Outcome State Fault Refusal :=
  .next (s.bell h fun t p => t.resumeBell p v.toNat)

/-! ## CANCEL (R220 to R222, R224) -/

/-- A cancel marks one descriptor and decides CANCELLED where nothing is decided (R219, R221); one that has not started is at its
end. STREAM_OPEN and STREAM_CLOSE are not cut (R321). `held`: the entry waits for the end of a hold (R224); `g` is the cancel's
release group. -/
def State.markCancel (held : Bool) (g : Nat) (s : State) (r : DRef) : State :=
  s.updDesc r fun d =>
    if d.phase == .done then d
    else if d.started && (d.opcode == 0x0401 || d.opcode == 0x0402) then d
    else
      let x := { (d.decide' stCancelled 0) with cancel := true, heldCancel := d.heldCancel || held,
                                                groups := d.groups ++ [g] }
      if d.started then x else { x with phase := .ended }

/-- What a cancel does at once to a descriptor it has marked (R221). -/
def State.actCancel (s : State) (r : DRef) : State :=
  match s.desc r with
  | none => s
  | some d =>
    if !d.started then (s.unreached r).complete r
    else if d.phase != .running then s
    else if d.isWait then (s.updDesc r fun x => x.finish stCancelled 0).complete r
    else if d.opcode = 0x0400 then (s.updDesc r fun x => x.decide' stCancelled 0).abandon r
    else if d.coll.isSome then s.collSettle r
    else if isSliced d.opcode && d.slice.isNone then s.settleSliced r
    else s

/-- Cancel descriptors: all are marked before any completes, so that none in the scope fails by another (R221). -/
def State.cancelAll (s : State) (held : Bool) (g : Nat) (l : List DRef) : State :=
  foldS State.actCancel (foldS (State.markCancel held g) s l) l

/-- A hold goes on, so that a cancel narrower than PARTITION leaves its entries to the hold's end (R224). -/
def Part.holding (pt : Part) : Bool := pt.mirror.hold && pt.mirror.ending == 0

/-- Fetched, uncompleted descriptors of a ring, from number `from'` on, in ring order. -/
def Part.openDescs (pt : Part) (p ring : Nat) (from' : Option Nat) : List DRef :=
  (pt.descs.filter fun d => d.ring == ring && d.phase != .done && (match from' with
    | some n => numLe n d.num
    | none => true)).map fun d => d.ref p

/-- Published descriptors that are not fetched fall under the cancel too; a poisoned ring fetches again (R221, R534). -/
def SubRing.cancelRest (q : SubRing) (g : Nat) (clear : Bool) : SubRing :=
  { q with
    cancels := if q.fetched = q.produced then q.cancels else q.cancels ++ [(g, q.produced.toNat)]
    poisoned := q.poisoned && !clear }

/-- Cancel a whole ring. -/
def State.cancelRing (s : State) (p ring : Nat) : State :=
  let (g, t) := s.takeGroup p
  let pt := t.part p
  let s1 := t.setPart p (pt.setSub ring ((pt.subRing ring).cancelRest g true))
  s1.cancelAll pt.holding g (pt.openDescs p ring none)

/-- The oldest uncompleted descriptor of a ring with a tag. -/
def Part.oldestTag (pt : Part) (ring tag : Nat) : Option Desc :=
  pt.descs.find? fun d => d.ring == ring && d.phase != .done && d.tag == tag

/-- Cancel of scope PARTITION: every ring, and the hold, whose entries and the cancel's go out as one group (R220, R224). -/
def State.cancelPart (s : State) (p : Nat) : State :=
  let (g, t) := s.takeGroup p
  let pt := t.part p
  let s1 := t.setPart p (foldS (fun (q : Part) n => q.setSub n ((q.subRing n).cancelRest g true)) pt pt.rings)
  let s2 := if pt.mirror.hold then s1.updPart p fun q => q.letGo 2 g else s1
  let s3 := s2.cancelAll false g (pt.rings.flatMap fun n => pt.openDescs p n none)
  if pt.mirror.hold then (s3.releaseAll p).settleHold p else s3

/-- A CANCEL doorbell (R220). -/
def State.cancelBell (s : State) (p v : Nat) : State :=
  let pt := s.part p
  let ring := fld v 15 8
  if fld v 7 2 ≠ 0 ∨ fld v 31 16 ≠ 0 then s.reject p
  else match v % 4 with
    | 3 => s.cancelPart p
    | 2 => if (pt.subRing ring).enabled then s.cancelRing p ring else s
    | sc => match pt.oldestTag ring (v / 2 ^ 32) with
      | none => s.reject p
      | some d =>
        let (g, t) := s.takeGroup p
        if sc = 0 then t.cancelAll pt.holding g [d.ref p]
        else (t.updPart p fun q => q.setSub ring ((q.subRing ring).cancelRest g false)).cancelAll pt.holding g
          (pt.openDescs p ring (some d.num))

/-- CANCEL_TAG. -/
def execCancelTag (h : Port) (v : W64) (s : State) : Host.Outcome State Fault Refusal :=
  .next (s.bell h fun t p => t.cancelBell p v.toNat)
/-- CANCEL_FROM_TAG. -/
def execCancelFromTag (h : Port) (v : W64) (s : State) : Host.Outcome State Fault Refusal :=
  .next (s.bell h fun t p => t.cancelBell p v.toNat)
/-- CANCEL_RING. -/
def execCancelRing (h : Port) (v : W64) (s : State) : Host.Outcome State Fault Refusal :=
  .next (s.bell h fun t p => t.cancelBell p v.toNat)
/-- CANCEL_PARTITION. -/
def execCancelPartition (h : Port) (v : W64) (s : State) : Host.Outcome State Fault Refusal :=
  .next (s.bell h fun t p => t.cancelBell p v.toNat)

/-- DOORBELL_RESERVED_SLOT: a write to a reserved slot, or one that is no single aligned 64-bit write (R201). -/
def execDoorbellReservedSlot (h : Port) (offset : Nat) (whole : Bool) (s : State) : Host.Outcome State Fault Refusal :=
  .next (s.bell h fun t p => if !whole || offset % 8 ≠ 0 || offset ≥ 0xC18 then t.reject p else t)

/-! ## The status mirror (R202, R203) -/

/-- A ring holds a FLAG wait in flight, which it is from its fetch until its entry is written (R202, R204). -/
def Part.ringWaits (pt : Part) (n : Nat) : Bool :=
  (pt.descs.any fun d => d.ring == n && d.isWait) || (pt.comRing (pt.subRing n).cq).waiting.any fun e => e.ring == n && e.wait

/-- The status word of a submission ring. -/
def Part.ringStatus (pt : Part) (n : Nat) : Nat :=
  let q := pt.subRing n
  let c := pt.comRing q.cq
  let b (x : Bool) (k : Nat) : Nat := if x then 2 ^ k else 0
  let cancelling := !q.cancels.isEmpty || (pt.descs.any fun d => d.ring == n && d.cancel) ||
    c.waiting.any fun e => e.ring == n && e.cancel
  q.fetched.toNat + pt.inFlight n * 2 ^ 32 + b q.enabled 48 + b (q.enabled && pt.mirror.hold) 49 +
    b (q.stopped || q.poisoned) 50 + b cancelling 51 +
    b (pt.ringWaits n) 52 + b (q.enabled && c.enabled && !c.room) 53

/-- Rings that hold waits. -/
def Part.waitRings (pt : Part) : Nat :=
  ((List.range 256).filter pt.ringWaits).length

/-- The bytes of a partition's status mirror page (R202). -/
def State.mirrorPage (s : State) (p : Nat) : List Byte :=
  let pt := s.part p
  let m := pt.mirror
  let b (x : Bool) (k : Nat) : Nat := if x then 2 ^ k else 0
  let lock := match s.tick.lock with | .unlocked => 0 | .locked => 1 | .holdover => 2
  leBytes 8 s.tick.count ++ leBytes 8 (lock + b s.tick.resync 2 + s.tick.period % 65536 * 65536) ++
    leBytes 8 m.overrunTicks.toNat ++ leBytes 8 (m.doorbellReject.toNat + m.reloadReject.toNat * 2 ^ 32) ++
    leBytes 8 (b m.hold 0 + b (decide (64 < pt.waitRings)) 1 + m.waitCycles.toNat * 2 ^ 32) ++ leBytes 8 m.trapSeq ++
    List.replicate 16 0 ++ padTo 64 m.trapRecord ++ padTo 0x780 m.snapshot ++
    (List.range 256).flatMap fun n => leBytes 8 (pt.ringStatus n)

end Sys2Proof.Machine
end

