-- ==== Sys2Proof/Machine/Hbm.lean ====
section
/-!
DEFINITION. Stacked memory: errors and lanes, refresh and shutdown, training and scrub, the die links, and the package
halt (R265 to R290, R494, R502, R530, R535, R536).
-/

namespace Sys2Proof.Machine

/-! ## Package halt (R536) -/

/-- The logical devices of an attachment that is up report an Uncorrectable Internal Error, once. -/
def State.reportAer (s : State) (att : Nat) : State :=
  let a := s.att att
  if !a.up || a.aerSent then s
  else
    let lds := s.parts.filter fun (e : Nat × Part) => e.2.ent.ready && e.2.ent.attach == att
    foldS (fun (t : State) (e : Nat × Part) => t.emit (.aer att e.2.ent.ldId)) (s.setAtt att { a with aerSent := true }) lds

/-- A fatal event stops the package: engines, tick, governor and MACs. -/
def State.packageHalt (s : State) : State :=
  if s.halted then s
  else foldS State.reportAer
    { s with
      halted := true
      tick := { s.tick with running := false } } (List.range 4)

/-! ## Patrol scrub (R284) -/

/-- PATROL_SCRUB of the sector at an address (R284). -/
def execPatrolScrub (addr : Nat) (ecc : Ecc) (s : State) : Host.Outcome State Fault Refusal :=
  .next (if s.halted || !s.powered || !s.memc.trained || !s.memc.scrubEn then s else s.readSector addr ecc 3 0)

/-! ## Lanes at a boundary (R285) -/

/-- Spare data lanes of a channel that are neither used nor being taken. -/
def State.sparesLeft (s : State) (c : Nat) : Nat :=
  2 - tget 0 s.memc.spares c - (s.memc.repairing.filter fun (e : Nat × Nat) => e.2 == c).length

/-- A lane in erasure decoding moves to a spare, or its channel waits for retirement. A lane of each pseudo-channel may move at one
boundary. -/
def State.repairLane (s : State) (k : Nat) : State :=
  let c := k / 68
  if (tlook s.memc.repairing k).isSome then s
  else if s.sparesLeft c > 0 then { s with memc := { s.memc with repairing := tput s.memc.repairing k c } }
  else s.retirePending (c / 32) (c % 32)

/-- The lanes at a boundary: repairs of erased lanes begin, and the tick's counts start again. -/
def State.laneBoundary (s : State) : State :=
  let erased := (s.memc.lanes.filter fun (e : Nat × LaneSt) => e.2.erased).map (·.1)
  let s1 := foldS State.repairLane s erased
  { s1 with memc := { s1.memc with
      lanes := (s1.memc.lanes.map fun (e : Nat × LaneSt) => (e.1, { e.2 with count := 0 })).filter fun (e : Nat × LaneSt) =>
        decide (e.2 ≠ LaneSt.dflt) } }

/-- A suspect lane of the pseudo-channel of `k` that is not erased begins erasure decoding once no other lane is. -/
def State.nextErasure (s : State) (k : Nat) : State :=
  match s.memc.lanes.find? fun (e : Nat × LaneSt) => e.2.suspect && e.1 / 34 == k / 34 with
  | some (j, _) => if s.otherErased j then s else s.updLane j fun (l : LaneSt) => { l with erased := true }
  | none => s

/-- A lane has moved to a spare of its channel. -/
def State.laneMoved (s : State) (st ch k : Nat) : State :=
  let c := st * 32 + ch
  let s1 := { s with memc := { s.memc with
    repairing := tdel s.memc.repairing k
    lanes := tdel s.memc.lanes k
    spares := tset 0 s.memc.spares c (tget 0 s.memc.spares c + 1) } }
  (s1.updStack st fun (x : StackSt) => { x with spared := setBit x.spared ch }).nextErasure k

/-- LANE_REPAIR_END of a channel: the lanes that were moving have moved. -/
def State.repairEnd (s : State) (st ch : Nat) : State :=
  foldS (fun (t : State) (e : Nat × Nat) => t.laneMoved st ch e.1) s
    (s.memc.repairing.filter fun (e : Nat × Nat) => e.2 == st * 32 + ch)

/-- LANE_REPAIR_END. -/
def execLaneRepairEnd (stack ch : Nat) (s : State) : Host.Outcome State Fault Refusal :=
  .next (if s.halted then s else s.repairEnd stack ch)

/-! ## Refresh and shutdown (R286 to R288) -/

/-- The code of a temperature. -/
def refreshCode (t : Nat) : Nat := if t < 85 then 0 else if t < 95 then 1 else if t ≤ 105 then 2 else 3

/-- The code after a boundary: it falls past each threshold that every reading was 2 °C below. -/
def refreshFall (code hottest : Nat) : Nat :=
  if code = 2 ∧ hottest + 2 ≤ 95 then (if hottest + 2 ≤ 85 then 0 else 1)
  else if code = 1 ∧ hottest + 2 ≤ 85 then 0
  else code

/-- The refresh codes at a boundary. -/
def State.refreshBoundary (s : State) : State :=
  { s with memc := { s.memc with
      stackTab := s.memc.stackTab.filterMap fun (e : Nat × StackSt) =>
        let x : StackSt := e.2
        let v : StackSt := if x.down then x else
          { x with
            refresh := refreshFall x.refresh (if x.maxTick = 0 then x.temp else x.maxTick - 1)
            maxTick := 0 }
        if v = StackSt.dflt then none else some (e.1, v) } }

/-- Stop all access to a stack: a fatal event (R288). -/
def State.shutStack (s : State) (st temp : Nat) : State :=
  let s1 := s.updStack st fun (x : StackSt) => { x with down := true, refresh := 3 }
  let s2 := { s1 with
    memc := { s1.memc with repairing := s1.memc.repairing.filter fun (e : Nat × Nat) => e.2 / 32 != st }
    pins := { s1.pins with thermtrip := true } }
  (s2.record srcMemory 0x0203 sevFatal none (st / 5) (leBytes 2 (st + temp * 256))).packageHalt

/-- STACK_TEMP_SAMPLE of a stack (R286, R287, R493). -/
def State.stackTemp (s : State) (st temp : Nat) : State :=
  let s1 := s.updStack st fun (x : StackSt) =>
    { x with
      temp := temp
      maxTick := max x.maxTick (temp + 1)
      refresh := if x.down then 3 else max x.refresh (min 2 (refreshCode temp)) }
  let s2 := { s1 with pwr := { s1.pwr with
    tsTick := max s1.pwr.tsTick temp
    sensors := tset 0 s1.pwr.sensors (0x100 + st) temp } }
  if 105 < temp ∧ (s.stack st).down = false then s2.shutStack st temp else s2

/-- STACK_TEMP_SAMPLE: nothing samples in DORMANT and OFF, whose controllers are unpowered (R477). -/
def execStackTempSample (stack temp : Nat) (s : State) : Host.Outcome State Fault Refusal :=
  .next (if s.pwr.state ≠ 0 then s else s.stackTemp stack temp)

/-- DIE_SENSOR_SAMPLE (R494, R500): a diode at or above TJ_CRIT trips the package. In a halted package one that newly reaches it is a
FATAL event that the frozen recorder refuses (R503, R523). -/
def State.dieSensor (s : State) (diode temp4 : Nat) : State :=
  let s1 := { s with pwr := { s.pwr with
    tjTick := max s.pwr.tjTick temp4
    sensors := tset 0 s.pwr.sensors diode temp4 } }
  if 4 * s.pwr.tjCrit ≤ temp4 ∧ (s.halted = false ∨ tget 0 s.pwr.sensors diode < 4 * s.pwr.tjCrit) then
    ({ s1 with pins := { s1.pins with thermtrip := true } }.record srcPower 0x0602 sevFatal none (diode / 64)
      (leBytes 4 (diode % 65536 + temp4 % 65536 * 65536))).packageHalt
  else s1

/-- DIE_SENSOR_SAMPLE; the voltage monitors and rail currents, sampled at the same rate, are the identifiers from 0x200 on (R500). -/
def execDieSensorSample (diode temp4 : Nat) (s : State) : Host.Outcome State Fault Refusal :=
  .next (if s.pwr.state ≠ 0 then s
    else if 0x200 ≤ diode then { s with pwr := { s.pwr with sensors := tset 0 s.pwr.sensors diode temp4 } }
    else s.dieSensor diode temp4)

/-! ## Die links (R12, R401, R502, R536, R542) -/

/-- The lower die of a link, in the order 0–1, 0–2, 1–3, 2–3. -/
def linkDie (l : Nat) : Nat := if l = 2 then 1 else if l = 3 then 2 else 0

def State.dieLink (s : State) (l : Nat) : DieLink := tget DieLink.dflt s.links l
def State.updLink (s : State) (l : Nat) (f : DieLink → DieLink) : State :=
  { s with links := tset DieLink.dflt s.links l (f (s.dieLink l)) }

/-- DIE_LINK_FAILURE: a fatal event; in a halted package its record is refused (R503). -/
def execDieLinkFailure (link : Nat) (s : State) : Host.Outcome State Fault Refusal :=
  .next (if s.pwr.state ≠ 0 then s
    else ((s.updLink link fun (l : DieLink) => { l with trained := false }).record srcDieLink 0x0302 sevFatal none
      (linkDie link) (leBytes 1 link)).packageHalt)

/-- DIE_LINK_RETRAIN: counted and recorded. -/
def execDieLinkRetrain (link : Nat) (degraded : Bool) (s : State) : Host.Outcome State Fault Refusal :=
  .next (if s.halted then s
    else (s.updLink link fun (l : DieLink) =>
      { l with
        trained := true
        degraded := degraded
        retrains := min 255 (l.retrains + 1) }).record srcDieLink 0x0301 sevWarn none (linkDie link) (leBytes 1 link))

/-- Start-up steps 2 and 3 follow one another once their work is done (R401). No MAC is up before the end of step 3: where
the 5 s of step 4 are over by then, start-up stops. -/
def State.settleStart (s : State) : State :=
  let s1 := if s.fab.step = 1 ∧ s.memc.trained then { s with fab := { s.fab with step := 2 } } else s
  if s1.fab.step = 2 ∧ (List.range 4).all fun l => (s1.dieLink l).trained then
    { s1 with fab := { s1.fab with
        step := 3
        stopped := s1.fab.stopped || s1.fab.linkLate } }
  else s1

/-- DIE_LINK_TRAINING_COMPLETE: step 3 is complete if every link trained; otherwise start-up stops. -/
def execDieLinkTrainingComplete (trained degraded : List Nat) (s : State) : Host.Outcome State Fault Refusal :=
  .next (if s.halted then s
    else (foldS (fun (t : State) l => t.updLink l fun (x : DieLink) =>
      { x with
        trained := trained.contains l
        degraded := trained.contains l && degraded.contains l }) s (List.range 4)).settleStart)

/-! ## Training (R276 to R279) -/

/-- Training retires a channel. -/
def State.retires (s : State) (faults : List ChanFault) (st ch : Nat) : Bool :=
  bitOf (tget 0 s.memc.retireReq st) ch ||
    faults.any fun (f : ChanFault) => f.stack == st && f.ch == ch && (decide (2 < f.dataLanes ∨ 1 < f.caLanes) || f.other)

/-- The channels of the package in the order of the key ch × 20 + s (R270). -/
def allChannels : List (Nat × Nat) := (List.range 32).flatMap fun ch => (List.range 20).map fun st => (st, ch)

/-- The lanes a surviving channel has replaced. -/
def State.spareFaults (s : State) (faults : List ChanFault) (healthy : List (Nat × Nat)) : State :=
  foldS (fun (t : State) (f : ChanFault) =>
    if healthy.contains (f.stack, f.ch) && decide (0 < f.dataLanes + f.caLanes) then
      { (t.updStack f.stack fun (x : StackSt) => { x with spared := setBit x.spared f.ch }) with
        memc := { (t.updStack f.stack fun (x : StackSt) => { x with spared := setBit x.spared f.ch }).memc with
          spares := tset 0 t.memc.spares (f.stack * 32 + f.ch) f.dataLanes } }
    else t) s faults

/-- TRAINING_COMPLETE: lanes spared, channels retired and recorded, the map built, memory zeroed; FAILED below 11
channels. -/
def State.trainEnd (s : State) (faults : List ChanFault) : State :=
  if !s.memc.training then s
  else
    let healthy := allChannels.filter fun c => !s.retires faults c.1 c.2
    let ok := decide (11 ≤ healthy.length)
    let s1 := foldS (fun (t : State) (c : Nat × Nat) =>
      if healthy.contains c then t
      else t.record srcMemory 0x0201 sevWarn none (c.1 / 5) (leBytes 2 (c.1 + c.2 * 256))) s allChannels
    let s2 := { s1 with
      mem := []
      poison := []
      memc := { s1.memc with
        training := false
        trained := ok
        failed := !ok
        healthy := healthy
        lanes := []
        spares := []
        repairing := [] } }
    (s2.spareFaults faults healthy).settleStart

/-- RETIRED of a stack: the channels training left out (R289). -/
def State.retiredMask (s : State) (st : Nat) : Nat :=
  if s.memc.trained || s.memc.failed then maskOf ((List.range 32).filter fun ch => !s.memc.healthy.contains (st, ch)) else 0

/-- SUSPECT of a stack: the channels with a suspect lane. -/
def State.suspectMask (s : State) (st : Nat) : Nat := maskOf ((List.range 32).filter fun ch => s.channelSuspect st ch)

end Sys2Proof.Machine
end

