-- ==== Sys2Proof/Machine/TickStep.lean ====
section
/-!
DEFINITION. The tick: the steps of a boundary, snapshots, lending, drowse, the governor, period stages and epochs, and the
wait-cycle report (R23 to R40, R72, R210 to R217, R225 to R227, R438 to R442, R480, R481, R493).
-/

namespace Sys2Proof.Machine

/-- The partitions whose boundary steps run. -/
def State.livePartitions (s : State) : List Nat :=
  (s.parts.filter fun (e : Nat × Part) => e.2.ent.ready).map (·.1)

/-! ## Time reaches the boundary -/

/-- A running slice's time on cluster `c` up to the boundary `b` is charged. What starved of it nothing measures before the
slice ends: free (log entry 54; R439). -/
def State.chargeCluster (s : State) (p b : Nat) (sl : Slice) (c : Nat) : State :=
  let (v, t) := s.freeBelow (b - sl.charged + 1)
  t.updPart p fun q => q.chargeSlice s.pwr c (b - sl.charged) v s.pwr.fMhz

/-- A descriptor's running slice is charged up to the boundary and runs on (R439). -/
def State.chargeRunning (s : State) (b : Nat) (r : DRef) : State :=
  match (s.desc r).bind (·.slice) with
  | none => s
  | some sl => (foldS (fun (t : State) c => t.chargeCluster r.part b sl c) s sl.clusters).updDesc r fun d =>
      { d with slice := some { sl with charged := b } }

/-- Device time reaches the end of the tick. -/
def State.reachBoundary (s : State) : State :=
  let b := s.nextBoundary
  let s1 := s.advance b
  foldS (fun (t : State) r => t.chargeRunning b r) s1
    (s1.parts.flatMap fun (e : Nat × Part) => e.2.descs.map fun (d : Desc) => d.ref e.1)

/-! ## The tick that opens (R23, R27, R31) -/

/-- Number of the next tick. -/
def State.nextNum (s : State) : Nat := match s.tick.pendingResync with
  | some r => r.num
  | none => s.tick.count + 1

/-- Tick n+1 opens at its boundary (R23): its number, start and period; a stage whose tick is reached is spent (R27, R31). -/
def State.openTick (s : State) : State :=
  let n := s.nextNum
  let b := s.nextBoundary
  let (p, st) := match s.tick.stage with
    | some (x, a) => if a ≤ n then (x, none) else (s.nextPeriod, some (x, a))
    | none => (s.nextPeriod, none)
  { s with tick := { s.tick with
      count := n
      start := b
      period := p
      stage := st
      resync := s.tick.pendingResync.isSome
      epoch := match s.tick.pendingResync with | some r => r.epoch | none => s.tick.epoch
      pendingResync := none } }

/-! ## Step 1: the snapshot and the sentry counts (R33, R72, R441, R442) -/

/-- A slice issued in this tick or before is still running (R210). -/
def Part.overruns (pt : Part) : Bool := pt.descs.any fun (d : Desc) => d.slice.isSome

/-- The thirteen times of one cluster in µs; BUSY takes the remainder. -/
def Part.clusterTimes (pt : Part) (c len : Nat) : List Nat :=
  let rest := (List.range 12).map fun k => tget 0 pt.idle (c * 16 + (k + 1)) / 1000
  (len - rest.foldl (· + ·) 0) :: rest

/-- Bytes 0x080 to 0x0DF of the mirror for the tick that ends. -/
def Part.snapBytes (pt : Part) (n len : Nat) (overrun : Bool) : List Byte :=
  let cl := pt.clusterList
  let times := (List.range 13).map fun k => cl.foldl (fun t c => t + (pt.clusterTimes c len).getD k 0) 0
  leBytes 8 n ++ leBytes 8 (len % 65536 + cl.length * 65536 + (if overrun then 2 ^ 23 else 0)) ++
    times.flatMap (leBytes 4) ++ leBytes 4 0 ++ leBytes 8 (pt.chunksBegun + pt.chunksReceived * 2 ^ 32) ++
    leBytes 8 pt.use.quota ++ leBytes 8 (pt.integrity.toNat + pt.late.toNat * 2 ^ 32)

/-- The 4 KiB history entry of the tick. -/
def Part.historyBytes (pt : Part) (len : Nat) (snap : List Byte) : List Byte :=
  padTo 0x100 snap ++ padTo (4096 - 0x100) ((List.range 80).flatMap fun c =>
    if bitOf pt.ent.clusters c then padTo 32 ((pt.clusterTimes c len).flatMap (leBytes 2)) else List.replicate 32 0)

/-- Freeze one partition's snapshot; its accounts start again. -/
def Part.freezeSnap (pt : Part) (n len : Nat) (overrun : Bool) : Part :=
  let snap := pt.snapBytes n len overrun
  { pt with
    mirror := { pt.mirror with frozenSnap := snap, history := pt.historyBytes len snap }
    idle := []
    use := { pt.use with snapBase := pt.page.snapBase, snapLog2 := pt.page.snapLog2 } }

/-- Add the tick's counts of one sentry identifier to its entry (R71, R72). -/
def State.addSentryEntry (s : State) (p n : Nat) (e : Nat × SentryAcc) : State :=
  let pt := s.part p
  let a := pt.use.sentryBase + 32 * e.1
  if !s.inRange pt a 32 || s.isPoison a then s
  else
    let up (o w x : Nat) : List Byte := leBytes w (s.rdN (a + o) w + x)
    s.wrBytes a (leBytes 8 n ++ up 8 8 e.2.elems ++ up 0x10 8 e.2.clipped ++ up 0x18 4 e.2.outliers ++ up 0x1C 4 e.2.nonfinite)

/-- A poisoned line loses the tick's counts of its entries, and is recorded once: one that was poisoned before the boundary's reads
(state `old`) here, one they poison where that is found. -/
def State.lostSentryLines (s : State) (p : Nat) (old : State) : State :=
  let pt := s.part p
  let lines := ((pt.sentry.map fun (e : Nat × SentryAcc) => (pt.use.sentryBase + 32 * e.1) / 64 * 64).filter fun a =>
    s.inRange pt a 64 && old.isPoison a).eraseDups
  foldS (fun (t : State) a => (t.exception p (t.memErrorBytes 0 t.tickNo a 4 0) false).1) s lines

/-- The sentry counts of one partition: the ended tick's counts are added at the base in use in that tick, and the base
written since is taken into use after them. R72 says only that a new base is taken into use at the next boundary, not on
which side of step 1's counts (DESIGN CHOICE, log entry 52). -/
def State.addSentries (s : State) (p n : Nat) (old : State) : State :=
  let s1 := foldS (fun (t : State) e => t.addSentryEntry p n e) (s.lostSentryLines p old) (s.part p).sentry
  s1.updPart p fun (q : Part) => { q with
    sentry := []
    use := { q.use with sentryBase := q.page.sentryBase } }

/-- Step 1, for tick `n` that began at `start`; `old` is the state before the boundary's reads. -/
def State.stepFreeze (s : State) (n start : Nat) (old : State) : State :=
  let len := (s.now - start) / 1000
  let overrun := s.parts.any fun (e : Nat × Part) => e.2.overruns
  let live := s.livePartitions
  let s1 := { s with
    parts := tmap (fun p (q : Part) => if live.contains p then q.freezeSnap n len overrun else q) s.parts
    tick := { s.tick with frozen := some n } }
  foldS (fun (t : State) p => t.addSentries p n old) s1 live

/-- MEMORY_UNCORRECTABLE decisions of the tick that ends keep its number for their records (R530). -/
def State.keepFinds (s : State) : State :=
  let keep (d : Desc) : Desc :=
    if d.status == some stMemory && d.memTick.isNone then { d with memTick := some s.tickNo } else d
  { s with parts := tmap (fun _ (q : Part) => { q with descs := q.descs.map keep }) s.parts }

/-! ## Step 2: overruns (R210) -/

/-- The mark of the tick on every descriptor with a running slice, and the counts where the tick is no RESYNC tick (R31). -/
def State.stepOverrun (s : State) (counted : Bool) : State :=
  let any := s.parts.any fun (e : Nat × Part) => e.2.overruns
  { s with
    tick := if any && counted then { s.tick with overruns := s.tick.overruns + 1 } else s.tick
    parts := tmap (fun _ (q : Part) =>
      if q.overruns then
        { q with
          descs := q.descs.map fun (d : Desc) => if d.slice.isSome then { d with overruns := d.overruns + 1 } else d
          mirror := if counted then { q.mirror with overrunTicks := q.mirror.overrunTicks + 1 } else q.mirror }
      else q) s.parts }

/-! ## Step 3: the governor (R493, R494) -/

/-- The larger of a table's values with keys in [lo, hi). -/
def maxIn (l : List (Nat × Nat)) (lo hi : Nat) : Nat :=
  l.foldl (fun m (e : Nat × Nat) => if lo ≤ e.1 ∧ e.1 < hi then max m e.2 else m) 0

/-- The monitor at a rail's VSENSE lands (R567): of VDDQ, which is sensed at every stack, the rail's first stack (DESIGN CHOICE, log
entry 7). -/
def railMonitor (r : Nat) : Nat :=
  if r < 8 then 2 * r else if r < 12 then 40 + (r - 8) else if r < 16 then 36 + (r - 12) else if r < 20 then 16 + 5 * (r - 16) else 44 + (r - 20)

/-- The package power of one sample in steps of 0.1 mW: the sum over the rails of current times voltage (R567). -/
def railPower (x : RailSample) : Nat :=
  foldS (fun n r => n + x.amps.getD r 0 * x.volts.getD (railMonitor r) 0) 0 (List.range 24)

/-- P: the mean over a tick's samples, in steps of 0.1 mW (R493). -/
def meanPower (l : List RailSample) : Nat := (l.foldl (fun n (x : RailSample) => n + railPower x) 0) / max 1 l.length

/-- The latest of a tick's samples is what GetSensorReading returns until the next (R500). -/
def noteRails (t : List (Nat × Nat)) (l : List RailSample) : List (Nat × Nat) := match l.getLast? with
  | none => t
  | some x =>
    foldS (fun u r => tset 0 u (0x300 + r) (x.amps.getD r 0)) (foldS (fun u k => tset 0 u (0x200 + k) (x.volts.getD k 0)) t (List.range 48))
      (List.range 24)

/-- The procedure of R493: clock and reason of the next tick, from P in steps of 0.1 mW, Tj in quarter degrees, Ts in degrees. -/
def PwrSt.govern (g : PwrSt) (p tj4 ts : Nat) : Nat × Nat :=
  let f := g.fMhz
  let hot := decide (4 * g.tjThrottle ≤ tj4 ∨ g.stackThrottle ≤ ts)
  let cool := decide (tj4 + 12 ≤ 4 * g.tjThrottle ∧ ts + 3 ≤ g.stackThrottle)
  let w := g.limit * 10000
  let fp := if w < p then f * w / p / 50 * 50 else if 100 * p ≤ 97 * w then f + 50 else f
  let ft := if hot then f - 100 else if cool then f + 50 else f
  let f1 := max 800 (min 1800 (max (min (min fp ft) g.fmax) g.fmin))
  let r := if f1 = 1800 then 0 else if hot || (g.reason == 2 && !cool) then 2 else 1
  (f1, r)

/-- Step 3. -/
def State.stepGovern (s : State) (l : List RailSample) : State :=
  let g := s.pwr
  let p := meanPower l
  let (f, r) := g.govern p g.tjTick g.tsTick
  { s with pwr := { g with
      fMhz := f
      reason := r
      pW := p / 10000
      sensors := noteRails g.sensors l
      tj := g.tjTick / 4
      ts := g.tsTick
      tjTick := maxIn g.sensors 0 0x100
      tsTick := maxIn g.sensors 0x100 0x114 } }

/-! ## Step 5: drowse and lending (R213 to R217, R480, R481) -/

/-- An admitted descriptor whose set includes the cluster has units left to issue. -/
def Part.hasWorkFor (pt : Part) (c : Nat) : Bool :=
  pt.descs.any fun (d : Desc) => (d.phase == .admitted || d.phase == .running) && isSliced d.opcode && d.status.isNone &&
    bitOf d.clusterMask c && decide (d.unitsOpen > 0)

/-- A STATE_DUMP of the partition is running. -/
def Part.dumpRuns (pt : Part) : Bool := pt.descs.any fun (d : Desc) => d.opcode == 3 && d.active

/-- What R214 asks of a cluster beside its bit and its residency records. -/
def Part.restful (pt : Part) (c : Nat) : Bool := (pt.sliceOn c).isNone && !pt.hasWorkFor c && !pt.dumpRuns

/-- Drowse of one partition's clusters: requests are met, withdrawn requests wake (R480, R481). -/
def State.stepDrowse (s : State) (p : Nat) : State :=
  let pt := s.part p
  let b := s.now
  let enter := pt.clusterList.filter fun c => bitOf pt.page.drowse c && !s.pwr.drowsed.contains c && pt.restful c
  let leave := pt.clusterList.filter fun c => !bitOf pt.page.drowse c && s.pwr.drowsed.contains c
  { s with pwr := { s.pwr with
      drowsed := foldS sinsert (s.pwr.drowsed.filter fun c => !leave.contains c) enter
      waking := foldS (fun l c => tput l c (b + 20000)) s.pwr.waking leave } }

/-- A cluster is lendable for the next tick (R214, R480). -/
def State.lendable (s : State) (pt : Part) (c : Nat) : Bool :=
  bitOf pt.use.lendMask c && bitOf pt.ent.clusters c && pt.restful c && (pt.lentTo c).isNone &&
  !s.res.any (fun (e : Nat × Resident) => e.1 / 32 == c) && !bitOf pt.page.drowse c && !s.pwr.drowsed.contains c

/-- A descriptor may borrow (R215). -/
def Part.borrows (pt : Part) (d : Desc) : Bool :=
  (d.phase == .admitted || d.phase == .running) && d.status.isNone && decide (d.unitsLeft > 0) && (pt.subRing d.ring).borrow &&
  mayBorrow d.opcode && !d.fixedPlace && !pt.mirror.hold

/-- A borrower: its descriptor, the units left, its rate as a fraction in units per ns on one cluster, its lag numerator
and the common denominator (R216). -/
structure Borrower where
  ref : DRef
  desc : Desc
  num : Nat
  den : Nat
  lag : Int
  base : Nat
deriving DecidableEq, Repr

/-- Estimate one borrower: remaining ticks on its own set, less the ticks left in its budget. -/
def State.estimate (s : State) (p : Nat) (d : Desc) : Borrower × State :=
  let nc := max 1 d.clusters.length
  let (rate, s1) := s.baseRate p d nc
  let (num, den) := rate.scaled 1 s.pwr.fMhz
  let tick := s.tick.period * 1000
  let b := num * nc * tick
  let left : Int := if d.started then (d.budget : Int) - (s.tick.count - d.startTick : Nat) else d.budget
  (⟨d.ref p, d, num, den, (d.unitsLeft * den : Nat) - (if d.budget = 0 then 0 else left * b), b⟩, s1)

/-- The rank of R216: budgets first, the larger lag, the higher PRIO, the earlier admission. -/
def Part.ranksBefore (pt : Part) (x y : Borrower) : Bool :=
  let bx := decide (x.desc.budget ≠ 0)
  let by' := decide (y.desc.budget ≠ 0)
  let a := x.lag * y.base
  let b := y.lag * x.base
  if bx != by' then bx
  else if a ≠ b then decide (b < a)
  else
    let px := (pt.subRing x.desc.ring).prio
    let py := (pt.subRing y.desc.ring).prio
    if px ≠ py then decide (px > py) else decide (x.desc.order < y.desc.order)

/-- Insert a borrower at its rank. -/
def Part.rankIn (pt : Part) (l : List Borrower) (x : Borrower) : List Borrower :=
  let (a, b) := l.span fun y => pt.ranksBefore y x
  a ++ x :: b

/-- Work of a borrower on `nc` clusters fits the issue time of the next tick (R216). -/
def Borrower.fits (x : Borrower) (nc period : Nat) : Bool :=
  let m := max 128000 (period * 1000)
  decide (x.desc.unitsLeft * x.den * 128 ≤ x.num * nc * (period * 1000 * 128 - 2000 * 128 - m))

/-- Clusters on a die of the borrower's own set first, then the lowest numbers. -/
def Borrower.orderOf (x : Borrower) (free : List Nat) : List Nat :=
  let near (c : Nat) : Bool := x.desc.clusters.any fun k => k / 20 == c / 20
  free.filter near ++ free.filter fun c => !near c

/-- How many clusters a borrower takes of an ordered list. -/
def Borrower.takes (x : Borrower) (period own : Nat) : List Nat → List Nat
  | [] => []
  | c :: l => if x.fits own period then [] else c :: x.takes period (own + 1) l

/-- Give lendable clusters to the ranked borrowers. -/
def giveClusters (period : Nat) : List Borrower → List Nat → List Lent
  | [], _ => []
  | x :: l, free =>
    let mine := x.takes period (max 1 x.desc.clusters.length) (x.orderOf free)
    (mine.map fun c => ⟨c, x.desc.ring, x.desc.num⟩) ++ giveClusters period l (free.filter fun c => !mine.contains c)

/-- The descriptors that may borrow, in the order they are served, each with its estimate. -/
def State.rankBorrowers (s : State) (p : Nat) : List Borrower × State :=
  let pt := s.part p
  foldS (fun (w : List Borrower × State) (d : Desc) =>
    let x := w.2.estimate p d
    (pt.rankIn w.1 x.1, x.2)) ([], s) (pt.descs.filter fun (d : Desc) => pt.borrows d)

/-- Lending of one partition: clusters return, but for those an overrunning slice of their borrower keeps; then lendable
clusters go to borrowers (R213 to R217). -/
def State.stepLend (s : State) (p : Nat) : State :=
  let s1 := s.updPart p fun (q : Part) => { q with
    use := { q.use with lendMask := q.page.lendMask }
    lent := q.lent.filter fun (l : Lent) => match q.sliceOn l.cluster with
      | some (d, _) => d.ring == l.ring && d.num == l.num && !bitOf d.clusterMask l.cluster
      | none => false }
  let pt := s1.part p
  let free := pt.clusterList.filter fun c => s1.lendable pt c
  let x := s1.rankBorrowers p
  x.2.updPart p fun (q : Part) => { q with lent := q.lent ++ giveClusters s.tick.period x.1 free }

/-! ## Steps 6 and 8 -/

/-- Step 6: the quota of the next tick (R416). -/
def Part.stepQuota (pt : Part) : Part :=
  { pt with
    use := { pt.use with quota := pt.page.collQuota }
    chunksBegun := 0
    chunksReceived := 0 }

/-- A replica divergence under HALT stops every enabled ring at the boundary (R468, R188). -/
def Part.stepHalt (pt : Part) : Part :=
  if pt.haltAtBoundary then
    { pt with
      haltAtBoundary := false
      sq := tmap (fun _ (q : SubRing) => if q.enabled then { q with stopEn := true, stopNow := true, stopped := true } else q) pt.sq }
  else pt

/-- No descriptor is held for tick slack. -/
def Part.endSlack (pt : Part) : Part :=
  { pt with descs := pt.descs.map fun (d : Desc) => { d with slack := false } }

/-- Step 8: holds for tick slack end; waits test their conditions (R182, R208). -/
def State.stepIssue (s : State) : State :=
  let s1 := { s with parts := tmap (fun _ (q : Part) => q.endSlack) s.parts }
  foldS State.testWaits s1 s1.livePartitions

/-! ## Publication of a snapshot (R36, R441, R442) -/

/-- The frozen snapshot of one partition goes to its history and its mirror. -/
def State.publishPart (s : State) (n p : Nat) : State :=
  let pt := s.part p
  let a := pt.use.snapBase + 4096 * (n % 2 ^ pt.use.snapLog2)
  let s1 := if pt.use.snapBase ≠ 0 ∧ s.inRange pt a 4096 then s.wrBytes a pt.mirror.history else s
  s1.updMirror p fun m => { m with snapshot := m.frozenSnap }

/-- Publish every frozen snapshot; waits on words of the histories test their conditions (R182). -/
def State.publish (s : State) : State :=
  match s.tick.frozen with
  | none => s
  | some n => foldS (fun (t : State) p => (t.publishPart n p).testWaits p) { s with tick := { s.tick with frozen := none } } s.livePartitions

/-- SNAPSHOT_PUBLISH, 10 µs after the boundary. -/
def execSnapshotPublish (s : State) : Host.Outcome State Fault Refusal :=
  .next (if s.halted || s.tick.frozen.isNone then s else (s.advance (s.tick.start + 10000)).publish)

/-! ## The boundary (R33) -/

/-- Quotas are reset and halts at the boundary taken in every partition. -/
def State.stepHalts (s : State) : State := { s with parts := tmap (fun _ (q : Part) => (q.stepQuota).stepHalt) s.parts }

/-- Steps 1 to 8 for the boundary that device time has reached; TICK_COUNT holds the new tick's number in all of them. -/
def State.boundarySteps (s : State) (x : TickInput) : State :=
  let s0 := s.findAll 4 0 x.found
  let s1 := ((s0.keepFinds.openTick.stepFreeze s.tick.count s.tick.start s).stepOverrun s.tick.pendingResync.isNone).stepGovern x.rails
  let live := s1.livePartitions
  let s2 := foldS State.resolveWaits s1 live
  let s3 := foldS State.stepLend (foldS State.stepDrowse s2 live) live
  let s4 := s3.stepHalts
  let s5 := foldS State.chargeSamples s4 live
  ((s5.laneBoundary).refreshBoundary).stepIssue

/-- TICK_BOUNDARY; the operand is what the rails' sensors showed in the tick that ends, and what reading the sentry tables finds wrong. -/
def execTickBoundary (power : TickInput) (s : State) : Host.Outcome State Fault Refusal :=
  .next (if s.halted || !s.tick.running then s else ((s.publish).reachBoundary).boundarySteps power)

/-! ## Period and epoch (R24, R27, R31, R551) -/

/-- A period of R24. -/
def periodOk (p : Nat) : Bool := decide (50 ≤ p ∧ p ≤ 50000)

/-- A partition has a job bound. -/
def State.jobBound (s : State) : Bool := s.parts.any fun (e : Nat × Part) => e.2.job.isSome

/-- A stage is submitted for tick `a` with the period TICK_STAGE holds. -/
def State.stageAt (s : State) (a : Nat) : State :=
  let p := s.tick.stagePeriod
  { s with tick :=
      if periodOk p && decide (s.nextNum + 1 ≤ a) then { s.tick with stageAt := a, stage := some (p, a) }
      else { s.tick with stageAt := a, stageReject := true } }

/-- TICK_STAGE_AT. -/
def execTickStageAt (value : W64) (s : State) : Host.Outcome State Fault Refusal :=
  .next (if s.setsUp then s.stageAt value.toNat else s)

/-- The RESYNC a commit of an epoch and period at time `t` calls for (R31): the first aligned boundary at least 50 µs after
it. `period` is the next tick's, and it lays out the whole of the new epoch's grid from the epoch on; R23 and R31 do not say
which periods count for the ticks before the commit where the period has changed (DESIGN CHOICE, log entry 51). -/
def resyncAt (epoch period t : Nat) : Resync :=
  let n := ceilDiv (t + 50000 - epoch) (period * 1000)
  ⟨epoch + n * (period * 1000), n, epoch, period⟩

/-- Commit an epoch and a period. -/
def State.commitEpoch (s : State) (epoch period t : Nat) : State :=
  { s with tick := { s.tick with
      epoch := epoch
      pendingResync := some (resyncAt epoch period t) } }

/-- TICK_EPOCH at device time `t`: refused while a job is bound. -/
def State.writeEpoch (s0 : State) (epoch t : Nat) : State :=
  let s := s0.advance t
  if s.jobBound then { s with tick := { s.tick with epochReject := true } }
  else s.commitEpoch epoch s.nextPeriod s.now

/-- TICK_EPOCH. -/
def execTickEpoch (value : W64) (t : Nat) (s : State) : Host.Outcome State Fault Refusal :=
  .next (if s.setsUp then s.writeEpoch value.toNat t else s)

/-! ## Wait cycles (R225 to R227) -/

/-- The rings the wait-for graph tracks: the 64 lowest-numbered of those that hold waits (R226). -/
def Part.trackedRings (pt : Part) : List Nat := ((List.range 256).filter pt.ringWaits).take 64

/-- The FLAG waits in flight whose condition is false, on the rings tracked. A wait is in flight from its fetch (R204,
R225). -/
def State.openWaits (s : State) (p : Nat) : List Desc :=
  let pt := s.part p
  pt.descs.filter fun (d : Desc) => d.isWait && d.status.isNone && !d.waitHolds (s.rdN d.flagAddr 8) &&
    pt.trackedRings.contains d.ring

/-- The setters of a wait: fetched, uncompleted SETs and ADDs on its word. -/
def Part.setters (pt : Part) (w : Desc) : List Desc :=
  pt.descs.filter fun (d : Desc) => d.opcode == 1 && !d.isWait && d.phase != .done && d.flagAddr == w.flagAddr

/-- A descriptor depends on one of the waits, directly or through its ring (R225). -/
def Part.dependsOn (pt : Part) (waits : List Desc) : Nat → Desc → Bool
  | 0, _ => false
  | n + 1, d => d.deps.any fun (e : Dep) => e.status.isNone &&
      ((waits.any fun (w : Desc) => w.ring == d.ring && w.num == e.num) ||
        match pt.descs.find? fun (x : Desc) => x.ring == d.ring && x.num == e.num with
        | some x => pt.dependsOn waits n x
        | none => false)

/-- Drop the waits whose setters do not all depend on waits of the set. -/
def Part.shrinkWaits (pt : Part) (waits : List Desc) : Nat → List Desc
  | 0 => waits
  | n + 1 =>
    let keep := waits.filter fun (w : Desc) =>
      !(pt.setters w).isEmpty && (pt.setters w).all fun (d : Desc) => pt.dependsOn waits (pt.descs.length + 1) d
    if keep.length = waits.length then waits else pt.shrinkWaits keep n

/-- Waits that the setters of a set of waits depend on. -/
def Part.waitsReached (pt : Part) (all from' : List Desc) : List Desc :=
  all.filter fun (w : Desc) => from'.any fun (x : Desc) => (pt.setters x).any fun (d : Desc) =>
    pt.dependsOn [w] (pt.descs.length + 1) d

/-- The waits of `all` reached from a set, by repeated steps. -/
def Part.waitClosure (pt : Part) (all set' : List Desc) : Nat → List Desc
  | 0 => set'
  | n + 1 =>
    let more := (pt.waitsReached all set').filter fun (w : Desc) => !set'.any fun (x : Desc) => x.ring == w.ring && x.num == w.num
    if more.isEmpty then set' else pt.waitClosure all (set' ++ more) n

/-- Key of a reported wait. -/
def Desc.waitKey (d : Desc) : Nat × Nat := (d.ring, d.num)

/-- The waits that no setter outside them can end: what is left once no more can be dropped (R225). -/
def State.stuckWaits (s : State) (p : Nat) : List Desc :=
  (s.part p).shrinkWaits (s.openWaits p) ((s.openWaits p).length + 1)

/-- The first wait cycle of a partition that is not reported: the waits reached from the lowest-numbered ring's wait. Which of the
sets that meet R225 counts as one cycle no rule says: a wait that hangs off a cycle is reported with it, or, where it comes after
the report, not at all (DESIGN CHOICE, log entry 57). -/
def State.waitCycle (s : State) (p : Nat) : List Desc :=
  let pt := s.part p
  let all := s.stuckWaits p
  let cyc (w : Desc) : List Desc := pt.waitClosure all [w] (all.length + 1)
  let fresh := all.filter fun (w : Desc) => !((cyc w).any fun (x : Desc) => pt.reported.contains x.waitKey)
  match firstBy (fun (a b : Desc) => decide (a.ring < b.ring)) fresh with
  | some w => cyc w
  | none => []

/-- The 64 bytes of a wait-cycle record (R227). -/
def State.cycleBytes (s : State) (cyc : List Desc) (w : Desc) : List Byte :=
  leBytes 4 (0x03 + 0x10 * 256 + cyc.length % 128 * 65536) ++ leBytes 4 w.tag ++ leBytes 8 s.tickNo ++
    leBytes 32 (maskOf (cyc.map (·.ring))) ++ leBytes 8 w.flagAddr ++ leBytes 8 (s.rdN w.flagAddr 8)

/-- WAIT_CYCLE_REPORT of a partition: one unbroken cycle is recorded and counted, once while it lasts. -/
def State.reportCycle (s : State) (p : Nat) : State :=
  let pt := s.part p
  -- a reported wait whose cycle has been broken may be reported anew
  let kept := pt.reported.filter fun (e : Nat × Nat) => (s.stuckWaits p).any fun (d : Desc) => d.waitKey == e
  let s0 := s.setPart p { pt with reported := kept }
  let cyc := s0.waitCycle p
  match firstBy (fun (a b : Desc) => decide (a.ring < b.ring)) cyc with
  | none => s0
  | some w =>
    let s1 := (s0.exception p (s0.cycleBytes cyc w) false).1
    s1.updPart p fun (q : Part) => { q with
      reported := q.reported ++ cyc.map Desc.waitKey
      mirror := { q.mirror with waitCycles := q.mirror.waitCycles + 1 } }

/-- WAIT_CYCLE_REPORT. -/
def execWaitCycleReport (part : Nat) (s : State) : Host.Outcome State Fault Refusal :=
  .next (if s.halted then s else s.reportCycle part)

end Sys2Proof.Machine
end

