-- ==== Sys2Proof/Machine/Ptp.lean ====
section
/-!
DEFINITION. The time protocol: best master clock, synchronisation, lock and holdover (R29, R30, R32, R396 to R398).
-/

namespace Sys2Proof.Machine

/-- The time protocol runs from the end of start-up step 5 until a conflict or a halt (R401, R405). -/
def State.ptpOn (s : State) : Bool := s.transportOn && decide (5 ≤ s.fab.step)

/-- The clockIdentity of the package, as a number of eight bytes, the first the most significant (R397). -/
def State.clockIdentity (s : State) : Nat :=
  0x02 * 2 ^ 56 + s.fab.fabric % 256 * 2 ^ 48 + s.fab.pkg % 65536 * 2 ^ 32 + 0xFFFE0000

/-- The default data set (R397). -/
def State.ownSet (s : State) : Announce :=
  { priority1 := s.fab.priority1, clockClass := s.fab.clockClass, accuracy := 0xFE, variance := 0xFFFF,
    priority2 := s.fab.priority2, identity := s.clockIdentity, steps := 0, sender := s.clockIdentity }

/-- The fields the data set comparison weighs in turn: of two grandmasters, or of two paths to one (R396). -/
def Announce.rank (a b : Announce) : List (Nat × Nat) :=
  if a.identity = b.identity then [(a.steps, b.steps), (a.sender, b.sender)]
  else [(a.priority1, b.priority1), (a.clockClass, b.clockClass), (a.accuracy, b.accuracy), (a.variance, b.variance),
    (a.priority2, b.priority2), (a.identity, b.identity)]

/-- The first difference decides; the lower is better. -/
def firstLess : List (Nat × Nat) → Bool
  | [] => false
  | (x, y) :: l => if x < y then true else if y < x then false else firstLess l

/-- Data set `a` is better than `b`. -/
def betterSet (a b : Announce) : Bool := firstLess (Announce.rank a b)

/-- The best data set heard on the usable ports, with its port. -/
def State.bestHeard (s : State) : Option (Nat × Announce) :=
  firstBy (fun (x y : Nat × Announce) => betterSet x.2 y.2)
    (s.ptp.best.filter fun (e : Nat × Announce) => s.usableMacs.contains e.1)

/-- The decision: the SLAVE port, if there is one, and the grandmaster's data set. A package of clockClass below 128 takes
time from nobody. -/
def State.bmca (s : State) : Option Nat × Announce :=
  match s.bestHeard with
  | none => (none, s.ownSet)
  | some (m, a) =>
    if betterSet s.ownSet a then (none, s.ownSet)
    else if decide (1 ≤ s.fab.clockClass ∧ s.fab.clockClass < 128) then (none, a)
    else (some m, a)

/-- Two data sets name different grandmasters. -/
def newMaster (a : Option Announce) (b : Announce) : Bool := match a with
  | some x => decide (x.identity ≠ b.identity)
  | none => true

/-- Take a decision into force; a change of grandmaster is recorded and starts the count of Syncs anew (R502). -/
def State.decideMaster (s : State) : State :=
  let (sl, a) := s.bmca
  let change := newMaster s.ptp.grandmaster a
  let s1 := { s with ptp := { s.ptp with
      slave := sl
      grandmaster := some a
      good := if change then 0 else s.ptp.good } }
  if change then s1.record srcFabric 0x0403 sevInfo none 0 [] else s1

/-- What a MAC does with a PTP frame (R380, R402). -/
def State.ptpVerdict (s : State) (f : PtpFrame) : MacVerdict :=
  let v := s.etherVerdict f.mac f.size ptpEtype f.vid f.fcsOk
  if v = .take ∧ !(s.mac f.mac).heard then .ignore else v

/-- A PTP frame is counted at its MAC; an accepted one of the device's domain takes its effect (R380, R396). -/
def State.ptpFrame (s : State) (f : PtpFrame) (act : State → State) : State :=
  let v := s.ptpVerdict f
  let s1 := s.countVerdict f.mac v
  if v = .take ∧ f.domain = s.fab.domain then act s1 else s1

/-- The package is the grandmaster: its ports are MASTER (R397). -/
def State.isMaster (s : State) : Bool := s.ptpOn && s.ptp.grandmaster == some s.ownSet

/-! ## Lock, step and holdover (R30, R398) -/

/-- A time stamp after the device's time has been stepped from `a` to `b`. -/
def shiftTime (a b x : Nat) : Nat := x + b - a

/-- A running slice in stepped time. -/
def Slice.shift (sl : Slice) (a b : Nat) : Slice := { sl with start := shiftTime a b sl.start, charged := shiftTime a b sl.charged }

def Part.shift (pt : Part) (a b : Nat) : Part :=
  { pt with descs := pt.descs.map fun (d : Desc) => { d with slice := d.slice.map fun (sl : Slice) => sl.shift a b } }

/-- Step device time to `gm`; the current tick ends at an aligned boundary (R31, R398). -/
def State.stepTime (s : State) (gm : Nat) : State :=
  let a := s.now
  let s1 := { s with
    now := gm
    tick := { s.tick with start := shiftTime a gm s.tick.start }
    pwr := { s.pwr with waking := s.pwr.waking.map fun (e : Nat × Nat) => (e.1, shiftTime a gm e.2) }
    parts := tmap (fun _ (q : Part) => q.shift a gm) s.parts }
  s1.commitEpoch s1.tick.epoch s1.nextPeriod gm

/-- Start-up step 7 is complete once the census is and the tick is LOCKED (R401). -/
def State.settleLock (s : State) : State :=
  if s.fab.step = 6 ∧ s.tick.lock = .locked then { s with fab := { s.fab with step := 7 } } else s

/-- The tick becomes LOCKED; time is stepped at the first lock, and while no job is bound (R398). -/
def State.lockTime (s : State) (gm : Nat) : State :=
  let s1 := if !s.ptp.lockedOnce || !s.jobBound then s.stepTime gm else s
  ({ s1 with
    tick := { s1.tick with lock := .locked }
    ptp := { s1.ptp with lockedOnce := true } }).settleLock

/-- A measured offset from the grandmaster (R398). -/
def State.measure (s : State) (offset : Int) (gm : Nat) : State :=
  let n := if offset.natAbs < 100 then s.ptp.good + 1 else 0
  let s1 := { s with ptp := { s.ptp with good := n } }
  if 1000 < offset.natAbs ∧ s.tick.lock = .locked then { s1 with tick := { s1.tick with lock := .holdover } }
  else if 64 ≤ n ∧ s.tick.lock ≠ .locked then s1.lockTime gm
  else s1

/-- A Sync on the SLAVE port: one-step it measures at once, two-step it waits for its Follow_Up. -/
def State.rxSync (s : State) (m t : Nat) (offset : Int) (gm : Nat) (twoStep : Bool) (seq : Nat) : State :=
  if !s.ptpOn || s.ptp.slave != some m then s
  else if twoStep then { s with ptp := { s.ptp with twoStep := tput s.ptp.twoStep m seq } }
  else (s.advance t).measure offset gm

/-- SYNC. -/
def execSync (f : PtpFrame) (t : Nat) (offset : Int) (gm : Nat) (twoStep : Bool) (seq : Nat) (s : State) :
    Host.Outcome State Fault Refusal := .next (s.ptpFrame f fun u => u.rxSync f.mac t offset gm twoStep seq)

/-- A Follow_Up completes the two-step Sync of its sequence number. -/
def State.rxFollowUp (s : State) (m t : Nat) (offset : Int) (gm seq : Nat) : State :=
  if !s.ptpOn || s.ptp.slave != some m || tlook s.ptp.twoStep m != some seq then s
  else (({ s with ptp := { s.ptp with twoStep := tdel s.ptp.twoStep m } }).advance t).measure offset gm

/-- FOLLOW_UP. -/
def execFollowUp (f : PtpFrame) (t : Nat) (offset : Int) (gm seq : Nat) (s : State) : Host.Outcome State Fault Refusal :=
  .next (s.ptpFrame f fun u => u.rxFollowUp f.mac t offset gm seq)

/-! ## Announce (R397, R398) -/

/-- A port keeps the best data set it hears, and the newest of the same sender. The package's own, heard on another of its MACs,
is never taken (R397). -/
def State.rxAnnounce (s : State) (m : Nat) (a : Announce) : State :=
  if !s.ptpOn || !s.usableMacs.contains m || a.identity == s.clockIdentity || a.sender == s.clockIdentity then s
  else
    let keep := match tlook s.ptp.best m with
      | some b => decide (a.sender = b.sender) || betterSet a b
      | none => true
    let s1 := if keep then { s with ptp := { s.ptp with best := tput s.ptp.best m a } } else s
    s1.decideMaster

/-- ANNOUNCE. -/
def execAnnounce (f : PtpFrame) (a : Announce) (s : State) : Host.Outcome State Fault Refusal :=
  .next (s.ptpFrame f fun u => u.rxAnnounce f.mac a)

/-- The announce receipt timeout of a port: what it heard is forgotten; LOCKED falls to HOLDOVER where the SLAVE port timed
out, or is down (R576), and no other port is SLAVE. -/
def State.announceTimeout (s : State) (m : Nat) : State :=
  if !s.ptpOn then s
  else
    let s1 := ({ s with ptp := { s.ptp with best := tdel s.ptp.best m } }).decideMaster
    if s.ptp.slave.isSome ∧ s1.ptp.slave = none ∧ s.tick.lock = .locked then
      { s1 with
        tick := { s1.tick with lock := .holdover }
        ptp := { s1.ptp with good := 0 } }
    else s1

/-- ANNOUNCE_RECEIPT_TIMEOUT. -/
def execAnnounceReceiptTimeout (mac : Nat) (s : State) : Host.Outcome State Fault Refusal := .next (s.announceTimeout mac)

/-! ## What the package sends (R396). The layout of the messages is IEEE 1588's (PRESUMED, log entry 50). -/

/-- Message types of IEEE 1588. -/
def ptpSync : Nat := 0x0
def ptpDelayReq : Nat := 0x1
def ptpDelayResp : Nat := 0x9
def ptpAnnounce : Nat := 0xB

/-- Bytes in network order. -/
def beBytes (n x : Nat) : List Byte := (leBytes n x).reverse

/-- A time in ns as ten bytes: 48 bits of seconds, 32 of nanoseconds. -/
def ptpTime (t : Nat) : List Byte := beBytes 6 (t / 10 ^ 9) ++ beBytes 4 (t % 10 ^ 9)

/-- A four-bit two's complement interval as a byte. -/
def logInterval (x : Nat) : Nat := ofSigned 8 (toSigned 4 x)

/-- The common header of a message: length, domain, the PTP timescale flag of an Announce, source port, sequence number,
interval. Port `m + 1` is MAC `m`'s. -/
def State.ptpHeader (s : State) (m typ len seq interval : Nat) : List Byte :=
  [BitVec.ofNat 8 typ, 0x12] ++ beBytes 2 len ++ [BitVec.ofNat 8 s.fab.domain, 0] ++
    beBytes 2 (if typ = ptpAnnounce then 0x0008 else 0) ++ List.replicate 12 0 ++ beBytes 8 s.clockIdentity ++
    beBytes 2 (m + 1) ++ beBytes 2 seq ++
    [if typ = ptpSync then 0 else if typ = ptpDelayReq then 1 else if typ = ptpDelayResp then 3 else 5, BitVec.ofNat 8 interval]

/-- The group address of PTP messages (R396). -/
def ptpAddr : List Byte := [0x01, 0x1B, 0x19, 0, 0, 0]

/-- Send one message on each of a list of MACs at PTP_PCP. -/
def State.sendPtp (s : State) (ms : List Nat) (typ seq interval : Nat) (body : List Byte) : State :=
  foldS (fun (t : State) m => t.transmit m t.fab.ptpPcp (.frame m (t.etherFrame m t.fab.ptpPcp ptpEtype ptpAddr
    (t.ptpHeader m typ (34 + body.length) seq interval ++ body)))) s ms

/-- The body of an Announce: the default data set (R397). -/
def announceBody (a : Announce) (now : Nat) : List Byte :=
  ptpTime now ++ beBytes 2 37 ++ [0, BitVec.ofNat 8 a.priority1, BitVec.ofNat 8 a.clockClass, BitVec.ofNat 8 a.accuracy] ++
    beBytes 2 a.variance ++ [BitVec.ofNat 8 a.priority2] ++ beBytes 8 a.identity ++ beBytes 2 a.steps ++ [0xA0]

/-- The Sync interval on a grandmaster: a one-step Sync on every port. Its own offset is zero, and the Syncs it sends count
towards its lock. -/
def State.syncTick (s : State) : State :=
  if s.isMaster then
    let s1 := s.sendPtp s.usableMacs ptpSync s.ptp.syncSeq (logInterval s.fab.logSync) (ptpTime s.now)
    ({ s1 with ptp := { s1.ptp with syncSeq := (s1.ptp.syncSeq + 1) % 65536 } }).measure 0 s1.now
  else s

/-- SYNC_INTERVAL. -/
def execSyncInterval (s : State) : Host.Outcome State Fault Refusal := .next s.syncTick

/-- ANNOUNCE_INTERVAL. -/
def execAnnounceInterval (s : State) : Host.Outcome State Fault Refusal :=
  .next (if s.isMaster then
    let s1 := s.sendPtp s.usableMacs ptpAnnounce s.ptp.announceSeq (logInterval s.fab.logAnnounce) (announceBody s.ownSet s.now)
    { s1 with ptp := { s1.ptp with announceSeq := (s1.ptp.announceSeq + 1) % 65536 } }
  else s)

/-- DELAY_REQ_INTERVAL: a Delay_Req on the SLAVE port. -/
def execDelayReqInterval (s : State) : Host.Outcome State Fault Refusal :=
  .next (match s.ptp.slave with
    | some m =>
      if s.ptpOn then
        let s1 := s.sendPtp [m] ptpDelayReq s.ptp.delaySeq 0x7F (ptpTime s.now)
        { s1 with ptp := { s1.ptp with
            delayReq := some s.ptp.delaySeq
            delaySeq := (s.ptp.delaySeq + 1) % 65536 } }
      else s
    | none => s)

/-- A MASTER port answers a Delay_Req with the time of its receipt. -/
def State.rxDelayReq (s : State) (m requester seq rxTime : Nat) : State :=
  if s.isMaster && s.usableMacs.contains m then
    s.sendPtp [m] ptpDelayResp seq (logInterval s.fab.logSync) (ptpTime rxTime ++ beBytes 10 requester)
  else s

/-- DELAY_REQ. -/
def execDelayReq (f : PtpFrame) (requester seq rxTime : Nat) (s : State) : Host.Outcome State Fault Refusal :=
  .next (s.ptpFrame f fun u => u.rxDelayReq f.mac requester seq rxTime)

/-- A Delay_Resp on the SLAVE port: the path delay of the outstanding request. -/
def State.rxDelayResp (s : State) (m seq delay : Nat) : State :=
  if s.ptpOn && s.ptp.slave == some m && s.ptp.delayReq == some seq then
    { s with ptp := { s.ptp with
        delay := delay
        delayReq := none } }
  else s

/-- DELAY_RESP. -/
def execDelayResp (f : PtpFrame) (seq delay : Nat) (s : State) : Host.Outcome State Fault Refusal :=
  .next (s.ptpFrame f fun u => u.rxDelayResp f.mac seq delay)

/-- PTP_IGNORED_MESSAGE: Signaling, Management and the Pdelay messages have no effect beyond the MAC's counters (R396). -/
def execPtpIgnoredMessage (f : PtpFrame) (_typ : Nat) (s : State) : Host.Outcome State Fault Refusal := .next (s.ptpFrame f id)

end Sys2Proof.Machine
end

