-- ==== Sys2Proof/Machine/Fabric.lean ====
section
/-!
DEFINITION. Fabric start-up, hello, census and rank binding; MAC links and priority flow control (R376, R394, R399 to
R407).
-/

namespace Sys2Proof.Machine

/-! ## Links (R376, R394, R399, R401, R572) -/

/-- START (R401): ignored after the first and outside RUN; the split modes take effect. -/
def State.startFabric (s : State) : State :=
  if s.fab.started || !s.powered then s
  else ({ s with fab := { s.fab with
      started := true
      splitUse := s.fab.split } }).settleFabric

/-- START. -/
def execStart (s : State) : Host.Outcome State Fault Refusal := .next (if s.firmware then s.startFabric else s)

/-- FABRIC_LINK_TIMEOUT, 5 s after START: start-up goes on with the MACs that are up, or stops with none. Where step 3 is not
complete yet, it goes on, or stops, once it is. -/
def execFabricLinkTimeout (s : State) : Host.Outcome State Fault Refusal :=
  .next (if !s.fab.started || decide (4 ≤ s.fab.step) || s.fab.stopped || s.halted then s
    else ({ s with fab := { s.fab with linkLate := true } }).settleFabric)

/-- Set one MAC's link state, with its record. What a down MAC had queued is lost; retransmission recovers it. -/
def State.setLink (s : State) (m : Nat) (up : Bool) : State :=
  let q := s.mac m
  if q.up = up then s
  else
    let s1 := s.setMac m { q with up := up, paused := [], txq := [], pfcOn := false }
    s1.record srcFabric 0x0401 (if up then sevInfo else sevWarn) none 0 (leBytes 2 (m + (if up then 256 else 0)))

/-- MAC_LINK_CHANGE of a MAC of an enabled port, after START and once step 3 is complete; the held pads of PD03 ignore their inputs
(R491). -/
def State.macLink (s : State) (m : Nat) (up : Bool) : State :=
  if s.halted || bitOf s.pwr.padHeld 3 || !s.enabledMacs.contains m || !s.fab.started || s.fab.step < 3 || (up && !s.pins.ref156) then s
  else (s.setLink m up).settleFabric

/-- MAC_LINK_CHANGE. -/
def execMacLinkChange (mac : Nat) (up : Bool) (s : State) : Host.Outcome State Fault Refusal := .next (s.macLink mac up)

/-- Send what a MAC kept for a released priority. -/
def State.flushPrio (s : State) (m : Nat) : State :=
  let q := s.mac m
  let go := q.txq.filter fun (e : Nat × Out) => !q.paused.contains e.1
  foldS (fun (t : State) (e : Nat × Out) => t.emit e.2)
    (s.setMac m { q with txq := q.txq.filter fun (e : Nat × Out) => q.paused.contains e.1 }) go

/-- PFC_FRAME: obeyed when PFC_EN is 1 (R394). -/
def State.rxPfc (s : State) (m : Nat) (prio : List Nat) (pause : Bool) : State :=
  if !s.fab.pfcEn || !s.transportOn || !(s.mac m).up then s
  else
    let q := s.mac m
    let s1 := s.setMac m { q with
      pfcReceived := q.pfcReceived + 1
      paused := if pause then foldS sinsert q.paused prio else q.paused.filter fun k => !prio.contains k }
    s1.flushPrio m

/-- PFC_FRAME. -/
def execPfcFrame (mac : Nat) (prio : List Nat) (pause : Bool) (s : State) : Host.Outcome State Fault Refusal :=
  .next (s.rxPfc mac prio pause)

/-- PAUSE: ignored on receipt (R376). -/
def execPause (_mac : Nat) (s : State) : Host.Outcome State Fault Refusal := .next s

/-! ## Hello (R402) -/

/-- HELLO_TIMER: during step 5 every up MAC sends a HELLO with HOPS 0. -/
def execHelloTimer (s : State) : Host.Outcome State Fault Refusal :=
  .next (if s.transportOn && s.fab.step == 4 && !s.fab.stopped then
    foldS (fun (t : State) m => if (t.mac m).up then t.groupFrame m 2 0 [] else t) s (List.range 32)
  else s)

/-- A HELLO from another package joins its MAC. -/
def State.rxHello (s : State) (f : RxFrame) : State :=
  let v := s.macVerdict f
  let s1 := s.countFrame f v
  if v = .take ∧ f.typ = 2 ∧ f.srcPkg ≠ s.fab.pkg then
    (s1.setMac f.mac { s1.mac f.mac with heard := true, isolated := false }).settleFabric
  else s1

/-- HELLO. -/
def execHello (f : RxFrame) (s : State) : Host.Outcome State Fault Refusal := .next (s.rxHello f)

/-- HELLO_WAIT_EXPIRY: a MAC that heard nothing within 500 ms is ISOLATED. -/
def execHelloWaitExpiry (mac : Nat) (s : State) : Host.Outcome State Fault Refusal :=
  .next (if s.transportOn && (s.mac mac).up && !(s.mac mac).heard && decide (4 ≤ s.fab.step) then
    (s.setMac mac { s.mac mac with isolated := true }).settleFabric
  else s)

/-! ## Census (R403 to R406) -/

/-- A record heard from a sender: a new package is added and queued for resending; a known one is brought up to date, and a
queued record heard from two other packages is dropped (R403, R406). -/
def State.takeRecord (s : State) (src hops : Nat) (r : List Byte) : State :=
  let w := leNat (r.take 4)
  let pkg := w % 65536
  let dist := fld w 19 16
  let macs := fld w 25 20
  let nonce := leNat (sliceList r 4 4)
  if pkg = s.fab.pkg then
    if s.fab.nonce = some nonce then s
    else ({ s with fab := { s.fab with
      conflict := true
      stopped := true } }).record srcFabric 0x0402 sevError none 0 []
  else if bitOf (s.reach pkg) 0 then
    let s1 := s.setReach pkg (min (fld (s.reach pkg) 4 1) (dist + 1)) macs nonce
    { s1 with fab := { s1.fab with
        queue := (s1.fab.queue.map fun (q : CensusQ) =>
          if q.pkg == pkg then { q with heard := sinsert q.heard src } else q).filter fun (q : CensusQ) =>
            !(q.pkg == pkg && decide (2 ≤ q.heard.length)) } }
  else
    let s1 := s.setReach pkg (dist + 1) macs nonce
    if hops = 0 then s1
    else { s1 with fab := { s1.fab with queue := s1.fab.queue ++ [⟨pkg, dist + 1, macs, nonce, hops - 1, []⟩] } }

/-- The records of a payload. -/
def recordsOf (l : List Byte) : List (List Byte) := (List.range (l.length / 8)).map fun i => sliceList l (8 * i) 8

/-- A CENSUS frame on a joined MAC. A MAC joins with its first HELLO (R402), so records may come before the package's own step
6; its nonce is then drawn with the first. -/
def State.rxCensus (s0 : State) (f : RxFrame) (t : Nat) : State :=
  let s := s0.advance t
  let v := s.macVerdict f
  let s1 := s.countFrame f v
  if v = .take ∧ f.typ = 3 then
    foldS (fun (t : State) r => if t.fab.conflict then t else t.takeRecord f.srcPkg f.hops r) s1.drawNonce
      (recordsOf f.payload)
  else s1

/-- CENSUS. -/
def execCensus (f : RxFrame) (t : Nat) (s : State) : Host.Outcome State Fault Refusal := .next (s.rxCensus f t)

/-- CENSUS_RESEND: the queued record of a package is sent from every joined MAC. -/
def State.censusResend (s : State) (pkg : Nat) : State :=
  match s.fab.queue.find? fun (q : CensusQ) => q.pkg == pkg with
  | none => s
  | some q =>
    if !s.transportOn then s
    else
      let s1 := { s with fab := { s.fab with queue := s.fab.queue.filter fun (x : CensusQ) => x.pkg != pkg } }
      foldS (fun (t : State) m => t.groupFrame m 3 q.hops (censusRecord q.pkg q.dist q.macs q.nonce)) s1 s1.usableMacs

/-- CENSUS_RESEND. -/
def execCensusResend (pkg : Nat) (s : State) : Host.Outcome State Fault Refusal := .next (s.censusResend pkg)

/-- CENSUS_PERIODIC: after the census the own record is sent again. -/
def execCensusPeriodic (s : State) : Host.Outcome State Fault Refusal :=
  .next (if s.transportOn && s.fab.censusDone then s.sendOwn else s)

/-- The census completes (R404); with the tick LOCKED, step 7 is complete too. -/
def State.endCensus (s : State) (incomplete : Bool) : State :=
  ({ s with fab := { s.fab with
      censusDone := true
      incomplete := incomplete
      step := 6 } }).settleLock

/-- The census runs. -/
def State.censusRuns (s : State) : Bool := s.transportOn && s.fab.step == 5 && !s.fab.censusDone && !s.fab.stopped

/-- CENSUS_QUIET: nothing was added for QUIET_S seconds. -/
def execCensusQuiet (s : State) : Host.Outcome State Fault Refusal :=
  .next (if s.censusRuns && (s.fab.expect == 0 || s.present == s.fab.expect) then s.endCensus false else s)

/-- CENSUS_LIMIT: LIMIT_S has passed without EXPECT being reached. -/
def execCensusLimit (s : State) : Host.Outcome State Fault Refusal :=
  .next (if s.censusRuns && s.fab.expect != 0 && s.present != s.fab.expect then s.endCensus true else s)

/-! ## Rank binding (R407) -/

/-- A job descriptor as it stands in the reserve. -/
structure JobDesc where
  id : Nat
  ranks : Nat
  table : Nat
  epoch : Nat
  period : Nat
  reserved : Bool
deriving DecidableEq, Repr

/-- Read a job descriptor. -/
def State.readJob (s : State) (a : Nat) : JobDesc :=
  { id := s.rdN a 8, ranks := s.rdN (a + 8) 8, table := s.rdN (a + 0x10) 8, epoch := s.rdN (a + 0x18) 8,
    period := s.rdN (a + 0x20) 8, reserved := s.rdN (a + 0x28) 24 != 0 }

/-- The rank table's entries. -/
def State.rankEntries (s : State) (j : JobDesc) : List Nat := (List.range j.ranks).map fun r => s.rdN (j.table + 4 * r) 4

/-- The descriptor is well formed. A reserved bit makes a word too large for its field's range. -/
def State.jobWellFormed (s : State) (a : Nat) (j : JobDesc) : Bool :=
  decide (a % 64 = 0 ∧ reserveBase ≤ a ∧ a + 64 ≤ reserveEnd ∧ 1 ≤ j.ranks ∧ j.ranks ≤ 524288 ∧ j.table % 4 = 0 ∧
    reserveBase ≤ j.table ∧ j.table + 4 * j.ranks ≤ reserveEnd) && !j.reserved && periodOk j.period &&
  (s.rankEntries j).all fun e => decide (e < 2 ^ 19)

/-- The period in effect, or about to be with the epoch committed last. -/
def State.periodNow (s : State) : Nat := match s.tick.pendingResync with
  | some r => r.period
  | none => s.tick.period

/-- The result of binding partition `p` to the job at `a` (R407). -/
def State.bindCheck (s : State) (p a : Nat) : Nat :=
  let j := s.readJob a
  if !s.jobWellFormed a j then 4
  else
    let es := s.rankEntries j
    let pt := s.part p
    let epoch := s.tick.epoch
    if !(pt.ent.valid && pt.ent.ready) || (es.filter fun e => e == s.fab.pkg + p * 65536).length != 1 then 3
    else if !es.all fun e => bitOf (s.reach (e % 65536)) 0 then 2
    else if s.tick.lock ≠ .locked then 5
    else if (s.parts.any fun (e : Nat × Part) => e.1 != p && e.2.job.isSome) && (j.epoch != epoch || j.period != s.periodNow) then 6
    else 1

/-- Bind a partition; a different epoch or period is committed (R31, R407). A JOB in a hole is logged as it is read
(R269). -/
def State.bindJob (s : State) (p a : Nat) : State :=
  let r := s.bindCheck p a
  let s0 := s.noteAccess a 64 false
  let s1 := { s0 with fab := { s0.fab with bindRes := r } }
  if r ≠ 1 then s1
  else
    let j := s.readJob a
    let bad := (s.poisonIn a 64).orElse fun _ => s.poisonIn j.table (4 * j.ranks)
    let s2 := s1.updPart p fun (q : Part) => { q with job := some ⟨a, j.id, j.ranks, j.table, j.epoch, j.period, bad⟩ }
    let s3 := if s2.fab.step = 7 then { s2 with fab := { s2.fab with step := 8 } } else s2
    if j.epoch = s.tick.epoch ∧ j.period = s.periodNow then s3
    else ({ s3 with tick := { s3.tick with stage := none } }).commitEpoch j.epoch j.period s.now

/-- BIND: the written value of FAB_BIND, at device time `t`. -/
def State.bindWrite (s0 : State) (v t : Nat) : State :=
  let s := s0.advance t
  let s1 := { s with fab := { s.fab with
      jobAddr := v % 2 ^ 44
      bindPart := fld v 46 44 } }
  if s.halted then s1 else s1.bindJob (fld v 46 44) (v % 2 ^ 44)

/-- BIND. -/
def execBind (value : Written) (t : Nat) (s : State) : Host.Outcome State Fault Refusal :=
  .next (if s.setsUp then (s.findAll 0 0 value.found).bindWrite value.value.toNat t else s)

/-- End a partition's binding (R407). The result code of an UNBIND is stated nowhere (log entry 6). -/
def State.unbindJob (s : State) (p : Nat) : State :=
  let (x, t) := s.freeBelow 8
  ({ t with fab := { t.fab with bindRes := x } }).updPart p fun (q : Part) => { q with job := none }

/-- UNBIND: the written value of FAB_BIND. -/
def State.unbindWrite (s : State) (v : Nat) : State :=
  ({ s with fab := { s.fab with
      jobAddr := v % 2 ^ 44
      bindPart := fld v 46 44 } }).unbindJob (fld v 46 44)

/-- UNBIND. -/
def execUnbind (value : W64) (s : State) : Host.Outcome State Fault Refusal :=
  .next (if s.setsUp then s.unbindWrite value.toNat else s)

end Sys2Proof.Machine
end

