-- ==== Sys2Proof/Machine/Hosts.lean ====
section
/-!
DEFINITION. Partitions and hosts: creation and destruction, resets, attachment links, the shared window, registered
buffers, interrupt tables and the page registers with rows of their own (R229 to R264, R479, R526, R528, R547, R548).
-/

namespace Sys2Proof.Machine

/-! ## The partition table (R235 to R238, R554) -/

/-- A partition's resources are held: from the acceptance of VALID until READY is cleared (R239). -/
def Part.held (pt : Part) : Bool := pt.life != .absent

/-- Check 0x01 of R237. -/
def PartEntry.rangesOk (e : PartEntry) : Bool :=
  decide (e.reserved = 0 ∧ 1 ≤ e.sqMax ∧ e.sqMax ≤ 256 ∧ 1 ≤ e.cqMax ∧ e.cqMax ≤ 128 ∧ e.hbmBase % GiB = 0 ∧
    e.hbmSize ≠ 0 ∧ e.hbmSize % GiB = 0 ∧ e.winOffset % 2 ^ 28 = 0 ∧ e.winSize ≠ 0 ∧ e.winSize % 2 ^ 28 = 0 ∧
    e.chCount ≤ 64 ∧ e.chBase + e.chCount ≤ 512)

/-- Check 0x02: every cluster and video engine named is present; the other engines always are (R2, R15). -/
def State.unitsPresent (s : State) (e : PartEntry) : Bool :=
  (bitsOf 80 e.clusters).all s.clusterPresent && (bitsOf 64 e.video).all s.videoPresent

/-- Two entries share a cluster, HBM byte, decode engine or fabric channel. -/
def PartEntry.clash (a b : PartEntry) : Bool :=
  a.clusters &&& b.clusters != 0 || a.video &&& b.video != 0 || a.jpeg &&& b.jpeg != 0 || a.inflate &&& b.inflate != 0 ||
  a.audio &&& b.audio != 0 || overlap a.hbmBase a.hbmSize b.hbmBase b.hbmSize || overlap a.chBase a.chCount b.chBase b.chCount

/-- An external attachment is a direct link (R237). -/
def Attach.direct (a : Attach) : Bool := a.trainedOnce && !a.mld

/-- The attachment cannot present one partition more with this LD_ID. -/
def State.ldTaken (s : State) (p : Nat) (e : PartEntry) : Bool :=
  let there := s.parts.filter fun (q : Nat × Part) => q.1 != p && q.2.held && q.2.ent.attach == e.attach
  (there.any fun (q : Nat × Part) => q.2.ent.ldId == e.ldId) ||
    (decide (2 ≤ e.attach) && (s.att e.attach).direct && !there.isEmpty)

/-- The first failing check of R237, or 0. The hole counts as part of the reserve (R269). -/
def State.createError (s : State) (p : Nat) (e : PartEntry) : Nat :=
  if !e.rangesOk then 1
  else if !s.unitsPresent e then 2
  else if s.memc.trained = false ∨ s.assignEnd < e.hbmBase + e.hbmSize then 3
  else if e.hbmSize < e.winOffset + e.winSize then 4
  else if s.parts.any fun (q : Nat × Part) => q.1 != p && q.2.held && q.2.ent.clash e then 5
  else if s.ldTaken p e then 6
  else if e.clusters = 0 then 7
  else 0

/-- The power-down bits of assigned engines clear (R554). -/
def MediaRegs.powerUp (m : MediaRegs) (e : PartEntry) : MediaRegs :=
  { m with
    videoOff := m.videoOff - (m.videoOff &&& e.video)
    jpegOff := m.jpegOff - (m.jpegOff &&& e.jpeg)
    inflateOff := m.inflateOff - (m.inflateOff &&& e.inflate)
    audioOff := m.audioOff - (m.audioOff &&& e.audio) }

/-- PARTITION_CREATE: VALID goes from 0 to 1; the entry is checked, and creation starts or VALID returns to 0. -/
def State.createPart (s : State) (p : Nat) : State :=
  let pt := s.part p
  if s.halted || !s.powered || pt.held then s
  else
    let e := s.createError p pt.ent
    if e ≠ 0 then s.setPart p { pt with ent := { pt.ent with valid := false, error := e } }
    else ({ s with media := s.media.powerUp pt.ent }).setPart p
      { pt with
        ent := { pt.ent with valid := true, error := 0 }
        life := .creating }

/-- PARTITION_CREATE, by management firmware (R498). -/
def execPartitionCreate (p : Nat) (s : State) : Host.Outcome State Fault Refusal := .next (if s.firmware then s.createPart p else s)

/-- Accumulators and operand buffers of the assigned clusters are zero and their records VOID (R103). -/
def State.zeroClusters (s : State) (cl : List Nat) : State :=
  { s with
    acc := s.acc.filter fun (e : Nat × List Nat) => !cl.contains (e.1 / (32 * coresPerCluster))
    accGen := s.accGen.filter fun (e : Nat × Nat) => !cl.contains (e.1 / 32)
    opbuf := s.opbuf.filter fun (e : Nat × Nat) => !cl.contains e.1
    res := s.res.filter fun (e : Nat × Resident) => !cl.contains (e.1 / 32) }

/-- Creation may end: the attachment's link has not trained without CXL since it last trained with it (R231). -/
def State.mayPresent (s : State) (att : Nat) : Bool := (s.att att).cxl

/-- Record a partition's creation or destruction, with the command's code (R502, R509). -/
def State.recordPart (s : State) (p cmd : Nat) : State := s.record srcHost 0x0502 sevInfo (some p) 0 (leBytes 1 cmd)

/-- A command of the platform that waits for a partition is answered (R508, R509). -/
def State.answerWait (s : State) (cmd p : Nat) (data : List Byte) : State :=
  match tlook s.mgmt.respWait (cmd * 8 + p) with
  | none => s
  | some req => ({ s with mgmt := { s.mgmt with respWait := tdel s.mgmt.respWait (cmd * 8 + p) } }).emit (.resp cmd req 0 data)

/-- PARTITION_READY: the steps of R238. Everything the partition had before is gone. One that a direct link does not present
keeps READY 0 and ERROR 6 (R237). -/
def State.readyPart (s : State) (p : Nat) : State :=
  let pt := s.part p
  if s.halted || pt.life != .creating || !s.mayPresent pt.ent.attach then s
  else
    let s1 := (s.zeroRange pt.ent.hbmBase pt.ent.hbmSize).zeroClusters pt.clusterList
    let s2 := s1.freeEngines fun r => r.part == p
    ((s2.setPart p { Part.dflt with
      ent := { pt.ent with ready := pt.ent.error == 0 }
      life := .ready }).recordPart p 0x10).answerWait 0x10 p (leBytes 1 pt.ent.error)

/-- PARTITION_READY. -/
def execPartitionReady (p : Nat) (s : State) : Host.Outcome State Fault Refusal := .next (s.readyPart p)

/-- MODE_WRITE: for descriptors fetched afterwards (R236). -/
def execModeWrite (p mode : Nat) (s : State) : Host.Outcome State Fault Refusal :=
  .next (if s.setsUp then s.updPart p fun (q : Part) => { q with ent := { q.ent with mode := mode } } else s)

/-! ## Abandoning work (R239, R262, R392) -/

/-- Reset the channels a descriptor uses. -/
def State.resetChannels (s : State) (r : DRef) (record : Bool) : State :=
  let mine := (s.chans.filter fun (e : Nat × Chan) => e.2.user == some r).map (·.1)
  foldS (fun (t : State) c => (t.startReset c r.part false record).updChan c fun (x : Chan) => { x with user := none }) s mine

/-- Abandon one descriptor that has not completed: channels reset, an unfinished update marked PARTIAL, samples and bindings
given up, slots VOID. -/
def State.abandonDesc (s : State) (r : DRef) (record : Bool) : State :=
  match s.desc r with
  | none => s
  | some d =>
    if d.phase == .done || !d.started then s
    else
      let s1 := s.resetChannels r record
      let s2 := match d.upd with
        | some u => s1.stampUpdate r d u false
        | none => s1
      ((s2.abandon r).updPart r.part fun (q : Part) => q.dropBinding r false).voidSlots d

/-- Every descriptor and every entry not yet written is gone. -/
def State.abandonAll (s : State) (p : Nat) (record : Bool) : State :=
  let l := (s.part p).descs.map fun (d : Desc) => d.ref p
  ((foldS (fun (t : State) r => t.abandonDesc r record) s l).freeEngines fun r => r.part == p).updPart p fun (q : Part) => { q with
    descs := []
    lent := []
    seqWaits := []
    swaps := []
    cq := tmap (fun _ (c : ComRing) => { c with waiting := [] }) q.cq }

/-- Nothing is left to complete or to write. -/
def Part.settled (pt : Part) : Bool := pt.descs.isEmpty && pt.cq.all fun (e : Nat × ComRing) => e.2.waiting.isEmpty

/-! ## Destruction (R239) -/

/-- A firmware update goes on without the partition that began it (R557). -/
def State.orphanUpdate (s : State) (p : Nat) : State :=
  { s with mgmt := { s.mgmt with fwu := s.mgmt.fwu.map fun (f : Fwu) => if f.part = some p then { f with part := none } else f } }

/-- A reset that ends CLOSED is under way: the channel is not reset a second time (R392). -/
def Chan.closing (c : Chan) : Bool := match c.resetting with
  | some r => r.rebind.isNone
  | none => false

/-- The end of the wait: everything left is abandoned, the logical device withdrawn, READY cleared. -/
def State.endDestroy (s : State) (p : Nat) : State :=
  let s1 := (s.abandonAll p false).orphanUpdate p
  let pt := s1.part p
  let own := ((List.range pt.ent.chCount).map fun i => pt.ent.chBase + i).filter fun c => !(s1.chan c).closing
  let s2 := foldS (fun (t : State) c => (t.startReset c p false false).updChan c fun (x : Chan) => { x with user := none }) s1 own
  ((s2.setPart p { Part.dflt with
    ent := { pt.ent with valid := false, ready := false }
    page := pt.page
    excLog2 := pt.excLog2
    excVector := pt.excVector }).recordPart p 0x12).answerWait 0x12 p []

/-- PARTITION_DESTROY: VALID goes from 1 to 0; a cancel of scope PARTITION, then a wait. A PARTITION_SET whose creation it ends is
answered. -/
def State.destroyPart (s : State) (p : Nat) : State :=
  let pt := s.part p
  if s.halted || !pt.ent.valid then s
  else
    let s1 := (s.updPart p fun (q : Part) => { q with
      ent := { q.ent with valid := false, error := 0 }
      flrWait := false
      life := .destroying }).answerWait 0x10 p (leBytes 1 0)
    let s2 := s1.cancelPart p
    if (s2.part p).settled then s2.endDestroy p else s2

/-- PARTITION_DESTROY. -/
def execPartitionDestroy (p : Nat) (s : State) : Host.Outcome State Fault Refusal := .next (if s.setsUp then s.destroyPart p else s)

/-- PARTITION_DESTROY_EXPIRY: 90 ms have passed, or nothing is left. -/
def execPartitionDestroyExpiry (p : Nat) (s : State) : Host.Outcome State Fault Refusal :=
  .next (if s.halted || (s.part p).life != .destroying then s else s.endDestroy p)

/-! ## Function Level Reset and link resets (R262, R562, R576) -/

/-- Steps 2 to 5 of R262; the job binding ends (R407). -/
def State.endFlr (s : State) (p : Nat) : State :=
  (s.abandonAll p true).updPart p fun (q : Part) => { q with
    life := .ready
    flrWait := false
    sq := []
    cq := []
    msix := q.msix.map fun (e : Nat × MsixEntry) => (e.1, { e.2 with masked := true })
    mirror := Mirror.dflt
    reported := []
    job := none }

/-- Begin a Function Level Reset of a partition. -/
def State.startFlr (s : State) (p : Nat) : State :=
  if s.halted || (s.part p).life != .ready then s
  else
    let s1 := (s.updPart p fun (q : Part) => { q with life := .resetting, flrWait := true }).cancelPart p
    if (s1.part p).settled then s1.endFlr p else s1

/-- FUNCTION_LEVEL_RESET. -/
def execFunctionLevelReset (h : Port) (s : State) : Host.Outcome State Fault Refusal :=
  .next (match s.portPart h with
    | some p => s.startFlr p
    | none => s)

/-- FLR_WAIT_EXPIRY: 90 ms have passed, or nothing is left. -/
def execFlrWaitExpiry (part : Nat) (s : State) : Host.Outcome State Fault Refusal :=
  .next (if s.halted || !(s.part part).flrWait then s else s.endFlr part)

/-- A reset of an attachment's link acts on every partition bound to it. -/
def State.resetAttachment (s : State) (att : Nat) : State :=
  foldS State.startFlr s ((s.parts.filter fun (e : Nat × Part) => e.2.ent.attach == att && e.2.life == .ready).map (·.1))

/-- LINK_RESET. -/
def execLinkReset (att : Nat) (s : State) : Host.Outcome State Fault Refusal := .next (s.resetAttachment att)

/-- The pads of domain `d` are held, and ignore their input (R491). -/
def State.padsHeld (s : State) (d : Nat) : Bool := bitOf s.pwr.padHeld d

/-- PERST_N: a link reset of attachment 2 + q, ignored outside RUN and by held pads of PD02. -/
def execPerstN (q : Nat) (s : State) : Host.Outcome State Fault Refusal :=
  .next (if s.pwr.state = 0 ∧ s.padsHeld 2 = false then s.resetAttachment (2 + q) else s)

/-! ## Attachment links (R231, R237, R263) -/

/-- The valid partitions bound to an attachment. -/
def State.bound (s : State) (att : Nat) : List (Nat × Part) :=
  s.parts.filter fun (e : Nat × Part) => e.2.ent.valid && e.2.ent.attach == att

/-- After an external link has trained with CXL: as a direct link it presents the lowest LD_ID of the valid partitions alone;
behind a switch, everything that is ready (R237). -/
def State.present' (s : State) (att : Nat) : State :=
  let low := (s.bound att).foldl (fun m (e : Nat × Part) => min m e.2.ent.ldId) 16
  let direct := (s.att att).direct
  foldS (fun (t : State) (e : Nat × Part) => t.updPart e.1 fun (q : Part) =>
    if direct && q.ent.ldId != low then { q with ent := { q.ent with ready := false, error := 6 } }
    else { q with ent := { q.ent with ready := q.life == .ready || q.life == .resetting, error := 0 } }) s (s.bound att)

/-- After an external link has trained without CXL it presents one function with no partition bound (R231). -/
def State.unpresent (s : State) (att : Nat) : State :=
  foldS (fun (t : State) (e : Nat × Part) => t.updPart e.1 fun (q : Part) => { q with ent := { q.ent with ready := false } }) s
    (s.bound att)

/-- Send the pending messages of the partitions behind an attachment. -/
def State.flushAttachment (s : State) (att : Nat) : State :=
  foldS (fun (t : State) (e : Nat × Part) => foldS (fun (u : State) v => u.flushVector e.1 v) t e.2.pba) s
    (s.parts.filter fun (e : Nat × Part) => e.2.ent.attach == att)

/-- The state of an attachment's link, and the record of its move (R502). The modules of attachments 0 and 1 have no training
without CXL (R231 speaks of external ports). -/
def State.linkMove (s : State) (att : Nat) (up cxl0 mld : Bool) : State :=
  let a := s.att att
  let cxl := cxl0 || att < 2
  (s.setAtt att { a with
    up := up
    cxl := if up then cxl else a.cxl
    trainedOnce := a.trainedOnce || (up && cxl)
    mld := if up && cxl then mld else a.mld }).record srcHost 0x0501 (if up then sevInfo else sevWarn) none 0
      (leBytes 2 (att + (if up then 256 else 0)))

/-- ATTACHMENT_LINK_CHANGE, recorded (R502). -/
def State.attLink (s : State) (att : Nat) (up cxl mld : Bool) : State :=
  let s1 := s.linkMove att up cxl mld
  if att < 2 then (if up then s1.flushAttachment att else s1)
  else if up && cxl then (s1.present' att).flushAttachment att
  else if up then s1.unpresent att
  else s1

/-- ATTACHMENT_LINK_CHANGE: no link trains while PD02 is not powered or its pads are held (R491). -/
def execAttachmentLinkChange (att : Nat) (up cxl mld : Bool) (s : State) : Host.Outcome State Fault Refusal :=
  .next (if s.padsHeld 2 || (up && !s.powered) then s else s.attLink att up cxl mld)

/-! ## The shared window (R234, R241, R243, R252, R253) -/

/-- HDM_DECODER_COMMIT. -/
def execHdmDecoderCommit (h : Port) (base : W64) (s : State) : Host.Outcome State Fault Refusal :=
  .next (match s.portPart h with
    | some p => if s.halted then s else s.updPart p fun (q : Part) => { q with hdm := some base.toNat }
    | none => s)

/-- The partition and local line address a host address reaches. -/
def State.hostLine (s : State) (h : Port) (addr : Nat) : Option (Nat × Nat) :=
  match s.portPart h with
  | none => none
  | some p => match (s.part p).hdm with
    | none => none
    | some b => if b ≤ addr ∧ addr < b + (s.part p).ent.winSize then some (p, (s.part p).winAddr ((addr - b) / 64 * 64)) else none

/-- The device-owned registered buffer a line lies in, when the window is guarded. -/
def State.guardedBy (s : State) (p a : Nat) : Option Nat :=
  let pt := s.part p
  if pt.ent.guard then (pt.bufs.find? fun (e : Nat × RegBuf) => overlap a 64 e.2.base e.2.len && s.deviceOwns e.2).map (·.1)
  else none

/-- A poisoned answer whose data bytes no rule gives (log entry 6). -/
def State.answerPoison (s : State) (h : Port) : State :=
  ({ s with fresh := s.fresh + 1 }).emit (.line h ((List.range 64).map (Config.clusterByte (s.fresh + 1))) true)

/-- CXL_MEM_READ of one line; `ecc` is what the controller finds. -/
def State.cxlRead (s : State) (h : Port) (addr : Nat) (ecc : Ecc) : State :=
  if !(s.att h.att).up then s
  else match (if s.halted then none else s.hostLine h addr) with
    | none => s.answerPoison h
    | some (p, a) =>
      if (s.guardedBy p a).isSome then s.emit (.line h (List.replicate 64 0) true)
      else
        let t := s.readSector a ecc 1 0
        t.emit (.line h (t.rdBytes a 64) (t.isPoison a))

/-- CXL_MEM_READ. -/
def execCxlMemRead (h : Port) (addr : Nat) (ecc : Ecc) (s : State) : Host.Outcome State Fault Refusal :=
  .next (s.cxlRead h addr ecc)

/-- Count a discarded host write in HOST_DROPS, saturating (R244, R253). -/
def State.hostDrop (s : State) (p k : Nat) : State :=
  let a := (s.part p).page.bufBase + 32 * k + 0x1A
  s.wrN a 2 (min (s.rdN a 2 + 1) 0xFFFF)

/-- The registered buffers whose flag word lies in a line, when the window is guarded. -/
def State.guardedWords (s : State) (p a : Nat) : List (Nat × RegBuf) :=
  let pt := s.part p
  if pt.ent.guard then pt.bufs.filter fun (e : Nat × RegBuf) => decide (a ≤ e.2.flag ∧ e.2.flag < a + 64) else []

/-- A handover of R247: OWNER 1 with GEN unchanged. -/
def isHandover (old new : Nat) : Bool := decide (new = old % 2 ^ 48 + 2 ^ 63)

/-- Guarded flag words of a line that a host write may not change: they keep their bytes and count a drop. -/
def State.blockedWords (s : State) (p a : Nat) (line : List Byte) : List (Nat × RegBuf) :=
  (s.guardedWords p a).filter fun (e : Nat × RegBuf) => !isHandover (s.rdN e.2.flag 8) (leNat (sliceList line (e.2.flag - a) 8))

/-- Put the kept bytes of blocked words back into a line. -/
def State.keepWords (s : State) (a : Nat) (l : List (Nat × RegBuf)) (line : List Byte) : List Byte :=
  foldS (fun (b : List Byte) (e : Nat × RegBuf) =>
    b.take (e.2.flag - a) ++ s.rdBytes e.2.flag 8 ++ b.drop (e.2.flag - a + 8)) line l

/-- CXL_MEM_WRITE of one line (R243, R252, R253); waits on its words test (R182). -/
def State.cxlWrite (s : State) (h : Port) (addr : Nat) (line : List Byte) : State :=
  match (if s.halted then none else s.hostLine h addr) with
  | none => s
  | some (p, a) => match s.guardedBy p a with
    | some k => s.hostDrop p k
    | none =>
      let l := s.blockedWords p a line
      let bytes := padTo 64 (s.keepWords a l line)
      let s1 := if l.isEmpty then s.wrBytes a bytes else s.wrRaw a bytes
      (foldS (fun (t : State) (e : Nat × RegBuf) => t.hostDrop p e.1) s1 l).testWaits p

/-- CXL_MEM_WRITE. -/
def execCxlMemWrite (h : Port) (addr : Nat) (line : List Byte) (s : State) : Host.Outcome State Fault Refusal :=
  .next (s.cxlWrite h addr line)

/-! ## Interrupt table (R259, R260) -/

/-- Write a 32-bit word of an MSI-X entry: address low and high, data, mask. -/
def MsixEntry.put (e : MsixEntry) (word value : Nat) : MsixEntry :=
  match word with
  | 0 => { e with addr := e.addr / 2 ^ 32 * 2 ^ 32 + value }
  | 1 => { e with addr := e.addr % 2 ^ 32 + value * 2 ^ 32 }
  | 2 => { e with data := value }
  | _ => { e with masked := bitOf value 0 }

/-- MSIX_TABLE_WRITE: unmasking a pending vector sends its message. -/
def execMsixTableWrite (h : Port) (vec word : Nat) (value : W32) (s : State) : Host.Outcome State Fault Refusal :=
  .next (match s.portPart h with
    | none => s
    | some p =>
      if s.halted then s
      else (s.updPart p fun (q : Part) => { q with
        msix := tset MsixEntry.dflt q.msix vec ((tget MsixEntry.dflt q.msix vec).put word value.toNat) }).flushVector p vec)

/-! ## Page writes (R547) -/

/-- A rejected page write is noted. -/
def Part.rejectPage (pt : Part) (off cause : Nat) : Part :=
  { pt with page := { pt.page with reject := true, rejectOffset := off / 8 % 256, rejectCause := cause } }

/-- No ring of the partition is enabled. -/
def Part.quiet (pt : Part) : Bool :=
  !(pt.sq.any fun (e : Nat × SubRing) => e.2.enabled) && !(pt.cq.any fun (e : Nat × ComRing) => e.2.enabled)

/-- A page write by a driver: it reaches a ready partition of a package that is not halted. -/
def State.pageWrite (s : State) (h : Port) (f : State → Nat → State) : State :=
  match s.portPart h with
  | none => s
  | some p => if s.halted then s else f s p

/-! ## The buffer table (R244, R245, R548) -/

/-- An entry of the buffer table as read. -/
structure BufEntry where
  k : Nat
  buf : RegBuf
  valid : Bool
  reserved : Bool
  poison : Bool
deriving DecidableEq, Repr

/-- Read entry `k`. -/
def State.bufEntry (s : State) (pt : Part) (k : Nat) : BufEntry :=
  let a := pt.page.bufBase + 32 * k
  let w0 := s.rdN a 8
  let w1 := s.rdN (a + 8) 8
  let w2 := s.rdN (a + 16) 8
  { k := k, buf := ⟨w0 % 2 ^ 44, w1 % 2 ^ 44, w2 % 2 ^ 44⟩, valid := bitOf w0 63,
    reserved := decide (fld w0 62 44 ≠ 0 ∨ 2 ^ 44 ≤ w1 ∨ 2 ^ 44 ≤ w2 ∨ s.rdN (a + 0x1C) 4 ≠ 0),
    poison := s.isPoison a || !s.inRange pt a 32 }

/-- The first cause of R245 that applies to an entry, or 0. `after` holds the buffers valid if the commit takes effect. -/
def State.bufCause (s : State) (pt : Part) (after : List (Nat × RegBuf)) (e : BufEntry) : Nat :=
  let b := e.buf
  let others := after.filter fun (x : Nat × RegBuf) => x.1 != e.k
  let held := match tlook pt.bufs e.k with
    | some o => s.deviceOwns o && (!e.valid || o != b)
    | none => false
  if e.valid && !(pt.inWindow b.base b.len && pt.inWindow b.flag 8) then 1
  else if e.valid && others.any fun (x : Nat × RegBuf) => overlap b.base b.len x.2.base x.2.len then 2
  else if e.valid && others.any fun (x : Nat × RegBuf) => overlap b.flag 8 x.2.flag 8 then 3
  else if e.valid && after.any fun (x : Nat × RegBuf) => overlap b.flag 8 x.2.base x.2.len then 4
  else if e.reserved then 5
  else if held then 6
  else if e.valid && decide (b.base % 64 ≠ 0 ∨ b.len = 0 ∨ b.len % 64 ≠ 0 ∨ b.flag % 8 ≠ 0) then 7
  else if e.poison then 8
  else 0

/-- PART_BUF_COMMIT of entries k to k + n − 1: all or none. -/
def State.bufCommit (s : State) (p v : Nat) : State :=
  let pt := s.part p
  let k := v % 4096
  let n := fld v 24 12
  if n = 0 ∨ 4096 < n ∨ 4096 < k + n then s.setPart p (pt.rejectPage 0x30 4)
  else
    let es := (List.range n).map fun i => s.bufEntry pt (k + i)
    let after := foldS (fun (l : List (Nat × RegBuf)) (e : BufEntry) => if e.valid then tput l e.k e.buf else tdel l e.k) pt.bufs es
    match es.find? fun (e : BufEntry) => s.bufCause pt after e != 0 with
    | some e => s.setPart p { pt with page := { pt.page with
        bufState := 3, bufIndex := e.k, bufCause := s.bufCause pt after e } }
    | none => s.setPart p { pt with
        bufs := after
        page := { pt.page with bufState := 2, bufIndex := 0, bufCause := 0 } }

/-- PART_BUF_COMMIT. -/
def execPartBufCommit (h : Port) (v : Written) (s : State) : Host.Outcome State Fault Refusal :=
  .next (s.pageWrite h fun t p => (t.findAll 0 0 v.found).bufCommit p v.value.toNat)

/-! ## The exception ring's base (R526, R528) -/

/-- What keeps a header from being taken: the cause, or 0. -/
def State.excCause (s : State) (pt : Part) (a : Nat) : Nat :=
  if !pt.quiet then 1
  else if a = 0 then 0
  else if a % 4096 ≠ 0 ∨ !s.inRange pt a 64 ∨ (s.poisonIn a 64).isSome then 2
  else
    let w := s.rdN (a + 0x10) 8
    if w % 32 < 6 ∨ 16 < w % 32 ∨ fld w 15 5 ≠ 0 ∨ fld w 63 27 ≠ 0 ∨ s.rdN (a + 0x20) 32 ≠ 0 then 4
    else if !s.inRange pt a (0x40 + 64 * 2 ^ (w % 32)) then 2
    else 0

/-- A write of PART_EXC_BASE. -/
def State.excBaseWrite (s : State) (p v : Nat) : State :=
  let pt := s.part p
  let a := v % 2 ^ 44
  let c := s.excCause pt a
  if c ≠ 0 then s.setPart p (pt.rejectPage 0x18 c)
  else if a = 0 then s.setPart p { pt with page := { pt.page with excBase := 0 }, excCount := 0 }
  else
    let w := s.rdN (a + 0x10) 8
    ((s.wrN a 8 0).wrN (a + 0x18) 8 0).updPart p fun (q : Part) => { q with
      page := { q.page with excBase := a }
      excLog2 := w % 32
      excVector := fld w 26 16
      excCount := 0 }

/-- PART_EXC_BASE. -/
def execPartExcBase (h : Port) (v : Written) (s : State) : Host.Outcome State Fault Refusal :=
  .next (s.pageWrite h fun t p => (t.findAll 0 0 v.found).excBaseWrite p v.value.toNat)

/-! ## Drowse requests (R479, R481) -/

/-- A write of PART_DROWSE_LO or PART_DROWSE_HI; bits outside the partition's set are ignored. -/
def State.drowseWrite (s : State) (p : Nat) (hi : Bool) (v : Nat) : State :=
  s.updPart p fun (q : Part) =>
    let old := q.page.drowse
    let new := if hi then old % 2 ^ 64 + v % 2 ^ 16 * 2 ^ 64 else old / 2 ^ 64 * 2 ^ 64 + v % 2 ^ 64
    { q with page := { q.page with drowse := new &&& q.ent.clusters } }

/-- PART_DROWSE. -/
def execPartDrowse (h : Port) (hi : Bool) (v : W64) (s : State) : Host.Outcome State Fault Refusal :=
  .next (s.pageWrite h fun t p => t.drowseWrite p hi v.toNat)

end Sys2Proof.Machine
end

