-- ==== Sys2Proof/Machine/RegSet.lean ====
section
/-!
DEFINITION. Values taken by the set-up registers: which field takes a written value and which ignores it (R9, R235, R236,
R289, R400, R495, R517, R522, R546, R553 to R555).
-/

namespace Sys2Proof.Machine

/-! ## The partition table (R235, R236) -/

/-- A 64-bit word of an entry as written: VALID, READY and ERROR are not taken here. A non-zero reserved field is noted for
check 0x01 of R237. -/
def PartEntry.putWord (e : PartEntry) (w v : Nat) : PartEntry :=
  let note (bad : Bool) : Nat := if bad then setBit e.reserved w else clearBit e.reserved w
  match w with
  | 0 => { e with
      attach := fld v 2 1
      ldId := fld v 6 3
      mode := fld v 8 7
      guard := bitOf v 9
      sqMax := fld v 40 32
      cqMax := fld v 55 48
      reserved := note (decide (fld v 15 11 ≠ 0 ∨ fld v 31 24 ≠ 0 ∨ fld v 47 41 ≠ 0 ∨ fld v 63 56 ≠ 0)) }
  | 1 => { e with clusters := e.clusters / 2 ^ 64 * 2 ^ 64 + v % 2 ^ 64 }
  | 2 => { e with
      clusters := e.clusters % 2 ^ 64 + v % 2 ^ 16 * 2 ^ 64
      reserved := note (decide (fld v 63 16 ≠ 0)) }
  | 3 => { e with
      hbmBase := v % 2 ^ 44
      reserved := note (decide (fld v 63 44 ≠ 0)) }
  | 4 => { e with
      hbmSize := v % 2 ^ 44
      reserved := note (decide (fld v 63 44 ≠ 0)) }
  | 5 => { e with
      winOffset := v % 2 ^ 44
      reserved := note (decide (fld v 63 44 ≠ 0)) }
  | 6 => { e with
      winSize := v % 2 ^ 44
      reserved := note (decide (fld v 63 44 ≠ 0)) }
  | 7 => { e with video := v % 2 ^ 64 }
  | 8 => { e with
      jpeg := v % 2 ^ 32
      inflate := fld v 47 32
      audio := fld v 55 48
      reserved := note (decide (fld v 63 56 ≠ 0)) }
  | 9 => { e with
      chBase := v % 2 ^ 9
      chCount := fld v 22 16
      reserved := note (decide (fld v 15 9 ≠ 0 ∨ fld v 63 23 ≠ 0)) }
  | _ => { e with reserved := note (decide (v ≠ 0)) }

/-- What a word of an entry reads as. -/
def PartEntry.word (e : PartEntry) (w : Nat) : Nat :=
  let b (x : Bool) (k : Nat) : Nat := if x then 2 ^ k else 0
  match w with
  | 0 => b e.valid 0 + e.attach % 4 * 2 + e.ldId % 16 * 8 + e.mode % 4 * 128 + b e.guard 9 + b e.ready 10 +
      e.error % 256 * 65536 + e.sqMax % 512 * 2 ^ 32 + e.cqMax % 256 * 2 ^ 48
  | 1 => e.clusters % 2 ^ 64
  | 2 => e.clusters / 2 ^ 64 % 2 ^ 16
  | 3 => e.hbmBase % 2 ^ 44
  | 4 => e.hbmSize % 2 ^ 44
  | 5 => e.winOffset % 2 ^ 44
  | 6 => e.winSize % 2 ^ 44
  | 7 => e.video % 2 ^ 64
  | 8 => e.jpeg % 2 ^ 32 + e.inflate % 2 ^ 16 * 2 ^ 32 + e.audio % 256 * 2 ^ 48
  | 9 => e.chBase % 2 ^ 9 + e.chCount % 128 * 65536
  | _ => 0

/-- A write to word `w` of entry `p`: while the partition's resources are held only MODE and VALID take it; VALID going to
1 or to 0 creates or destroys (R236 to R239). -/
def State.entryWrite (s : State) (p w v : Nat) : State :=
  let pt := s.part p
  if pt.held then
    if w ≠ 0 then s
    else
      let s1 := s.setPart p { pt with ent := { pt.ent with mode := fld v 8 7 } }
      if bitOf v 0 then s1 else s1.destroyPart p
  else
    let s1 := s.setPart p { pt with ent := pt.ent.putWord w v }
    if w = 0 ∧ bitOf v 0 then s1.createPart p else s1

/-! ## FAB (R400) -/

/-- FAB_ID. -/
def State.setFabId (s : State) (v : Nat) : State :=
  { s with fab := { s.fab with
      pkg := v % 65536
      fabric := fld v 23 16 } }

/-- FAB_PORT p: an RW field stores what is written, a reserved code of SPLIT or PMD too (R11, log entry 53). -/
def State.setFabPort (s : State) (p v : Nat) : State :=
  { s with fab := { s.fab with
      split := tset 0 s.fab.split p (v % 4)
      pmd := tset 0 s.fab.pmd p (fld v 3 2)
      enable := tset 0 s.fab.enable p (fld v 4 4) } }

/-- A pause is obeyed only while PFC_EN is 1: what a MAC held for paused priorities goes out (R394). -/
def State.endPauses (s : State) : State :=
  if s.fab.pfcEn then s
  else foldS (fun (t : State) (e : Nat × MacSt) => (t.setMac e.1 { t.mac e.1 with paused := [] }).flushPrio e.1) s s.macs

/-- FAB_FRAME. -/
def State.setFabFrame (s : State) (v : Nat) : State :=
  State.endPauses { s with fab := { s.fab with
      etype := v % 65536
      vid := fld v 27 16
      dataPcp := fld v 30 28
      ctrlPcp := fld v 33 31
      ptpPcp := fld v 36 34
      pfcEn := bitOf v 37
      failMs := if 10 ≤ fld v 61 48 ∧ fld v 61 48 ≤ 10000 then fld v 61 48 else s.fab.failMs } }

/-- FAB_PTP. -/
def State.setFabPtp (s : State) (v : Nat) : State :=
  { s with fab := { s.fab with
      domain := v % 256
      priority1 := fld v 15 8
      priority2 := fld v 23 16
      clockClass := fld v 31 24
      logSync := fld v 35 32
      logAnnounce := fld v 39 36 } }

/-- FAB_CENSUS. -/
def State.setFabCensus (s : State) (v : Nat) : State :=
  { s with fab := { s.fab with
      hopLimit := v % 16
      rate := fld v 11 4
      quietS := fld v 19 12
      expect := fld v 36 20
      limitS := fld v 44 37 } }

/-! ## PWR and MEMC (R289, R495) -/

/-- A clock of PWR_GOV: a multiple of 50 within bounds. -/
def clockOk (lo hi f : Nat) : Bool := decide (f % 50 = 0 ∧ lo ≤ f ∧ f ≤ hi)

/-- PWR_GOV: both clocks are taken together where they agree, else each against the other as it stands. -/
def State.setPwrGov (s : State) (v : Nat) : State :=
  let a := v % 2 ^ 11
  let b := fld v 26 16
  let l := fld v 43 32
  let g := s.pwr
  let lo := if clockOk 800 b a && clockOk a 1800 b || clockOk 800 g.fmax a then a else g.fmin
  { s with pwr := { g with
      fmin := lo
      fmax := if clockOk lo 1800 b then b else g.fmax
      limit := if 500 ≤ l ∧ l ≤ s.gradeLimit then l else g.limit } }

/-- PWR_THERM: out-of-range values are ignored field by field. -/
def State.setPwrTherm (s : State) (v : Nat) : State :=
  let g := s.pwr
  let c := fld v 23 16
  let crit := if 90 ≤ c ∧ c ≤ 120 then c else g.tjCrit
  let t := v % 256
  let k := fld v 15 8
  { s with pwr := { g with
      tjCrit := crit
      tjThrottle := if 70 ≤ t ∧ t + 5 ≤ crit then t else g.tjThrottle
      stackThrottle := if 70 ≤ k ∧ k ≤ 100 then k else g.stackThrottle
      tjWake := fld v 31 24 } }

/-- PWR_WAKE. -/
def State.setPwrWake (s : State) (v : Nat) : State :=
  { s with pwr := { s.pwr with
      wakeAddr := v % 128
      i3cEn := bitOf v 7
      thermEn := bitOf v 8 } }

/-- PWR_STATUS: WAKE_CAUSE is cleared by writing 1 (R490). -/
def State.clearWake (s : State) (v : Nat) : State :=
  { s with pwr := { s.pwr with wakeCause := s.pwr.wakeCause - (s.pwr.wakeCause &&& fld v 10 8) } }

/-- MEMC_SCRUB. -/
def State.setScrub (s : State) (v : Nat) : State :=
  let h := v % 128
  { s with memc := { s.memc with
      scrubHours := if 4 ≤ h ∧ h ≤ 72 then h else s.memc.scrubHours
      scrubEn := bitOf v 8 } }

/-- MEMC_RETIRE_REQ of a stack. -/
def State.setRetireReq (s : State) (st v : Nat) : State :=
  { s with memc := { s.memc with retireReq := tset 0 s.memc.retireReq st (v % 2 ^ 32) } }

/-! ## MEDIA, COLL and UPD (R553 to R556) -/

/-- The bits of a written mask that hold: of engines present and held by no valid partition. -/
def State.offMask (s : State) (n v : Nat) (present : Nat → Bool) (of' : PartEntry → Nat) : Nat :=
  maskOf ((bitsOf n v).filter fun i => present i && !s.parts.any fun (e : Nat × Part) => e.2.held && bitOf (of' e.2.ent) i)

/-- MEDIA_PWR_VIDEO. -/
def State.setVideoOff (s : State) (v : Nat) : State :=
  { s with media := { s.media with videoOff := s.offMask 64 v s.videoPresent fun (e : PartEntry) => e.video } }

/-- MEDIA_PWR_OTHER. -/
def State.setOtherOff (s : State) (v : Nat) : State :=
  let all := fun (_ : Nat) => true
  { s with media := { s.media with
      jpegOff := s.offMask 32 (v % 2 ^ 32) all fun (e : PartEntry) => e.jpeg
      inflateOff := s.offMask 16 (fld v 47 32) all fun (e : PartEntry) => e.inflate
      audioOff := s.offMask 8 (fld v 55 48) all fun (e : PartEntry) => e.audio } }

/-- COLL_INJECT. -/
def State.setCollInject (s : State) (v : Nat) : State := { s with collInject := ⟨v % 8, bitOf v 3, fld v 8 4⟩ }

/-- UPD_INJECT. -/
def State.setUpdInject (s : State) (v : Nat) : State := { s with updInject := ⟨v % 8, bitOf v 3, fld v 6 4⟩ }

/-! ## MGMT (R517, R522) -/

/-- Extend a measurement register by a digest. -/
def State.extend (s : State) (i : Nat) (d : List Byte) : State :=
  { s with mgmt := { s.mgmt with meas := s.mgmt.meas.set i (shake512 (s.mgmt.meas.getD i [] ++ d)) } }

/-- MGMT_POLICY as it reads. -/
def State.policyValue (s : State) : Nat := (if s.mgmt.requireSession then 1 else 0) + s.mgmt.updatePart % 16 * 2

/-- MGMT_DBG as it reads. -/
def State.dbgValue (s : State) : Nat := if s.mgmt.dbgEn then 1 else 0

/-- MGMT_POLICY: a reserved code of UPDATE_PART is stored too, and names no partition (R11); a change is measured. -/
def State.setPolicy (s : State) (v : Nat) : State :=
  let t := { s with mgmt := { s.mgmt with
      requireSession := bitOf v 0
      updatePart := fld v 4 1 } }
  if t.policyValue = s.policyValue then t else t.extend 4 (leBytes 8 t.policyValue)

/-- MGMT_DBG.EN takes a value; a change is measured. -/
def State.setDbg (s : State) (b : Bool) : State :=
  let t := { s with mgmt := { s.mgmt with dbgEn := b } }
  if s.mgmt.dbgEn = b then t else t.extend 4 (leBytes 8 t.dbgValue)

/-- MGMT_WDT.PERIOD_MS. -/
def State.setWdt (s : State) (v : Nat) : State :=
  let p := v % 2 ^ 14
  { s with mgmt := { s.mgmt with wdtPeriod := if 10 ≤ p ∧ p ≤ 10000 then p else s.mgmt.wdtPeriod } }

/-- PART_POLICY of a partition (R371, R468, R546). -/
def State.setPartPolicy (s : State) (p v : Nat) : State :=
  s.updPart p fun (q : Part) => { q with page := { q.page with
    preempt := v % 2
    diverge := fld v 2 1 } }

/-- DEVCFG_SCRATCH n. -/
def State.setScratch (s : State) (n v : Nat) : State := { s with scratch := tset 0 s.scratch n (v % 2 ^ 64) }

/-! ## The retire record (R278, R511) -/

/-- The retire record goes into MEMC_RETIRE_REQ, as management firmware writes it before training. -/
def State.placeRetire (s : State) : State :=
  foldS (fun (t : State) (st : Nat) => t.setRetireReq st (tget 0 t.memc.retireReq st ||| s.mgmt.retireRecord.getD st 0)) s (List.range 20)

end Sys2Proof.Machine
end

