-- ==== Sys2Proof/Machine/Power.lean ====
section
/-!
DEFINITION. Package states, retention and wake; resets, supplies and reference clocks (R280, R475 to R496, R504, R541, R542,
R562, R569 to R572, R576).
-/

namespace Sys2Proof.Machine

/-! ## Package resets (R30, R280, R504, R541, R542, R562) -/

/-- The host memory behind an attachment is not the package's; the link is down. -/
def Attach.reset (a : Attach) : Attach := { Attach.dflt with mem := a.mem, poison := a.poison }

/-- An update is cut short: whether erasure of flash had begun, which leaves no whole image, is free (log entry 6; R523). -/
def State.abandonUpdate (s : State) : State :=
  match s.mgmt.fwu with
  | none => s
  | some f =>
    let (x, t) := if decide (0 < f.size) && f.image.length == f.size then s.freeBelow 2 else (0, s)
    { t with mgmt := { t.mgmt with
        fwu := none
        flashBad := t.mgmt.flashBad || x == 1 } }

/-- Attachments after a reset of their domain. -/
def State.resetAtts (s : State) : List (Nat × Attach) :=
  (s.atts.map fun (e : Nat × Attach) => (e.1, e.2.reset)).filter fun (e : Nat × Attach) => decide (e.2 ≠ Attach.dflt)

/-- The management subsystem after a reset of the package: the boot ROM starts; flash is kept. -/
def MgmtSt.restart (m : MgmtSt) : MgmtSt :=
  { MgmtSt.reset with
    boot := if m.boot = .held then .held else .booting
    flash := m.flash
    flashBad := m.flashBad
    pendingVersion := m.pendingVersion
    retireRecord := m.retireRecord
    loadPending := true }

/-- WAKE_CAUSE after a reset: bit 2 where the reset woke PD00 (R489, R490). -/
def PwrSt.resetCause (g : PwrSt) : Nat := if g.clocksStopped then 4 else 0

/-- PWR after a reset of the package. Sensors go on. -/
def State.resetPwr (s : State) : PwrSt :=
  { PwrSt.reset s.gradeLimit with
    sensors := s.pwr.sensors
    tjTick := s.pwr.tjTick
    tsTick := s.pwr.tsTick
    wakeCause := s.pwr.resetCause }

/-- Domains stay held over a reset of the package: those that are (R570), and those whose supplies or clock a reset out of DORMANT,
OFF or an exit does not find as RUN needs them (R569). -/
def State.staysHeld (s : State) : Bool :=
  s.pins.heldInReset || ((s.pwr.state != 0 || s.pwr.exiting) && !(s.pins.mainPwrgd && s.pins.ref100))

/-- The tick after a reset of the package: it runs once the domains do. -/
def State.resetTick (s : State) : TickSt := { TickSt.reset with running := !s.staysHeld && !s.pins.aonReset }

/-- Cold reset of the package: every field at its reset value, but for the recorder, flash, fuses, certificates, the board's
pins and what lies outside the package. -/
def State.coldReset (s0 : State) : State :=
  let s := s0.abandonUpdate
  { State.reset with
    fuse := s.fuse
    rec' := { s.rec' with unfreezes := 0 }
    mgmt := s.mgmt.restart
    sec := { SecSt.reset with slot1 := s.sec.slot1 }
    pwr := s.resetPwr
    tick := s.resetTick
    pins := { s.pins with thermtrip := false, heldInReset := s.staysHeld }
    atts := s.resetAtts
    fresh := s.fresh
    out := s.out
    pending := s.pending }

/-- Stack controllers restored from the retention SRAM: trained settings and lane assignments (R280, R484). -/
def MemcSt.wake (m : MemcSt) (i : RetImage) : MemcSt :=
  { m with
    spares := i.spares
    stackTab := (foldS (fun (t : List (Nat × StackSt)) (e : Nat × Nat) =>
      tset StackSt.dflt t e.1 { tget StackSt.dflt t e.1 with spared := e.2 }) m.stackTab i.spared) }

/-- The controllers after a warm reset out of DORMANT, whose image the SRAM holds. -/
def State.wakeStacks (s : State) : MemcSt := match s.image with
  | some i => if i.target = 1 then s.memc.wake i else s.memc
  | none => s.memc

/-- A lane repair in progress ends before a warm reset (R280). -/
def State.endRepairs (s : State) : State :=
  foldS (fun (t : State) (e : Nat × Nat) => t.repairEnd (e.2 / 32) (e.2 % 32)) s s.memc.repairing

/-- Warm reset: as cold, but for stacked memory and its map and records, scratch, measurements, the debug lock and EXPIRIES; a
halt lasts (R280, R517, R521, R522, R536, R541). Out of DORMANT the lane assignments come from the retention SRAM (R489). -/
def State.warmReset (s0 : State) : State :=
  let s := s0.endRepairs
  let c := s.coldReset
  { c with
    rec' := s.rec'
    mgmt := { c.mgmt with meas := s.mgmt.meas, dbgLocked := s.mgmt.dbgLocked, expiries := s.mgmt.expiries }
    pins := { s.pins with heldInReset := s.staysHeld }
    memc := { s.wakeStacks with scrubHours := 0x18, scrubEn := true, training := false }
    mem := s.mem
    poison := s.poison
    scratch := s.scratch
    fab := { c.fab with nonce := s.fab.nonce }
    halted := s.halted
    tick := { c.tick with running := c.tick.running && !s.halted } }

/-- Cold reset of every domain other than PD00: PD00 and the recorder run on, and device time with them (R570). An entry that the
reset cuts short ends, and PWR_STATE keeps its value (R576). -/
def State.domainReset (s : State) : State :=
  let c := s.coldReset
  { c with
    now := s.now
    tick := { c.tick with start := s.now }
    rec' := s.rec'
    mgmt := { s.mgmt with
      meas := c.mgmt.meas
      respWait := []
      fwu := none
      flashBad := c.mgmt.flashBad
      loadPending := true
      boot := if s.mgmt.boot = .running then .loading else s.mgmt.boot }
    pwr := { s.pwr with fMhz := s.pwr.fmin, reason := 1, drowsed := [], waking := [], busy := false, entering := none }
    pins := s.pins
    scratch := s.scratch }

/-- COLD: the firmware's write of DEVCFG. -/
def execCold (s : State) : Host.Outcome State Fault Refusal := .next (if s.firmware then s.coldReset else s)

/-- WARM. -/
def execWarm (s : State) : Host.Outcome State Fault Refusal := .next (if s.firmware then s.warmReset else s)

/-- COLD_RESET_N held low for 1 ms. -/
def execColdResetN (s : State) : Host.Outcome State Fault Refusal := .next s.coldReset

/-- WARM_RESET_N held low for 1 ms. -/
def execWarmResetN (s : State) : Host.Outcome State Fault Refusal := .next s.warmReset

/-- AON_RESET_N: low resets every domain, holds them and the boot ROM; its rise starts it (R562). -/
def State.aonReset (s : State) (release : Bool) : State :=
  if release then
    { s with
      pins := { s.pins with aonReset := false }
      tick := { s.tick with running := if s.pins.aonReset then !s.pins.heldInReset else s.tick.running }
      mgmt := { s.mgmt with boot := if s.mgmt.boot = .held then .booting else s.mgmt.boot } }
  else
    let c := s.coldReset
    { c with
      pins := { c.pins with aonReset := true }
      tick := { c.tick with running := false }
      mgmt := { c.mgmt with boot := .held } }

/-- AON_RESET_N. -/
def execAonResetN (release : Bool) (s : State) : Host.Outcome State Fault Refusal := .next (s.aonReset release)

/-- ALWAYS_ON_RAIL_LOSS: nothing retained is left (R504); everything is held until AON_RESET_N rises again (R568). -/
def execAlwaysOnRailLoss (s : State) : Host.Outcome State Fault Refusal :=
  .next { s.aonReset false with rec' := Recorder.reset }

/-! ## Supplies and reference clocks (R569 to R572) -/

/-- In RUN: every domain but PD00 is held in reset, and what they held is lost (R570). An exit waits instead (R569). -/
def State.holdDomains (s : State) : State :=
  if s.pwr.state ≠ 0 ∨ s.pins.heldInReset ∨ s.pwr.exiting then s
  else
    let c := s.domainReset
    { c with
      pins := { c.pins with heldInReset := true }
      tick := { c.tick with running := false } }

/-- Both MAIN_PWRGD and REFCLK100 are back: a cold reset of the held domains. The tick stays stopped in recovery mode (R514). -/
def State.freeDomains (s : State) : State :=
  if s.pins.heldInReset && s.pins.mainPwrgd && s.pins.ref100 then
    let c := s.domainReset
    { c with
      pins := { c.pins with heldInReset := false }
      tick := { c.tick with running := !s.pins.aonReset && s.mgmt.boot != .recovery } }
  else s

/-- MAIN_PWRGD. -/
def execMainPwrgd (up : Bool) (s : State) : Host.Outcome State Fault Refusal :=
  let t := { s with pins := { s.pins with mainPwrgd := up } }
  .next (if up then t.freeDomains else if s.pins.mainPwrgd then t.holdDomains else t)

/-- REFCLK100_LOSS, for more than 10 µs. -/
def execRefclk100Loss (s : State) : Host.Outcome State Fault Refusal :=
  .next (State.holdDomains { s with pins := { s.pins with ref100 := false } })

/-- REFCLK100_RETURN. -/
def execRefclk100Return (s : State) : Host.Outcome State Fault Refusal :=
  .next (State.freeDomains { s with pins := { s.pins with ref100 := true } })

/-- REFCLK156_LOSS: every MAC goes down. -/
def execRefclk156Loss (s : State) : Host.Outcome State Fault Refusal :=
  .next (foldS (fun (t : State) m => t.setLink m false) { s with pins := { s.pins with ref156 := false } } (List.range 32))

/-- REFCLK156_RETURN: the MACs may train again. -/
def execRefclk156Return (s : State) : Host.Outcome State Fault Refusal :=
  .next { s with pins := { s.pins with ref156 := true } }

/-- REFCLK25_LOSS: PD00 runs from its internal oscillator. -/
def execRefclk25Loss (s : State) : Host.Outcome State Fault Refusal :=
  .next { s with pins := { s.pins with ref25 := false } }

/-- REFCLK25_RETURN. -/
def execRefclk25Return (s : State) : Host.Outcome State Fault Refusal :=
  .next { s with pins := { s.pins with ref25 := true } }

/-! ## The retention image (R485, R486) -/

/-- The RW fields of a register page. -/
def PartPage.saved (q : PartPage) : PartPage :=
  { q with
    bufState := 0, bufIndex := 0, bufCause := 0, fwuState := 0, fwuCode := 0, reject := false, rejectOffset := 0, rejectCause := 0 }

/-- The FAB fields of the image; the census nonce is kept (R403). -/
def FabSt.saved (f : FabSt) : FabSt :=
  { FabSt.reset with
    pkg := f.pkg, fabric := f.fabric, split := f.split, pmd := f.pmd, enable := f.enable, etype := f.etype, vid := f.vid
    dataPcp := f.dataPcp, ctrlPcp := f.ctrlPcp, ptpPcp := f.ptpPcp, pfcEn := f.pfcEn, failMs := f.failMs
    domain := f.domain, priority1 := f.priority1, priority2 := f.priority2, clockClass := f.clockClass
    logSync := f.logSync, logAnnounce := f.logAnnounce, hopLimit := f.hopLimit, rate := f.rate, quietS := f.quietS
    expect := f.expect, limitS := f.limitS, nonce := f.nonce }

/-- PWR_GOV, PWR_THERM and PWR_WAKE. -/
def PwrSt.saved (g : PwrSt) : List Nat :=
  [g.fmin, g.fmax, g.limit, g.tjThrottle, g.stackThrottle, g.tjCrit, g.tjWake, g.wakeAddr, if g.i3cEn then 1 else 0,
    if g.thermEn then 1 else 0]

/-- The same, restored. -/
def PwrSt.restore (g : PwrSt) (l : List Nat) : PwrSt :=
  { g with
    fmin := l.getD 0 0, fmax := l.getD 1 0, limit := l.getD 2 0, tjThrottle := l.getD 3 0, stackThrottle := l.getD 4 0
    tjCrit := l.getD 5 0, tjWake := l.getD 6 0, wakeAddr := l.getD 7 0, i3cEn := l.getD 8 0 == 1, thermEn := l.getD 9 0 == 1 }

/-- Die-link training results without the service counts. -/
def savedLinks (l : List (Nat × DieLink)) : List (Nat × DieLink) :=
  (l.map fun (e : Nat × DieLink) => (e.1, { e.2 with retrains := 0 })).filter fun (e : Nat × DieLink) => decide (e.2 ≠ DieLink.dflt)

/-! ### The image as bytes: the parts in R485's order, each of R485's size, little-endian; the place of a register within its part is
its offset in its block, or the next word (DESIGN CHOICE, log entry 18) -/

/-- Words as bytes, padded to the size of a part. -/
def partBytes (size : Nat) (words : List Nat) : List Byte := padTo size (words.flatMap (leBytes 8))

/-- The RW words of a register page, by offset. -/
def PartPage.words (g : PartPage) : List Nat :=
  [g.jobSeed, g.tdBase, g.ringBase, g.excBase, g.sentryBase, g.bufBase, g.mediaBase, g.seqBase, g.pageBase, g.pageCount, g.culletBase,
    g.lendMask % 2 ^ 64, g.lendMask / 2 ^ 64, g.drowse % 2 ^ 64, g.drowse / 2 ^ 64, g.collQuota, g.snapBase, g.snapLog2, g.fwuAddr,
    g.fwuLen, g.preempt + g.diverge * 2]

/-- FAB_ID, the FAB_PORTs, FAB_FRAME, FAB_PTP and FAB_CENSUS without their status fields. -/
def FabSt.words (f : FabSt) : List Nat :=
  [f.pkg + f.fabric * 65536] ++
  ((List.range 8).map fun p => tget 0 f.split p + tget 0 f.pmd p * 4 + tget 0 f.enable p * 16) ++
  [f.etype + f.vid * 2 ^ 16 + f.dataPcp * 2 ^ 28 + f.ctrlPcp * 2 ^ 31 + f.ptpPcp * 2 ^ 34 + (if f.pfcEn then 2 ^ 37 else 0) + f.failMs * 2 ^ 48,
    f.domain + f.priority1 * 2 ^ 8 + f.priority2 * 2 ^ 16 + f.clockClass * 2 ^ 24 + f.logSync * 2 ^ 32 + f.logAnnounce * 2 ^ 36,
    f.hopLimit + f.rate * 2 ^ 4 + f.quietS * 2 ^ 12 + f.expect * 2 ^ 20 + f.limitS * 2 ^ 37]

/-- An INJECT register. -/
def Inject.value (j : Inject) : Nat := j.part + (if j.arm then 8 else 0) + j.bit * 16

/-- Everything after the header, to the end of the 16 KiB (R484, R485). -/
def RetImage.body (i : RetImage) : List Byte :=
  let trained (kind n : Nat) : List Byte := (List.range n).map (Config.trainedByte i.gen kind)
  padTo (0x4000 - 64) (
    partBytes 512 ([0, 0] ++ (List.range 62).map (tget 0 i.scratch)) ++
    padTo 4096 (((List.range 8).flatMap fun p => partBytes 128 ((List.range 16).map (tget PartEntry.dflt i.entries p).word)) ++
      (List.range 8).flatMap fun p => partBytes 384 (tget Part.dflt.page i.pages p).words) ++
    partBytes 64 [i.period] ++
    partBytes 256 ([i.scrubHours + (if i.scrubEn then 256 else 0)] ++ (List.range 20).map (tget 0 i.retireReq)) ++
    partBytes 1024 ((List.range 4).map fun l =>
      (if (tget DieLink.dflt i.links l).trained then 1 else 0) + (if (tget DieLink.dflt i.links l).degraded then 2 else 0)) ++
    partBytes 256 [i.media.videoOff, i.media.jpegOff + i.media.inflateOff * 2 ^ 32 + i.media.audioOff * 2 ^ 48] ++
    partBytes 512 i.fab.words ++ trained 0 4096 ++ trained 1 2048 ++
    partBytes 512 [i.collInject.value, i.updInject.value] ++
    partBytes 64 [i.gov.getD 0 0 + i.gov.getD 1 0 * 2 ^ 16 + i.gov.getD 2 0 * 2 ^ 32,
      i.gov.getD 3 0 + i.gov.getD 4 0 * 2 ^ 8 + i.gov.getD 5 0 * 2 ^ 16 + i.gov.getD 6 0 * 2 ^ 24,
      i.gov.getD 7 0 + i.gov.getD 8 0 * 2 ^ 7 + i.gov.getD 9 0 * 2 ^ 8] ++
    partBytes 2048 [i.wdtPeriod, (if i.requireSession then 1 else 0) + i.updatePart * 2] ++
    padTo 512 i.meas.flatten)

/-- Bytes of header and parts (R485). -/
def retLength : Nat := 16064

/-- The CRC-64 of R429 over the rest of the image. -/
def RetImage.crcOf (i : RetImage) : Nat := i.body.foldl crc64Byte 0

/-- The image passes its CRC at the exit (R486). -/
def RetImage.crcOk (i : RetImage) : Bool := i.crc == i.crcOf

/-- The register image in retention SRAM: image length, state entered and CRC in the header, then the parts. -/
def RetImage.bytes (i : RetImage) : List Byte := padTo 64 ([retLength, i.target, i.crc].flatMap (leBytes 8)) ++ i.body

/-- Stack `s`'s region at 0x0_4000 + 0x3000 × s: the replaced data lanes of its 32 channels, the mask of channels that use a spare,
then the trained settings (R280, R484). -/
def RetImage.stackBytes (i : RetImage) (st : Nat) : List Byte :=
  ((List.range 32).map fun ch => BitVec.ofNat 8 (tget 0 i.spares (st * 32 + ch))) ++ leBytes 4 (tget 0 i.spared st) ++
    (List.range (0x3000 - 36)).map (Config.trainedByte i.gen (2 + st))

/-- The 256 KiB of retention SRAM (R484). Without an image nothing reads it, and its bytes are free (log entry 18). -/
def State.retention (s : State) : List Byte := match s.image with
  | some i => i.bytes ++ (List.range 20).flatMap i.stackBytes
  | none => (List.range 0x40000).map (Config.trainedByte s.fresh 22)

/-- The image as it is written on entry to state `target`. -/
def State.saveImage (s : State) (target : Nat) : RetImage :=
  let i : RetImage :=
    { target := target, scratch := s.scratch, entries := s.parts.map fun (e : Nat × Part) => (e.1, e.2.ent)
      pages := s.parts.map fun (e : Nat × Part) => (e.1, e.2.page.saved), period := s.tick.period
      scrubHours := s.memc.scrubHours, scrubEn := s.memc.scrubEn, retireReq := s.memc.retireReq, links := savedLinks s.links
      media := { s.media with holes := [0, 0, 0, 0, 0] }, fab := s.fab.saved, collInject := s.collInject
      updInject := s.updInject, gov := s.pwr.saved, requireSession := s.mgmt.requireSession, updatePart := s.mgmt.updatePart
      wdtPeriod := s.mgmt.wdtPeriod, meas := s.mgmt.meas, spares := s.memc.spares
      spared := (s.memc.stackTab.map fun (e : Nat × StackSt) => (e.1, e.2.spared)).filter fun (e : Nat × Nat) => e.2 != 0
      gen := s.fresh, crc := 0 }
  { i with crc := i.crcOf }

/-- The image goes back into the registers; measurements only after DORMANT (R486, R517). -/
def State.restoreImage (s : State) (i : RetImage) : State :=
  let p1 := foldS (fun (t : State) (e : Nat × PartEntry) => t.updPart e.1 fun (q : Part) => { q with
    ent := { e.2 with ready := false, error := 0 } }) s i.entries
  let p2 := foldS (fun (t : State) (e : Nat × PartPage) => t.updPart e.1 fun (q : Part) => { q with page := e.2 }) p1 i.pages
  { p2 with
    scratch := i.scratch
    tick := { p2.tick with period := i.period }
    memc := { (if i.target = 1 then p2.memc.wake i else p2.memc) with
      scrubHours := i.scrubHours, scrubEn := i.scrubEn, retireReq := i.retireReq }
    links := i.links
    media := i.media
    fab := i.fab
    collInject := i.collInject
    updInject := i.updInject
    pwr := p2.pwr.restore i.gov
    mgmt := { p2.mgmt with
      requireSession := i.requireSession
      updatePart := i.updatePart
      wdtPeriod := i.wdtPeriod
      meas := if i.target = 1 then i.meas else MgmtSt.reset.meas }
    image := none }

/-! ## Entry (R482, R483) -/

/-- A valid partition has an enabled ring. -/
def State.ringEnabled (s : State) : Bool := s.parts.any fun (e : Nat × Part) => e.2.ent.valid && !e.2.quiet

/-- The code of R482 for a request of `target`, or 0. Outside RUN only RUN can be asked for. -/
def State.goRefuse (s : State) (target : Nat) : Nat :=
  if s.jobBound then 1
  else if s.ringEnabled then 2
  else if target = 2 ∧ s.parts.any fun (e : Nat × Part) => e.2.ent.valid then 3
  else if s.memc.training || !s.memc.repairing.isEmpty || s.parts.any fun (e : Nat × Part) => e.2.life == .creating then 4
  else if target = 3 ∨ target = s.pwr.state ∨ (s.pwr.state ≠ 0 ∧ target ≠ 0) then 5
  else 0

/-- Each attachment that is up signals link down to its partner. -/
def State.dropLink (s : State) (att : Nat) : State :=
  if (s.att att).up then (s.emit (.linkDown att)).attLink att false false false else s

/-- Steps 1 and 2 of an entry. -/
def State.enter (s : State) (target : Nat) : State :=
  let s1 := foldS State.dropLink s (List.range 4)
  { s1 with
    image := some (s1.saveImage target)
    pwr := { s1.pwr with busy := true, entering := some target } }

/-- An exit begins: the image is restored, or a bad one discarded with a cold reset; STATE reads RUN (R486, R569). -/
def State.beginExit (s : State) : State :=
  match s.image with
  | none => s.coldReset
  | some i => if i.crcOk then
      let t := s.restoreImage i
      { t with
        pwr := { t.pwr with busy := true, exiting := true, state := 0 }
        memc := if i.target = 2 then { t.memc with started := false } else t.memc }
    else s.coldReset

/-- GO: PWR_CTL is written. A request while one is in progress does nothing more than set TARGET. -/
def State.goWrite (s : State) (v : Nat) : State :=
  let t := v % 4
  let s1 := { s with pwr := { s.pwr with target := t } }
  if !bitOf v 2 || s.pwr.busy then s1
  else
    let r := s.goRefuse t
    let s2 := { s1 with pwr := { s1.pwr with refuse := r } }
    if r ≠ 0 then s2 else if s.pwr.state = 0 then s2.enter t else s2.beginExit

/-- GO. -/
def execGo (value : W64) (s : State) : Host.Outcome State Fault Refusal := .next (if s.firmware then s.goWrite value.toNat else s)

/-- What a partition keeps while its domains are off: its entry and page, and what lies in stacked memory. -/
def Part.sleep (pt : Part) : Part :=
  { Part.dflt with
    ent := { pt.ent with ready := false }, life := if pt.ent.valid then .ready else .absent, page := pt.page, use := pt.use
    bufs := pt.bufs, excLog2 := pt.excLog2, excVector := pt.excVector, excCount := pt.excCount, binds := pt.binds
    swapped := pt.swapped, nextOrder := pt.nextOrder }

/-- The stacks that are shut down stay so until a cold reset (R288). -/
def MemcSt.downs (m : MemcSt) : List (Nat × StackSt) :=
  (m.stackTab.filter fun (e : Nat × StackSt) => e.2.down).map fun (e : Nat × StackSt) =>
    (e.1, { StackSt.dflt with down := true, refresh := 3 })

/-- Stack state that the powered-down controllers lose in DORMANT: counts, temperatures and erasures; settings and lane assignments
are in the retention SRAM (R484, R485). -/
def MemcSt.sleep (m : MemcSt) : MemcSt := { m with lanes := [], spares := [], stackTab := m.downs }

/-- The mask of the domains that leave RUN: PD01 to PD19, PD07 only where debug runs (R475, R477, R491). -/
def State.leaving (s : State) : Nat := 2 ^ 20 - 2 - (if s.mgmt.dbgEn then 0 else 2 ^ 7)

/-- Steps 3 to 5: the domains are switched. Stacked memory, accumulators and residency records are kept in DORMANT. -/
def State.switchOff (s : State) (target : Nat) : State :=
  let keep := decide (target = 1)
  { s with
    tick := { TickSt.reset with running := false }
    ptp := PtpSt.reset
    sec := { s.sec with conns := [], sessions := [], ideKeys := [] }
    pwr := { s.pwr with
      padHeld := s.pwr.padHeld ||| s.leaving
      drowsed := []
      waking := [] }
    links := []
    media := MediaRegs.reset
    collInject := Inject.reset
    updInject := Inject.reset
    memc := if keep then s.memc.sleep else { MemcSt.reset with retireReq := s.memc.retireReq }
    mem := if keep then s.mem else []
    poison := if keep then s.poison else []
    fab := { FabSt.reset with nonce := s.fab.nonce }
    macs := []
    chans := []
    acc := if keep then s.acc else []
    accGen := if keep then s.accGen else []
    res := if keep then s.res else []
    clbuf := if keep then s.clbuf else []
    opbuf := if keep then s.opbuf else []
    chipFixed := []
    vec := if keep then s.vec else []
    upd := []
    atts := s.resetAtts
    parts := (tmap (fun _ (q : Part) => q.sleep) s.parts).filter fun (e : Nat × Part) => decide (e.2 ≠ Part.dflt)
    served := [] }

/-- Step 6: PD00 stops its clocks and arms its wake logic; a latched wake source restarts it at once (R490). Whether the image
will still pass its CRC at the exit (R486) no rule says: an error in it is free (log entry 6). -/
def State.sleepNow (s : State) (target : Nat) : State :=
  let (x, s1) := s.freeBelow 2
  let t := (s1.record srcPower 0x0601 sevInfo none 0 []).switchOff target
  { t with
    image := s.image.map fun (i : RetImage) => { i with crc := i.crc ^^^ x }
    pwr := { t.pwr with
      state := target
      busy := false
      entering := none
      clocksStopped := t.pwr.wakeLatched == 0
      wakeCause := t.pwr.wakeCause ||| t.pwr.wakeLatched
      wakeLatched := 0 } }

/-- A halted package: compute is powered down as in OFF and STATE keeps its value (R496, R576). It stays out of service, and training
is not armed again (R288, R289). -/
def State.sleepHalted (s : State) : State :=
  let t := s.switchOff 2
  { t with
    memc := { t.memc with started := s.memc.started, stackTab := s.memc.downs }
    pwr := { t.pwr with
      busy := false
      entering := none
      wakeLatched := 0 } }

/-- PACKAGE_STATE_ENTERED. -/
def execPackageStateEntered (s : State) : Host.Outcome State Fault Refusal :=
  .next (match s.pwr.entering with
    | none => s
    | some t => if s.halted then s.sleepHalted else s.sleepNow t)

/-! ## Exit (R487) -/

/-- Every valid partition is presented as after a Function Level Reset. -/
def Part.wakeUp (pt : Part) : Part :=
  if pt.ent.valid then
    { pt with
      life := .ready
      ent := { pt.ent with ready := true } }
  else pt

/-- PACKAGE_STATE_EXIT_COMPLETE, once MAIN_PWRGD shows the rails of RUN; RUN is recorded (R502). Without REFCLK100 the domains are
held at once (R570). -/
def State.exitDone (s : State) : State :=
  if !s.pwr.exiting || !s.pins.mainPwrgd then s
  else
    let t := { s with
      tick := { TickSt.reset with period := s.tick.period, start := s.now }
      fab := { s.fab with step := 3, started := false, linkLate := false }
      parts := tmap (fun _ (q : Part) => q.wakeUp) s.parts
      pwr := { s.pwr with busy := false, exiting := false, fMhz := s.pwr.fmin, reason := 1 } }.record srcPower 0x0601 sevInfo none 0 []
    if s.pins.ref100 then t else t.holdDomains

/-- PACKAGE_STATE_EXIT_COMPLETE. -/
def execPackageStateExitComplete (s : State) : Host.Outcome State Fault Refusal := .next s.exitDone

/-! ## Wake and pads (R488 to R491) -/

/-- A wake source: latched during an entry; while PD00 is stopped it restarts PD00; outside RUN its bit is noted (R523). -/
def State.wake (s : State) (bit : Nat) : State :=
  if s.pwr.entering.isSome then { s with pwr := { s.pwr with wakeLatched := s.pwr.wakeLatched ||| bit } }
  else if s.pwr.state = 0 then s
  else { s with pwr := { s.pwr with
      wakeCause := s.pwr.wakeCause ||| bit
      clocksStopped := false } }

/-- The address is the static one, or the dynamic one while I3C is enabled (R488). -/
def State.addressMatch (s : State) (addr : Nat) : Bool :=
  decide (addr = s.pwr.wakeAddr) || (s.pwr.i3cEn && s.mgmt.dynAddr == some addr)

/-- WAKE_ADDRESS_MATCH: while PD00 answers the bus itself there is nothing to wake. -/
def execWakeAddressMatch (addr : Nat) (s : State) : Host.Outcome State Fault Refusal :=
  .next (if s.addressMatch addr && (s.pwr.clocksStopped || s.pwr.entering.isSome) then s.wake 1 else s)

/-- THERMAL_ALERT. -/
def execThermalAlert (temp : Nat) (s : State) : Host.Outcome State Fault Refusal :=
  .next (if s.pwr.thermEn && decide (s.pwr.tjWake ≤ temp) then s.wake 2 else s)

/-- RELEASE: the pads of the domains whose bits are 1 are released. -/
def execRelease (value : W64) (s : State) : Host.Outcome State Fault Refusal :=
  .next (if s.firmware then
    { s with pwr := { s.pwr with padHeld := s.pwr.padHeld - (s.pwr.padHeld &&& value.toNat) } }
  else s)

end Sys2Proof.Machine
end

