-- ==== Sys2Proof/Machine/Firmware.lean ====
section
/-!
DEFINITION. Management processor and firmware: the recorder's control and log, the watchdog, the firmware image, boot, recovery
and updates, debug (R497 to R506, R511 to R517, R521, R523, R549).
-/

namespace Sys2Proof.Machine

/-! ## Control of the recorder (R503, R505, R506) -/

/-- Freeze the recorder without a FATAL record. -/
def State.freezeRec (s : State) : State := { s with rec' := { s.rec' with frozen := true } }

/-- First address of the log and of the spill slots (R506). -/
def logBase : Nat := 0x1DFF4000000
def spillBase : Nat := 0x1DFF8000000
def stagingBase : Nat := 0x1DFEC000000

/-- Copy the recorder to spill slot `k`. -/
def State.spill (s : State) (k : Nat) : State :=
  let a := spillBase + 0x200000 * (k % 4)
  foldS (fun (t : State) (e : Nat × List Byte) => t.wrBytes (a + 64 * e.1) e.2) (s.zeroRange a 0x200000) s.rec'.recs

/-- Unfreeze: the spill where memory serves, then FROZEN and DROPPED clear. -/
def State.unfreezeRec (s : State) : State :=
  let t := if s.powered && s.memServes then s.spill s.rec'.unfreezes else s
  { t with rec' := { t.rec' with frozen := false, dropped := 0, unfreezes := t.rec'.unfreezes + 1 } }

/-- FREEZE. -/
def execFreeze (s : State) : Host.Outcome State Fault Refusal := .next (if s.firmware then s.freezeRec else s)

/-- UNFREEZE. -/
def execUnfreeze (s : State) : Host.Outcome State Fault Refusal := .next (if s.firmware then s.unfreezeRec else s)

/-- The record of a SEQ, if it still lies in the recorder. -/
def Recorder.find (r : Recorder) (seq : Nat) : Option (List Byte) :=
  (tlook r.recs (seq % 32768)).bind fun l => if leNat (l.take 4) = seq then some l else none

/-- Drain the next record: one that has wrapped is passed over, to the oldest that is left (R505). -/
def State.drainOne (s : State) : State :=
  let q := s.rec'
  if q.drained = q.nextSeq then s
  else
    let behind := (q.nextSeq - q.drained).toNat
    let seq := if 32768 < behind then q.nextSeq - BitVec.ofNat 32 32768 else q.drained
    match q.find seq.toNat with
    | some l => { s.wrBytes (logBase + 64 * (seq.toNat % 2 ^ 20)) l with rec' := { q with drained := seq + 1 } }
    | none => { s with rec' := { q with drained := seq + 1 } }

def State.drain (s : State) : Nat → State
  | 0 => s
  | n + 1 => s.drainOne.drain n

/-- RECORDER_DRAIN of up to `count` records, while memory serves. -/
def execRecorderDrain (count : Nat) (s : State) : Host.Outcome State Fault Refusal :=
  .next (if s.firmware && s.powered && s.memServes then s.drain count else s)

/-- The record of a SEQ in the log. A log slot of zeros holds none. -/
def State.logFind (s : State) (seq : Nat) : Option (List Byte) :=
  let a := logBase + 64 * (seq % 2 ^ 20)
  if s.isPoison a || s.rdN a 4 != seq || s.rdN (a + 4) 4 == 0 then none else some (s.rdBytes a 64)

/-! ## The watchdog (R497, R499, R523) -/

/-- The boot ROM enters recovery mode; where start-up step 1 was never carried out the tick is not started (R514). -/
def State.recover (s : State) : State :=
  { s with
    tick := { s.tick with running := s.tick.running && !s.mgmt.loadPending }
    mgmt := { s.mgmt with boot := .recovery } }

/-- A watchdog expiry at device time `t`: the management processor alone is reset; after three within 60 s the boot ROM enters
recovery. -/
def State.expire (s0 : State) (t : Nat) : State :=
  let s := ((s0.advance t).record srcManagement 0x0002 sevError none 0 []).abandonUpdate
  let times := (s.mgmt.expiryTimes.filter fun x => decide (s.now < x + 60000000000)) ++ [s.now]
  let u := if 3 ≤ times.length then s.recover else { s with mgmt := { s.mgmt with boot := .restarting } }
  { u with mgmt := { u.mgmt with
      expiries := min 255 (s.mgmt.expiries + 1)
      expiryTimes := times
      nonce := none
      respWait := []
      tableSeen := false } }

/-- The watchdog counts while firmware runs; PERIOD_MS have passed since the last KICK. -/
def State.overdue (s : State) (t : Nat) : Bool := s.firmware && decide (s.mgmt.lastKick + s.mgmt.wdtPeriod * 1000000 ≤ t)

/-- WATCHDOG_EXPIRY. -/
def execWatchdogExpiry (t : Nat) (s : State) : Host.Outcome State Fault Refusal := .next (if s.overdue t then s.expire t else s)

/-- KICK. -/
def execKick (s : State) : Host.Outcome State Fault Refusal :=
  .next (if s.firmware then { s with mgmt := { s.mgmt with lastKick := s.now } } else s)

/-- MANAGEMENT_ECC_ERROR, while the processor executes, be it the boot ROM: corrected and recorded, or handled as a watchdog
expiry (R497). -/
def execManagementEccError (uncorrectable : Bool) (t : Nat) (s : State) : Host.Outcome State Fault Refusal :=
  .next (if s.pwr.clocksStopped || s.mgmt.boot == .held then s
    else if uncorrectable then s.expire t
    else (s.advance t).record srcManagement 0x0003 sevWarn none 0 [])

/-! ## The firmware image (R512, R513) -/

/-- Little-endian field of an image. -/
def imageN (l : List Byte) (o n : Nat) : Nat := leNat (sliceList l o n)

def imageVersion (l : List Byte) : Nat := imageN l 4 4
def imageSvn (l : List Byte) : Nat := imageN l 8 2
def imageCount (l : List Byte) : Nat := imageN l 0xC 4
/-- Bytes of header and table. -/
def imageHead (l : List Byte) : Nat := 0x80 + 96 * imageCount l
/-- The bytes of component `i`, and its digest in the table. -/
def imageComp (l : List Byte) (i : Nat) : List Byte :=
  sliceList l (imageN l (0x80 + 96 * i + 8) 8) (imageN l (0x80 + 96 * i + 16) 8)
def imageDigest (l : List Byte) (i : Nat) : List Byte := sliceList l (0x80 + 96 * i + 32) 64

/-- The header and table can be read: its fields are in range and every component lies in the image (step 1). -/
def imageReadable (l : List Byte) : Bool :=
  decide (imageN l 0 4 = 0x4C4D4B49 ∧ imageSvn l < 64 ∧ imageN l 0xA 2 < 2 ∧ 1 ≤ imageCount l ∧ imageCount l ≤ 64 ∧
    imageN l 0x10 4 ≤ 0x3FF0000 ∧ imageN l 0x10 4 ≤ l.length ∧ imageHead l + 29792 ≤ imageN l 0x10 4 ∧ imageN l 0x14 44 = 0 ∧
    imageN l 0x90 8 ≤ 0x180000) &&
  (List.range (imageCount l)).all fun i =>
    decide (imageN l (0x80 + 96 * i + 8) 8 + imageN l (0x80 + 96 * i + 16) 8 ≤ imageN l 0x10 4 ∧
      imageN l (0x80 + 96 * i + 4) 4 = 0 ∧ imageN l (0x80 + 96 * i + 24) 8 = 0)

/-- The root slot, not revoked, whose hash a public key has (R513, R521). -/
def State.rootSlotOf (s : State) (pub : List Byte) : Option Nat :=
  (List.range 4).find? fun k => !bitOf s.fuse.revoked k && s.fuse.rootHash.getD k [] == shake512 pub

/-- The public key of an image. -/
def imageKey (l : List Byte) : List Byte := sliceList l 0x40 64

/-- The first of steps 1 to 4 of R513 that fails, or 0. -/
def State.imageFault (s : State) (l : List Byte) : Nat :=
  if !imageReadable l then 1
  else if (s.rootSlotOf (imageKey l)).isNone then 2
  else if !Config.slhVerify 0 (imageKey l) (l.take (imageHead l)) (sliceList l (imageHead l) 29792) then 3
  else if imageSvn l < s.fuse.svn then 4
  else 0

/-! ## Boot (R401, R511, R513, R514, R517) -/

/-- What boot finds: the step that fails or 0, the root slot, version, SVN and COMMIT_SVN of the image, the digests M1 and M2 are
extended by, those of the other components, and whether these match. -/
structure BootImage where
  fault : Nat
  slot : Nat
  version : Nat
  svn : Nat
  commit : Bool
  head : List Byte
  first : List Byte
  others : List (List Byte)
  othersOk : Bool
deriving DecidableEq, Repr

/-- The image in flash as the boot ROM reads it. -/
def State.readImage (s : State) (l : List Byte) (b : BootResult) : BootImage :=
  let n := imageCount l
  let f := s.imageFault l
  { fault := if f ≠ 0 then f else if shake512 (imageComp l 0) ≠ imageDigest l 0 then 5 else if 5 ≤ b.failStep then b.failStep else 0
    slot := (s.rootSlotOf (imageKey l)).getD 0, version := imageVersion l, svn := imageSvn l, commit := bitOf (imageN l 0xA 2) 0
    head := shake512 (l.take (imageHead l)), first := imageDigest l 0
    others := (List.range (n - 1)).map fun i => imageDigest l (i + 1)
    othersOk := b.compOk && (List.range (n - 1)).all fun i => shake512 (imageComp l (i + 1)) == imageDigest l (i + 1) }

/-- An image whose bytes no rule gives: what the boot ROM finds is the operand's, its fields and digests are free (log entry
6). -/
def State.freeImage (s : State) (b : BootResult) : BootImage × State :=
  let (x1, s1) := s.freeBelow (2 ^ 32)
  let (x2, s2) := s1.freeBelow (64 - s.fuse.svn % 64)
  let (x3, s3) := s2.freeBelow 4
  let (x4, s4) := s3.freeBelow 2
  let (d1, s5) := s4.free
  let (d2, s6) := s5.free
  let (d3, s7) := s6.free
  ({ fault := b.failStep, slot := x3, version := x1, svn := s.fuse.svn % 64 + x2, commit := x4 == 1, head := leBytes 64 d1,
     first := leBytes 64 d2, others := [leBytes 64 d3], othersOk := b.compOk }, s7)

/-- What the boot ROM reads. -/
def State.bootImage (s : State) (b : BootResult) : BootImage × State :=
  if s.mgmt.flashBad then ({ s.readImage [] b with fault := 1 }, s)
  else if s.mgmt.flash.isEmpty then s.freeImage b
  else (s.readImage s.mgmt.flash b, s)

/-- A verification failure puts the boot ROM into recovery mode. -/
def State.toRecovery (s : State) : State := (s.record srcSecurity 0x0701 sevError none 0 []).recover

/-- Steps 6 and 7: measurements are extended and the management stage runs. -/
def State.stageRuns (s : State) (i : BootImage) : State :=
  let t := ((s.extend 0 (leBytes 4 Config.bootRomVersion ++ leBytes 1 i.slot ++ leBytes 1 s.fuse.revoked ++ leBytes 1 s.fuse.svn)).extend 1
    i.head).extend 2 i.first
  { t with mgmt := { t.mgmt with
      boot := .running
      rootSlot := i.slot
      version := i.version
      svn := i.svn
      lastKick := t.now } }

/-- COMMIT_SVN advances the fused SVN. -/
def State.commitSvn (s : State) (i : BootImage) : State :=
  if i.commit && decide (s.fuse.svn < i.svn) then
    { s with fuse := { s.fuse with svn := i.svn } }.record srcSecurity 0x0704 sevInfo none 0 []
  else s

/-- The persistent record as management firmware reads it: one whose CRC fails is empty, and that is logged (R511). -/
def State.readRecord (s : State) (ok : Bool) : State :=
  if ok then s
  else { s with mgmt := { s.mgmt with
      retireRecord := List.replicate 20 0
      recordLost := s.mgmt.recordLost + 1 } }

/-- The persistent record is read; before training its requests go into MEMC_RETIRE_REQ (R278, R511). -/
def State.loadRetire (s : State) (ok : Bool) : State :=
  let t := s.readRecord ok
  if t.memc.started then t else t.placeRetire

/-- TRAIN: firmware's write starts training, once, in RUN, after its own boot and the requests of the retire record (R276, R278, R511). -/
def execTrain (s : State) : Host.Outcome State Fault Refusal :=
  .next (if s.memc.started || s.halted || !s.setsUp || s.mgmt.boot != .running then s
    else
      let t := s.placeRetire
      { t with memc := { t.memc with
          started := true
          training := true } })

/-- First address of the firmware components loaded from flash (R506). -/
def componentBase : Nat := 0x1DFF0000000

/-- The components of an image but the first whose TARGET is the reserve region, as they lie there: one after the other in table order
(DESIGN CHOICE, log entry 19). -/
def imageLoaded (l : List Byte) : List Byte :=
  (List.range (imageCount l - 1)).flatMap fun i =>
    if Config.reserveTarget (imageN l (0x80 + 96 * (i + 1) + 2) 2) then imageComp l (i + 1) else []

/-- The components go into the reserve region once step 1 of start-up is done and memory serves (R506, R512, R513). Those of the
image the package was shipped with, whose bytes no rule gives, are not placed (log entry 19). -/
def State.placeComponents (s : State) : State :=
  if s.mgmt.loadPending || !s.memServes || s.mgmt.flash.isEmpty then s
  else s.wrBytes componentBase ((imageLoaded s.mgmt.flash).take 0x4000000)

/-- The management stage after a reset of the package: self-test of the arrays, the other components, the retire record, and step
1 of start-up. -/
def State.loadAll (s0 : State) (i : BootImage) (b : BootResult) : State :=
  let s := { s0 with mgmt := { s0.mgmt with loadPending := false } }
  match b.badSram with
  | some (die, cl) => s.record srcManagement 0x0005 sevError none die (leBytes 2 (die % 4 + cl % 256 * 256))
  | none =>
    if !i.othersOk then s.record srcSecurity 0x0701 sevError none 0 []
    else
      let s1 := foldS (fun (t : State) d => t.extend 3 d) s i.others
      let s2 := (s1.commitSvn i).record srcManagement 0x0001 sevInfo none 0 []
      let s3 := s2.loadRetire b.recordOk
      ({ s3 with fab := { s3.fab with step := 1 } }).settleStart.placeComponents

/-- An image of R511 has a length. -/
def imageSizeOk (n : Nat) : Bool := decide (1 ≤ n ∧ n ≤ 0x3FF0000)

/-- The registered, device-owned buffer a driver's image lies in. -/
def State.fwuBuffer (s : State) (pt : Part) : Bool :=
  imageSizeOk pt.page.fwuLen && pt.bufs.any fun (e : Nat × RegBuf) =>
    decide (e.2.base ≤ pt.page.fwuAddr ∧ pt.page.fwuAddr + pt.page.fwuLen ≤ e.2.base + e.2.len) && s.deviceOwns e.2

/-- A refused or failed start shows its code. -/
def State.fwuFail (s : State) (p code : Nat) : State :=
  s.updPart p fun (q : Part) => { q with page := { q.page with
    fwuState := 3
    fwuCode := code } }

/-- Management firmware takes up a page's START: refused for another partition, recorded; else the image is copied to staging. -/
def State.fwuTake (s : State) (p : Nat) : State :=
  let pt := s.part p
  if s.mgmt.updatePart ≠ p then (s.fwuFail p 1).record srcManagement 0x0004 sevWarn (some p) 0 (leBytes 1 0)
  else if s.mgmt.fwu.isSome then s.fwuFail p 5
  else if !s.fwuBuffer pt then s.fwuFail p 2
  else
    let img := s.rdBytes pt.page.fwuAddr pt.page.fwuLen
    let bad := (s.poisonIn pt.page.fwuAddr pt.page.fwuLen).isSome
    { s.wrBytes stagingBase img with mgmt := { s.mgmt with fwu := some ⟨true, some p, img.length, img, bad, pt.page.fwuAddr⟩ } }

/-- PART_FWU_CMD: busy from the write on; management firmware takes it up at once where it runs, else when it runs again (R499,
R516, R547; log entry 20). -/
def State.fwuStart (s : State) (p v : Nat) : State :=
  if (s.part p).page.fwuState = 1 then s.setPart p ((s.part p).rejectPage 0xB0 1)
  else if !bitOf v 0 then s
  else
    let t := s.updPart p fun (q : Part) => { q with page := { q.page with
      fwuState := 1
      fwuCode := 0 } }
    if s.firmware then t.fwuTake p else t

/-- A page shows an update that firmware has not taken up, or that a reset of the management processor has abandoned. -/
def State.fwuWaits (s : State) (p : Nat) : Bool :=
  (s.part p).page.fwuState == 1 && !s.mgmt.fwu.any fun (f : Fwu) => f.part == some p

/-- Firmware that runs again takes up the updates that wait, in order of the partitions (log entry 20). -/
def State.resumeUpdates (s : State) : State :=
  if s.firmware then foldS (fun (t : State) p => if t.fwuWaits p then t.fwuTake p else t) s (List.range 8) else s

/-- Step 1 of start-up waits until the domains it tests and loads are powered and out of reset (R513, R568, R570). -/
def State.loadOrWait (s : State) (i : BootImage) (b : BootResult) : State :=
  if s.powered then { s with mgmt := { s.mgmt with boot := .running } }.loadAll i b
  else { s with mgmt := { s.mgmt with boot := .loading } }

/-- The management stage runs again after a reset of the processor: at once where step 1 of start-up was done before, else with it. -/
def State.stageGoes (s : State) (i : BootImage) (b : BootResult) : State :=
  if !s.mgmt.loadPending then s.record srcManagement 0x0001 sevInfo none 0 []
  else { s with mgmt := { s.mgmt with pendingVersion := none } }.loadOrWait i b

/-- BOOT_COMPLETE: after a reset of the package, of the management processor alone, or of the other domains. -/
def State.boot (s : State) (b : BootResult) : State :=
  let m := s.mgmt.boot
  if s.pwr.clocksStopped || (m != .booting && m != .restarting && m != .loading) then s
  else
    let (i, t) := s.bootImage b
    if m = .loading then t.loadOrWait i b
    else if i.fault ≠ 0 then t.toRecovery
    else ((t.stageRuns i).stageGoes i b).resumeUpdates

/-- BOOT_COMPLETE. -/
def execBootComplete (b : BootResult) (s : State) : Host.Outcome State Fault Refusal := .next (s.boot b)

/-! ## Updates in service (R515, R516, R549, R557) -/

/-- An update ends: the driver's page shows the result, then the buffer its image lay in is released with OWNER 0 and the next
generation, at which waits test their conditions (R182, R247, R549). -/
def State.endFwu (s : State) (f : Fwu) (code : Nat) : State :=
  match f.part with
  | none => s
  | some p =>
    let s1 := s.updPart p fun (q : Part) => { q with page := { q.page with
      fwuState := if code = 0 then 2 else 3
      fwuCode := code } }
    let pt := s1.part p
    match pt.bufs.find? fun (e : Nat × RegBuf) => decide (e.2.base ≤ f.addr ∧ f.addr < e.2.base + e.2.len) with
    | some (_, b) => if s1.deviceOwns b then (s1.wrN b.flag 8 ((s1.rdN b.flag 8 % 2 ^ 48 + 1) % 2 ^ 48)).testWaits p else s1
    | none => s1

/-- FIRMWARE_UPDATE_COMPLETE of a whole image: an image that does not verify leaves flash alone (code 3); `code` 4 is a flash write
or read-back that failed; else the image is in flash and pending. -/
def State.updateEnds (s : State) (code : Nat) (erased : Bool) : State :=
  match s.mgmt.fwu with
  | none => s
  | some f =>
    if f.size = 0 || f.image.length != f.size then s
    else
      let s1 := { s with mgmt := { s.mgmt with fwu := none } }
      if f.poisoned || s.imageFault f.image != 0 then (s1.record srcSecurity 0x0701 sevError none 0 []).endFwu f 3
      else if code ≠ 0 then
        ({ s1 with mgmt := { s1.mgmt with flashBad := s1.mgmt.flashBad || erased } }).endFwu f 4
      else
        (({ s1 with mgmt := { s1.mgmt with
          flash := f.image
          flashBad := false
          pendingVersion := some (imageVersion f.image) } }).record srcSecurity 0x0703 sevInfo none 0 []).endFwu f 0

/-- FIRMWARE_UPDATE_COMPLETE. -/
def execFirmwareUpdateComplete (code : UpdateEnd) (erased : Bool) (s : State) : Host.Outcome State Fault Refusal :=
  .next (if s.firmware then (s.findAll 0 0 code.found).updateEnds code.code erased else s)

/-- PART_FWU_CMD. -/
def execPartFwuCmd (h : Port) (v : Written) (s : State) : Host.Outcome State Fault Refusal :=
  .next (s.pageWrite h fun t p => (t.findAll 0 0 v.found).fwuStart p v.value.toNat)

/-! ## Updates by PLDM, in service and in recovery (R514, R515) -/

/-- A response of a message type: completion code and data. -/
def State.mctp (s : State) (typ code : Nat) (data : List Byte) : State := s.emit (.mctp typ code data)

/-- PLDM firmware update is answered: in service, or by the boot ROM in recovery mode. -/
def State.pldmUp (s : State) : Bool := !s.pwr.clocksStopped && s.pwr.state == 0 && (s.firmware || s.mgmt.boot == .recovery)

/-- A PLDM update is under way. -/
def State.pldmUpdate (s : State) : Option Fwu := s.mgmt.fwu.bind fun (f : Fwu) => if f.host then none else some f

/-- REQUEST_UPDATE: one update at a time. -/
def execRequestUpdate (s : State) : Host.Outcome State Fault Refusal :=
  .next (if !s.pldmUp then s
    else if s.mgmt.fwu.isSome then s.mctp 1 1 []
    else ({ s with mgmt := { s.mgmt with fwu := some ⟨false, none, 0, [], false, 0⟩, tableSeen := false } }).mctp 1 0 [])

/-- PASS_COMPONENT_TABLE: one component, the whole image. -/
def execPassComponentTable (comps : Nat) (s : State) : Host.Outcome State Fault Refusal :=
  .next (if !s.pldmUp then s
    else if s.pldmUpdate.isNone || comps != 1 then s.mctp 1 1 []
    else ({ s with mgmt := { s.mgmt with tableSeen := true } }).mctp 1 0 [])

/-- UPDATE_COMPONENT: the image's size. -/
def execUpdateComponent (size : Nat) (s : State) : Host.Outcome State Fault Refusal :=
  .next (if !s.pldmUp then s
    else match s.pldmUpdate with
      | some f => if s.mgmt.tableSeen && f.size == 0 && imageSizeOk size then
          ({ s with mgmt := { s.mgmt with fwu := some { f with size := size } } }).mctp 1 0 []
        else s.mctp 1 1 []
      | none => s.mctp 1 1 [])

/-- A piece arrives: into staging in service, into flash in recovery. -/
def State.storePiece (s : State) (f : Fwu) (piece : List Byte) : State :=
  let f1 := { f with image := f.image ++ piece }
  let t := if s.mgmt.boot = .recovery then
      { s with mgmt := { s.mgmt with flash := f1.image, flashBad := decide (f1.image.length < f1.size) } }
    else (s.noteAccess (stagingBase + f.image.length) piece.length true).wrBytes (stagingBase + f.image.length) piece
  { t with mgmt := { t.mgmt with fwu := some f1 } }

/-- The whole image has arrived in recovery mode: verified, the package resets; else VerifyComplete reports failure. -/
def State.recoveryDone (s : State) : State :=
  let t := { s with mgmt := { s.mgmt with fwu := none } }
  if s.imageFault s.mgmt.flash = 0 then t.coldReset else t.mctp 1 1 []

/-- REQUEST_FIRMWARE_DATA: the response to the device's request for the next piece, of at most 1 MiB. -/
def State.takePiece (s : State) (offset : Nat) (piece : List Byte) : State :=
  match s.pldmUpdate with
  | none => s
  | some f =>
    if offset ≠ f.image.length ∨ piece.length = 0 ∨ 2 ^ 20 < piece.length ∨ f.size < f.image.length + piece.length then s
    else
      let t := s.storePiece f piece
      if s.mgmt.boot = .recovery ∧ f.image.length + piece.length = f.size then t.recoveryDone else t

/-- REQUEST_FIRMWARE_DATA. -/
def execRequestFirmwareData (offset : Nat) (piece : List Byte) (s : State) : Host.Outcome State Fault Refusal :=
  .next (if s.pldmUp then s.takePiece offset piece else s)

/-- ACTIVATE_FIRMWARE: no self-contained activation; the new image runs from the next reset. -/
def execActivateFirmware (selfContained : Bool) (s : State) : Host.Outcome State Fault Refusal :=
  .next (if !s.pldmUp then s else s.mctp 1 (if selfContained || s.mgmt.pendingVersion.isNone then 1 else 0) [])

/-! ## Training ends (R276, R506) -/

/-- TRAINING_COMPLETE; the components loaded from flash go into the reserve. -/
def execTrainingComplete (faults : List ChanFault) (s : State) : Host.Outcome State Fault Refusal :=
  .next (if s.memc.training then (s.trainEnd faults).placeComponents else s)

/-! ## Debug (R521) -/

/-- LOCK. -/
def execLock (s : State) : Host.Outcome State Fault Refusal :=
  .next (if s.firmware then
    let t := s.setDbg false
    { t with mgmt := { t.mgmt with dbgLocked := true } }
  else s)

/-- NONCE_EXPIRY. -/
def execNonceExpiry (s : State) : Host.Outcome State Fault Refusal := .next { s with mgmt := { s.mgmt with nonce := none } }

end Sys2Proof.Machine
end

