-- ==== Sys2Proof/Machine/Mgmt.lean ====
section
/-!
DEFINITION. Commands of the platform: vendor-defined messages, MCTP control, PLDM monitoring (R500, R507 to R511, R521, R523).

R509 names the parameters of a command and gives no layout; log entry 13 says how a message's bytes carry them.
-/

namespace Sys2Proof.Machine

/-! ## Messages and responses (R508 to R510) -/

/-- How a command ends: its data, a refusal with the device's own code, NOT_NOW, BUSY, malformed, or a response that follows
later. -/
inductive CmdEnd where
  | ok (data : List Byte)
  | refused (code : Nat)
  | notNow
  | busy
  | invalid
  | later
deriving DecidableEq, Repr

/-- The message came in a session of the platform: established, its requester verified, with the chain of slot 1 (R509, R518). -/
def State.sessionOk (s : State) (m : Msg) : Bool :=
  match m.session with
  | none => false
  | some i => s.sec.sessions.any fun (x : Session) =>
      x.id == i && x.established && x.verified && x.chain == s.sec.slot1 && !s.sec.slot1.isEmpty

/-- Send the response of a command. -/
def State.respond (s : State) (m : Msg) (cmd code : Nat) (data : List Byte) : State := s.emit (.resp cmd m.req code data)

/-- A refusal or NOT_NOW is recorded. -/
def State.noteRefused (s : State) (cmd : Nat) : State := s.record srcManagement 0x0004 sevWarn none 0 (leBytes 1 cmd)

/-- Answer a command as it ended. -/
def State.answer (s : State) (m : Msg) (cmd : Nat) : CmdEnd → State
  | .ok data => s.respond m cmd 0 data
  | .refused c => (s.noteRefused cmd).respond m cmd 2 (leBytes 1 c)
  | .notNow => (s.noteRefused cmd).respond m cmd 5 []
  | .busy => s.respond m cmd 3 []
  | .invalid => s.respond m cmd 1 []
  | .later => s

/-- In DORMANT and OFF only these are answered otherwise than NOT_NOW (R510). -/
def sleepCommand (cmd : Nat) : Bool := cmd == 0x01 || cmd == 0x02 || cmd == 0x05 || cmd == 0x30

/-- The commands of R509. -/
def commandCodes : List Nat :=
  [0x01, 0x02, 0x03, 0x04, 0x05, 0x10, 0x11, 0x12, 0x13, 0x20, 0x21, 0x22, 0x23, 0x24, 0x30, 0x31, 0x32, 0x40, 0x41]

/-- These write blocks of domains other than PD00, and wait until those run; PARTITION_SET answers for itself (R510, R523, R570). -/
def domainCommand (cmd : Nat) : Bool := decide (0x11 ≤ cmd ∧ cmd < 0x30)

/-- A message whose COMMAND byte is not this row's: an unknown code is INVALID, outside RUN NOT_NOW; another command's is that command's
row (R508, R510). -/
def State.otherCommand (s : State) (m : Msg) : State :=
  if commandCodes.contains m.cmd then s
  else s.answer m m.cmd (if s.pwr.state ≠ 0 then .notNow else .invalid)

/-- A command: unanswered while no firmware runs, NOT_NOW in a state that does not allow it, NO_SESSION where it needs a session,
else carried out by `f`. -/
def State.command (s : State) (m : Msg) (cmd : Nat) (secured : Bool) (f : State → CmdEnd × State) : State :=
  if !s.firmware then s
  else if m.cmd ≠ cmd then s.otherCommand m
  else if (s.pwr.state ≠ 0 ∧ !sleepCommand cmd) ∨ (domainCommand cmd ∧ !s.powered) then s.answer m cmd .notNow
  else if secured && s.mgmt.requireSession && s.pwr.state == 0 && !s.sessionOk m then s.respond m cmd 4 []
  else let (e, t) := f s; t.answer m cmd e

/-- A command that changed the state is recorded with its code (R509). -/
def State.noteCommand (s : State) (cmd : Nat) (part : Option Nat) : State :=
  s.record srcManagement cmd sevInfo part 0 (leBytes 1 cmd)

/-- A state-changing command of a parameter length: malformed unless `ok`. -/
def change (cmd : Nat) (part : Option Nat) (ok : Bool) (f : State → State) (s : State) : CmdEnd × State :=
  if ok then (.ok [], (f s).noteCommand cmd part) else (.invalid, s)

/-- Parameter field of a message. -/
def paramN (m : Msg) (o n : Nat) : Nat := leNat (sliceList m.params o n)

/-! ## Information and recorder -/

/-- MGMT_ID (R522). -/
def State.mgmtId (s : State) : Nat := s.fuse.pen % 2 ^ 32 + (if s.fuse.gradeB then 2 ^ 32 else 0)

/-- A fresh random string (log entry 8). -/
def State.random (s : State) (n : Nat) : List Byte × State :=
  ((List.range n).map (Config.randomByte s.fresh), { s with fresh := s.fresh + 1 })

/-- GET_INFO: identity, running and pending version, SVN, package state, start-up step, the partitions that are READY, and the new
nonce as the last 32 bytes (R509, R515, R521, R523). -/
def infoOf (s0 : State) : CmdEnd × State :=
  let (nonce, t) := s0.random 32
  let s := { t with mgmt := { t.mgmt with nonce := some nonce } }
  (.ok (leBytes 8 s.mgmtId ++ leBytes 8 s.fuse.serial ++ leBytes 4 s.mgmt.version ++ leBytes 4 (s.mgmt.pendingVersion.getD 0) ++
    leBytes 2 s.mgmt.svn ++ leBytes 1 s.pwr.state ++ leBytes 1 s.fab.step ++
    leBytes 1 (maskOf ((List.range 8).filter fun p => (s.part p).ent.ready)) ++ nonce), s)

/-- GET_INFO. -/
def execGetInfo (m : Msg) (s : State) : Host.Outcome State Fault Refusal :=
  .next (s.command m 0x01 false fun t => if m.params.isEmpty then infoOf t else (.invalid, t))

/-- The head of a recorder response. -/
def State.recorderHead (s : State) : List Byte :=
  leBytes 4 s.rec'.nextSeq.toNat ++ leBytes 1 (if s.rec'.frozen then 1 else 0) ++ leBytes 4 s.rec'.freezeSeq.toNat ++
    leBytes 2 s.rec'.dropped

/-- First SEQ and count of a read: 4 bytes and 1 byte, the count 1 to 64. -/
def readOk (m : Msg) : Bool := m.params.length == 5 && decide (1 ≤ paramN m 4 1 ∧ paramN m 4 1 ≤ 64)

/-- The records of a read that are still there. -/
def readRecords (m : Msg) (find : Nat → Option (List Byte)) : List Byte :=
  (List.range (paramN m 4 1)).flatMap fun i => (find ((paramN m 0 4 + i) % 2 ^ 32)).getD []

/-- RECORDER_READ, answered in recovery mode too (R514). -/
def execRecorderRead (m : Msg) (s : State) : Host.Outcome State Fault Refusal :=
  let f (t : State) : CmdEnd × State :=
    if readOk m then (.ok (t.recorderHead ++ readRecords m fun q => t.rec'.find q), t) else (.invalid, t)
  .next (if s.mgmt.boot = .recovery ∧ s.pwr.clocksStopped = false ∧ m.cmd = 0x02 then (f s).2.answer m 0x02 (f s).1 else s.command m 0x02 false f)

/-- RECORDER_FREEZE: its record is written before the recorder freezes. -/
def execRecorderFreeze (m : Msg) (s : State) : Host.Outcome State Fault Refusal :=
  .next (s.command m 0x03 true fun t =>
    if m.params.isEmpty then (.ok [], (t.noteCommand 0x03 none).freezeRec) else (.invalid, t))

/-- RECORDER_UNFREEZE. -/
def execRecorderUnfreeze (m : Msg) (s : State) : Host.Outcome State Fault Refusal :=
  .next (s.command m 0x04 true (change 0x04 none m.params.isEmpty State.unfreezeRec))

/-- LOG_READ: NOT_NOW while memory is not serving. -/
def execLogRead (m : Msg) (s : State) : Host.Outcome State Fault Refusal :=
  .next (s.command m 0x05 false fun t =>
    if !t.powered || !t.memServes then (.notNow, t)
    else if readOk m then
      let u := t.findAll 0 0 m.found
      (.ok (u.recorderHead ++ readRecords m u.logFind), u)
    else (.invalid, t))

/-! ## Partitions -/

/-- A partition number of one byte, and the length of the parameters. -/
def partOk (m : Msg) (n : Nat) : Bool := m.params.length == n && decide (paramN m 0 1 < 8)

/-- A command of this kind waits for its partition. -/
def State.waits (s : State) (cmd : Nat) : Bool := s.mgmt.respWait.any fun (e : Nat × Nat) => e.1 / 8 == cmd

/-- The response follows once the partition's creation or end is done. -/
def State.respondLater (s : State) (m : Msg) (cmd p : Nat) : State :=
  { s with mgmt := { s.mgmt with respWait := tput s.mgmt.respWait (cmd * 8 + p) m.req } }

/-- The words of an entry, word 0 last, with VALID. -/
def State.setEntry (s : State) (p : Nat) (bytes : List Byte) : State :=
  let w (i : Nat) : Nat := leNat (sliceList bytes (8 * i) 8)
  let t := foldS (fun (u : State) i => u.entryWrite p (i + 1) (w (i + 1))) s (List.range 15)
  t.entryWrite p 0 (w 0 / 2 * 2 + 1)

/-- PARTITION_SET: the response, ERROR, follows the creation it starts (R523). Where the partition is READY already only MODE is
written, and recorded; an entry that a check of R237 refuses is recorded as refused (R509). -/
def setPartition (m : Msg) (s : State) : CmdEnd × State :=
  let p := paramN m 0 1
  if !partOk m 129 then (.invalid, s)
  else if s.pwr.busy || s.waits 0x10 || (s.part p).life == .destroying || (s.part p).life == .creating then (.busy, s)
  else if s.halted || !s.powered then (.notNow, s)
  else
    let t := s.setEntry p (m.params.drop 1)
    if (t.part p).life == .creating then (.later, t.respondLater m 0x10 p)
    else (.ok (leBytes 1 (t.part p).ent.error), if (s.part p).held then t.noteCommand 0x10 (some p) else t.noteRefused 0x10)

/-- PARTITION_SET. -/
def execPartitionSet (m : Msg) (s : State) : Host.Outcome State Fault Refusal := .next (s.command m 0x10 true (setPartition m))

/-- PARTITION_MODE. -/
def execPartitionMode (m : Msg) (s : State) : Host.Outcome State Fault Refusal :=
  let p := paramN m 0 1
  .next (s.command m 0x11 true (change 0x11 (some p) (partOk m 2 && decide (paramN m 1 1 < 4)) fun t =>
    t.updPart p fun (q : Part) => { q with ent := { q.ent with mode := paramN m 1 1 } }))

/-- PARTITION_CLEAR: the response follows READY 0. -/
def clearPartition (m : Msg) (s : State) : CmdEnd × State :=
  let p := paramN m 0 1
  if !partOk m 1 then (.invalid, s)
  else if s.waits 0x12 || (s.part p).life == .destroying then (.busy, s)
  else if s.halted then (.notNow, s)
  else if !(s.part p).ent.valid then (.ok [], s)
  else (.later, (s.respondLater m 0x12 p).destroyPart p)

/-- PARTITION_CLEAR. -/
def execPartitionClear (m : Msg) (s : State) : Host.Outcome State Fault Refusal := .next (s.command m 0x12 true (clearPartition m))

/-- POLICY_SET: PART_PREEMPT_POLICY (selector 0) or PART_DIVERGE_POLICY (selector 1) of a partition. -/
def execPolicySet (m : Msg) (s : State) : Host.Outcome State Fault Refusal :=
  let p := paramN m 0 1
  let sel := paramN m 1 1
  let v := paramN m 2 1
  .next (s.command m 0x13 true (change 0x13 (some p) (partOk m 3 && decide (sel < 2 ∧ v < (if sel = 0 then 2 else 4))) fun t =>
    let q := (t.part p).page
    t.setPartPolicy p (if sel = 0 then v + q.diverge * 2 else q.preempt + v * 2)))

/-! ## Fabric, jobs, ticks -/

/-- FABRIC_ID: PKG and FABRIC; NOT_NOW after START. -/
def execFabricId (m : Msg) (s : State) : Host.Outcome State Fault Refusal :=
  .next (s.command m 0x20 true fun t =>
    if t.fab.started then (.notNow, t)
    else change 0x20 none (m.params.length == 3) (fun u => u.setFabId (paramN m 0 3)) t)

/-- FABRIC_SETUP: eight FAB_PORT values, FAB_FRAME, FAB_PTP, FAB_CENSUS, then START. -/
def execFabricSetup (m : Msg) (s : State) : Host.Outcome State Fault Refusal :=
  let w (i : Nat) : Nat := paramN m (8 * i) 8
  .next (s.command m 0x21 true (change 0x21 none (m.params.length == 88) fun t =>
    let t1 := foldS (fun (u : State) i => u.setFabPort i (w i)) t (List.range 8)
    (((t1.setFabFrame (w 8)).setFabPtp (w 9)).setFabCensus (w 10)).startFabric))

/-- Place bytes wholly inside the reserve; while memory does not serve they are discarded and the access is logged (R269,
R288). -/
def State.placeReserve (s : State) (a : Nat) (bytes : List Byte) : State :=
  if reserveBase ≤ a ∧ a + bytes.length ≤ reserveEnd then (s.noteAccess a bytes.length true).wrBytes a bytes else s

/-- JOB_BIND: partition, where the job descriptor goes, the descriptor, then the rank table. Returns FAB_STATUS.BIND. -/
def bindCommand (m : Msg) (time : Nat) (s : State) : CmdEnd × State :=
  let p := paramN m 0 1
  let a := paramN m 1 8
  let desc := sliceList m.params 9 64
  let table := m.params.drop 73
  if m.params.length < 73 ∨ 8 ≤ p ∨ 2 ^ 44 ≤ a then (.invalid, s)
  else
    let t := ((((s.placeReserve a desc).placeReserve (leNat (sliceList desc 0x10 8)) table).findAll 0 0 m.found).bindWrite
      (a + p * 2 ^ 44 + 2 ^ 48) time)
    (.ok (leBytes 1 t.fab.bindRes), if t.fab.bindRes = 1 then t.noteCommand 0x22 (some p) else t.noteRefused 0x22)

/-- JOB_BIND. -/
def execJobBind (m : Msg) (t : Nat) (s : State) : Host.Outcome State Fault Refusal := .next (s.command m 0x22 true (bindCommand m t))

/-- JOB_UNBIND. -/
def execJobUnbind (m : Msg) (s : State) : Host.Outcome State Fault Refusal :=
  .next (s.command m 0x23 true (change 0x23 (some (paramN m 0 1)) (partOk m 1) fun t => t.unbindJob (paramN m 0 1)))

/-- TICK_STAGE.PERIOD_US takes a value. -/
def State.setStagePeriod (s : State) (v : Nat) : State := { s with tick := { s.tick with stagePeriod := v % 65536 } }

/-- TICK_STAGE: period and apply tick. -/
def execTickStage (m : Msg) (s : State) : Host.Outcome State Fault Refusal :=
  .next (s.command m 0x24 true (change 0x24 none (m.params.length == 10) fun t =>
    (t.setStagePeriod (paramN m 0 2)).stageAt (paramN m 2 8)))

/-! ## Power and memory -/

/-- POWER_STATE: TARGET. Outside RUN only TARGET RUN is accepted (R510). -/
def powerCommand (m : Msg) (s : State) : CmdEnd × State :=
  let t := paramN m 0 1
  if m.params.length ≠ 1 ∨ 4 ≤ t then (.invalid, s)
  else if s.pwr.state ≠ 0 ∧ t ≠ 0 then (.notNow, s)
  else if s.pwr.busy then (.busy, s)
  else
    let r := s.goRefuse t
    let u := s.goWrite (t + 4)
    if r ≠ 0 then (.refused r, u) else (.ok (leBytes 1 0), u.noteCommand 0x30 none)

/-- POWER_STATE. -/
def execPowerState (m : Msg) (s : State) : Host.Outcome State Fault Refusal := .next (s.command m 0x30 true (powerCommand m))

/-- GOVERNOR_SET: PWR_GOV and PWR_THERM. -/
def execGovernorSet (m : Msg) (s : State) : Host.Outcome State Fault Refusal :=
  .next (s.command m 0x31 true (change 0x31 none (m.params.length == 16) fun t =>
    (t.setPwrGov (paramN m 0 8)).setPwrTherm (paramN m 8 8)))

/-- RETIRE_RECORD: clears the record (selector 0), or adds the channels of 20 masks (selector 1). -/
def State.setRetireRecord (s : State) (add : Bool) (mask : Nat → Nat) : State :=
  { s with mgmt := { s.mgmt with retireRecord := (List.range 20).map fun st =>
      if add then s.mgmt.retireRecord.getD st 0 ||| mask st else 0 } }

/-- RETIRE_RECORD. -/
def execRetireRecord (m : Msg) (s : State) : Host.Outcome State Fault Refusal :=
  let sel := paramN m 0 1
  let ok := decide (sel = 0 ∧ m.params.length = 1 ∨ sel = 1 ∧ m.params.length = 81)
  .next (s.command m 0x32 true (change 0x32 none ok fun t => t.setRetireRecord (sel == 1) fun st => paramN m (1 + 4 * st) 4))

/-! ## Debug and policy (R517, R521) -/

/-- The unlock token verifies. -/
def State.unlockOk (s : State) (tok : List Byte) : Bool :=
  let pub := sliceList tok 0x28 64
  leNat (tok.take 8) == s.fuse.serial % 2 ^ 64 && s.mgmt.nonce == some (sliceList tok 8 32) && (s.rootSlotOf pub).isSome &&
    Config.slhVerify 0 pub (tok.take 0x68) (sliceList tok 0x68 29792) && !s.mgmt.dbgLocked

/-- DEBUG_UNLOCK: the nonce is spent, whether or not the token verifies. -/
def unlock (m : Msg) (s : State) : CmdEnd × State :=
  if m.params.length ≠ 29896 then (.invalid, s)
  else
    let t := { s with mgmt := { s.mgmt with nonce := none } }
    if s.unlockOk m.params then
      (.ok [], ((t.setDbg true).record srcSecurity 0x0702 sevWarn none 0 []).noteCommand 0x40 none)
    else (.refused 0, t.record srcSecurity 0x0701 sevError none 0 [])

/-- DEBUG_UNLOCK. -/
def execDebugUnlock (m : Msg) (s : State) : Host.Outcome State Fault Refusal := .next (s.command m 0x40 true (unlock m))

/-- POLICY: MGMT_POLICY takes a value. -/
def execPolicy (m : Msg) (s : State) : Host.Outcome State Fault Refusal :=
  .next (s.command m 0x41 true (change 0x41 none (m.params.length == 8) fun t => t.setPolicy (paramN m 0 8)))

/-! ## MCTP control (R507) -/

/-- An endpoint identifier the bus owner may assign. PRESUMED (DSP0236): 8 to 254. -/
def eidOk (e : Nat) : Bool := decide (8 ≤ e ∧ e ≤ 254)

/-- SET_ENDPOINT_ID. -/
def execSetEndpointId (eid : Nat) (s : State) : Host.Outcome State Fault Refusal :=
  .next (if !s.firmware then s
    else if eidOk eid then ({ s with mgmt := { s.mgmt with eid := eid } }).mctp 0 0 (leBytes 1 eid)
    else s.mctp 0 2 [])

/-- GET_ENDPOINT_ID. -/
def execGetEndpointId (s : State) : Host.Outcome State Fault Refusal :=
  .next (if s.firmware then s.mctp 0 0 (leBytes 1 s.mgmt.eid) else s)

/-- The message types the device supports. -/
def mctpTypes : List Nat := [0x00, 0x01, 0x05, 0x06, 0x7F]

/-- GET_MCTP_VERSION_SUPPORT: the version bytes stand in no rule (log entry 6). -/
def execGetMctpVersionSupport (typ : Nat) (s : State) : Host.Outcome State Fault Refusal :=
  .next (if !s.firmware then s
    else if mctpTypes.contains typ then let (x, t) := s.free; t.mctp 0 0 (leBytes 4 x)
    else s.mctp 0 0x80 [])

/-- GET_MESSAGE_TYPE_SUPPORT. -/
def execGetMessageTypeSupport (s : State) : Host.Outcome State Fault Refusal :=
  .next (if s.firmware then s.mctp 0 0 (mctpTypes.map (BitVec.ofNat 8)) else s)

/-- DYNAMIC_ADDRESS_ASSIGNMENT: stopped wake logic answers no transaction (R488). -/
def execDynamicAddressAssignment (addr : Nat) (s : State) : Host.Outcome State Fault Refusal :=
  .next (if s.pwr.clocksStopped then s else { s with mgmt := { s.mgmt with dynAddr := some (addr % 128) } })

/-! ## PLDM monitoring (R500) -/

/-- The numeric sensors. -/
def sensorExists (k : Nat) : Bool :=
  decide (k < 0x100 ∨ 0x100 ≤ k ∧ k < 0x114 ∨ 0x200 ≤ k ∧ k < 0x230 ∨ 0x300 ≤ k ∧ k < 0x318)

/-- GET_SENSOR_READING: the latest sample. -/
def execGetSensorReading (sensor : Nat) (s : State) : Host.Outcome State Fault Refusal :=
  .next (if !s.firmware || s.pwr.state != 0 then s
    else if !sensorExists sensor then s.mctp 1 0x80 []
    else s.mctp 1 0 (leBytes 4 (tget 0 s.pwr.sensors sensor)))

/-- GET_PDR: the records' contents stand in no rule (log entry 6). -/
def execGetPdr (record : Nat) (s : State) : Host.Outcome State Fault Refusal :=
  .next (if !s.firmware || s.pwr.state != 0 then s else let (x, t) := s.free; t.mctp 1 0 (leBytes 4 record ++ leBytes 8 x))

/-- GET_PDR_REPOSITORY_INFO: likewise. -/
def execGetPdrRepositoryInfo (s : State) : Host.Outcome State Fault Refusal :=
  .next (if !s.firmware || s.pwr.state != 0 then s else let (x, t) := s.free; t.mctp 1 0 (leBytes 8 x))

end Sys2Proof.Machine
end

