-- ==== Sys2Proof/Machine/Security.lean ====
section
/-!
DEFINITION. The security engine as SPDM responder: negotiation, certificates, measurements, sessions, mutual authentication,
IDE keys (R229, R510, R517 to R520).

DSP0274 gives the bytes of the messages; a request's bytes here carry what the effect depends on, and log entry 14 says how.
-/

namespace Sys2Proof.Machine

/-! ## Requesters and responses -/

/-- The attachment a requester's DOE stands on; none for a requester over MCTP. -/
def doeOf (conn : Nat) : Option Nat := if conn < 256 then none else some (conn / 256 - 1)

/-- The engine answers a requester: its domain is powered, and the path works (R499, R510, R518). -/
def State.spdmUp (s : State) (conn : Nat) : Bool :=
  s.powered && !s.pwr.busy && match doeOf conn with
    | none => s.firmware
    | some a => (s.att a).up

/-- Answer a requester: a response with data, or an error. -/
def State.spdm (s : State) (ok : Bool) (data : List Byte) : State := s.emit (.mctp 5 (if ok then 0 else 1) data)

/-- What a requester has negotiated. -/
def State.conn (s : State) (c : Nat) : Conn := tget ⟨0, false, false, 0⟩ s.sec.conns c
def State.setConn (s : State) (c : Nat) (v : Conn) : State :=
  { s with sec := { s.sec with conns := tset ⟨0, false, false, 0⟩ s.sec.conns c v } }

/-- Byte `i` of a request. -/
def spdmByte (q : Spdm) (i : Nat) : Nat := (q.bytes.getD i 0).toNat

/-- A request whose requester the engine hears: it meets a condition, or is answered with an error. -/
def State.heard (s : State) (q : Spdm) (ok : State → Bool) (f : State → State) : State :=
  if !s.spdmUp q.conn then s else if ok s then f s else s.spdm false []

/-- The requester has negotiated algorithms. -/
def State.negotiated (s : State) (q : Spdm) : Bool := (s.conn q.conn).stage == 3

/-- Bytes that need the private key, a shared secret or a random number (log entry 8). -/
def State.secret (s : State) (code : Nat) (q : Spdm) : List Byte × State :=
  (Config.secretReply code (leBytes 8 s.fresh ++ s.mgmt.meas.flatten ++ q.bytes), { s with fresh := s.fresh + 1 })

/-! ## Negotiation -/

/-- GET_VERSION: negotiation starts anew; SPDM 1.3. -/
def execGetVersion (q : Spdm) (s : State) : Host.Outcome State Fault Refusal :=
  .next (s.heard q (fun _ => true) fun t => (t.setConn q.conn ⟨1, false, false, 0⟩).spdm true [0x13])

/-- GET_CAPABILITIES: byte 0 carries the requester's MUT_AUTH_CAP and ENCAP_CAP. The device's capability bytes stand in no rule
(log entry 6). -/
def execGetCapabilities (q : Spdm) (s : State) : Host.Outcome State Fault Refusal :=
  .next (s.heard q (fun t => (t.conn q.conn).stage == 1) fun t =>
    let (x, u) := t.free
    (u.setConn q.conn ⟨2, bitOf (spdmByte q 0) 0, bitOf (spdmByte q 0) 1, 0⟩).spdm true (leBytes 8 x))

/-- NEGOTIATE_ALGORITHMS: bits 0 to 3 of byte 0 say that the requester offers the device's signature, hash, key exchange and AEAD;
bit 4 names its own signature set. -/
def execNegotiateAlgorithms (q : Spdm) (s : State) : Host.Outcome State Fault Refusal :=
  .next (s.heard q (fun t => (t.conn q.conn).stage == 2 && spdmByte q 0 % 16 == 15) fun t =>
    let c := t.conn q.conn
    (t.setConn q.conn ⟨3, c.mutAuth, c.encap, fld (spdmByte q 0) 4 4⟩).spdm true [0x01])

/-! ## Certificates and measurements -/

/-- The chain of a certificate slot, if it holds one. -/
def State.slotChain (s : State) (k : Nat) : Option (List Byte) :=
  if k = 0 then some Config.deviceChain
  else if k = 1 ∧ s.sec.slot1.isEmpty = false then some s.sec.slot1
  else none

/-- GET_DIGESTS: the mask of filled slots and the SHA3-512 of each chain. -/
def execGetDigests (q : Spdm) (s : State) : Host.Outcome State Fault Refusal :=
  .next (s.heard q (fun t => t.negotiated q) fun t =>
    let l := [t.slotChain 0, t.slotChain 1].filterMap id
    t.spdm true (leBytes 1 (2 ^ l.length - 1) ++ l.flatMap sha3))

/-- GET_CERTIFICATE: byte 0 is the slot. -/
def execGetCertificate (q : Spdm) (s : State) : Host.Outcome State Fault Refusal :=
  .next (s.heard q (fun t => t.negotiated q && (t.slotChain (spdmByte q 0)).isSome) fun t =>
    t.spdm true ((t.slotChain (spdmByte q 0)).getD []))

/-- CHALLENGE: byte 0 is the slot; slot 1 is never used to sign (R520). -/
def execChallenge (q : Spdm) (s : State) : Host.Outcome State Fault Refusal :=
  .next (s.heard q (fun t => t.negotiated q && spdmByte q 0 == 0) fun t =>
    let (b, u) := t.secret 0x83 q
    u.spdm true (sha3 Config.deviceChain ++ b))

/-- Measurement block `k`, 1 to 5: M0 to M4 (R518). -/
def State.measBlock (s : State) (k : Nat) : List Byte := leBytes 1 k ++ s.mgmt.meas.getD (k - 1) []

/-- The blocks a request names: 0 their number, 1 to 5 one, 0xFF all. -/
def State.measReply (s : State) (k : Nat) : List Byte :=
  if k = 0 then leBytes 1 5 else if k = 0xFF then ((List.range 5).flatMap fun i => s.measBlock (i + 1)) else s.measBlock k

/-- GET_MEASUREMENTS: byte 0 names the blocks; bit 0 of byte 1 asks for a signature. -/
def execGetMeasurements (q : Spdm) (s : State) : Host.Outcome State Fault Refusal :=
  .next (s.heard q (fun t => t.negotiated q && decide (spdmByte q 0 ≤ 5 ∨ spdmByte q 0 = 0xFF)) fun t =>
    if bitOf (spdmByte q 1) 0 then
      let (b, u) := t.secret 0xE0 q
      u.spdm true (t.measReply (spdmByte q 0) ++ b)
    else t.spdm true (t.measReply (spdmByte q 0)))

/-- SET_CERTIFICATE: byte 0 is the slot, the rest the chain; slot 1 only (R519, R520). -/
def execSetCertificate (q : Spdm) (s : State) : Host.Outcome State Fault Refusal :=
  .next (s.heard q (fun t => t.negotiated q && spdmByte q 0 == 1 && decide (1 < q.bytes.length)) fun t =>
    ({ t with sec := { t.sec with slot1 := q.bytes.drop 1 } }).spdm true [])

/-! ## Sessions -/

/-- The session a request came in. -/
def State.session (s : State) (q : Spdm) : Option Session :=
  s.sec.sessions.find? fun (x : Session) => q.session == some x.id && x.conn == q.conn

/-- A request in a session that meets a condition. -/
def State.inSession (s : State) (q : Spdm) (ok : Session → Bool) : Bool := match s.session q with
  | some x => ok x
  | none => false

/-- Change the session of a request. -/
def State.updSession (s : State) (q : Spdm) (f : Session → Session) : State :=
  { s with sec := { s.sec with sessions := s.sec.sessions.map fun (x : Session) =>
      if (q.session == some x.id && x.conn == q.conn) then f x else x } }

/-- End the session of a request. -/
def State.dropSession (s : State) (q : Spdm) : State :=
  { s with sec := { s.sec with sessions := s.sec.sessions.filter fun (x : Session) => q.session != some x.id } }

/-- The first identifier from `k` on, of a requester's half `r`, that no session has. -/
def State.freeId (s : State) (r k : Nat) : Nat → Nat
  | 0 => r + k % 65536 * 65536
  | n + 1 =>
    let i := r + k % 65536 * 65536
    if s.sec.sessions.any fun (x : Session) => x.id == i then s.freeId r (k + 1) n else i

/-- KEY_EXCHANGE: bytes 0 and 1 are the requester's half of the identifier; the device's half is free (log entry 6). Mutual
authentication is requested where the requester can do it. Four sessions at a time. -/
def State.startSession (s : State) (q : Spdm) : State :=
  let (x, t) := s.free
  let i := t.freeId (leNat (q.bytes.take 2)) x 5
  let c := t.conn q.conn
  let want := c.mutAuth && c.encap
  let u := { t with sec := { t.sec with sessions := t.sec.sessions ++ [Session.mk i q.conn want false false 0 [] 0] } }
  let (b, v) := u.secret 0xE4 q
  v.spdm true (leBytes 4 i ++ leBytes 1 (if want then 1 else 0) ++ b)

/-- KEY_EXCHANGE. -/
def execKeyExchange (q : Spdm) (s : State) : Host.Outcome State Fault Refusal :=
  .next (s.heard q (fun t => t.negotiated q && decide (t.sec.sessions.length < 4) && decide (2 ≤ q.bytes.length)) fun t =>
    t.startSession q)

/-- The device's encapsulated request: GET_DIGESTS, then GET_CERTIFICATE. -/
def execGetEncapsulatedRequest (q : Spdm) (s : State) : Host.Outcome State Fault Refusal :=
  .next (s.heard q (fun t => t.inSession q fun (x : Session) => x.wanted && !x.established && decide (x.encap < 2)) fun t =>
    t.spdm true [if t.inSession q fun (x : Session) => x.encap == 0 then 0x81 else 0x82])

/-- The requester's answer: its digests, then its chain in portions; byte 0 is 0 in the last portion. -/
def Session.deliver (x : Session) (bytes : List Byte) : Session :=
  if x.encap = 0 then { x with encap := 1 }
  else { x with chain := x.chain ++ bytes.drop 1, encap := if bytes.headD 0 = 0 then 2 else 1 }

/-- DELIVER_ENCAPSULATED_RESPONSE. -/
def execDeliverEncapsulatedResponse (q : Spdm) (s : State) : Host.Outcome State Fault Refusal :=
  .next (s.heard q (fun t => t.inSession q fun (x : Session) => x.wanted && !x.established && decide (x.encap < 2)) fun t =>
    (t.updSession q fun (x : Session) => x.deliver q.bytes).spdm true [])

/-- FINISH verifies the requester: with mutual authentication its signature under its chain. A failure ends the session. -/
def State.finishSession (s : State) (q : Spdm) : State :=
  if s.inSession q fun (x : Session) => Config.finishVerify (s.conn q.conn).sigSet x.chain x.id q.bytes then
    (s.updSession q fun (x : Session) => { x with established := true, verified := x.wanted }).spdm true []
  else (s.dropSession q).spdm false []

/-- FINISH. -/
def execFinish (q : Spdm) (s : State) : Host.Outcome State Fault Refusal :=
  .next (s.heard q (fun t => t.inSession q fun (x : Session) => !x.established && (!x.wanted || x.encap == 2)) fun t =>
    t.finishSession q)

/-- The session is established. -/
def State.established (s : State) (q : Spdm) : Bool := s.inSession q fun (x : Session) => x.established

/-- KEY_UPDATE. -/
def execKeyUpdate (q : Spdm) (s : State) : Host.Outcome State Fault Refusal :=
  .next (s.heard q (fun t => t.established q) fun t =>
    (t.updSession q fun (x : Session) => { x with keyGen := x.keyGen + 1 }).spdm true [])

/-- HEARTBEAT. -/
def execHeartbeat (q : Spdm) (s : State) : Host.Outcome State Fault Refusal :=
  .next (s.heard q (fun t => t.established q) fun t => t.spdm true [])

/-- END_SESSION. -/
def execEndSession (q : Spdm) (s : State) : Host.Outcome State Fault Refusal :=
  .next (s.heard q (fun t => t.established q) fun t => (t.dropSession q).spdm true [])

/-- CXL_IDE_KM: in a session over DOE on external port 0 or 1, it programs that port's keys (R229, R518). -/
def execCxlIdeKm (q : Spdm) (s : State) : Host.Outcome State Fault Refusal :=
  .next (s.heard q (fun t => t.established q && (doeOf q.conn == some 2 || doeOf q.conn == some 3)) fun t =>
    ({ t with sec := { t.sec with ideKeys := tput t.sec.ideKeys ((doeOf q.conn).getD 0 - 2) (leNat q.bytes) } }).spdm true [])

end Sys2Proof.Machine
end

