-- ==== Sys2Proof/Machine/Regs.lean ====
section
/-!
DEFINITION. The set-up register map: writes by management firmware and by drivers, and what every register reads as (R9, R539 to
R557).
-/

namespace Sys2Proof.Machine

/-! ## The partition register page (R545 to R550) -/

/-- Nothing of the partition is in flight (R204, R547). -/
def Part.idleNow (pt : Part) : Bool := pt.settled

/-- No registered buffer's flag shows OWNER 1. -/
def State.buffersHome (s : State) (pt : Part) : Bool := pt.bufs.all fun (e : Nat × RegBuf) => !s.deviceOwns e.2

/-- A base address as written: aligned, and within the partition's range; 0 counts where it means none. -/
def State.baseOk (s : State) (pt : Part) (v align : Nat) (none' : Bool) : Bool :=
  let a := v % 2 ^ 44
  (none' && a == 0) || (a % align == 0 && s.inRange pt a 1)

/-- Take a write, or reject it with the first cause that holds: class condition 1, alignment or range 2, value 4. -/
def State.pageTake (s : State) (p off : Nat) (class' base value : Bool) (f : Part → Part) : State :=
  let pt := s.part p
  if !class' then s.setPart p (pt.rejectPage off 1)
  else if !base then s.setPart p (pt.rejectPage off 2)
  else if !value then s.setPart p (pt.rejectPage off 4)
  else s.setPart p (f pt)

/-- Change the page of a partition. -/
def Part.onPage (pt : Part) (f : PartPage → PartPage) : Part := { pt with page := f pt.page }

/-- A write to a register of the page with a class of its own (R546, R547). -/
def State.pageReg (s : State) (p off v : Nat) : State :=
  let pt := s.part p
  let idle := pt.idleNow
  let a := v % 2 ^ 44
  match off with
  | 0x000 => s.pageTake p off true true true fun q => q.onPage fun (g : PartPage) => { g with jobSeed := v }
  | 0x008 => s.pageTake p off idle (s.baseOk pt v 64 false) true fun q => q.onPage fun (g : PartPage) => { g with tdBase := a }
  | 0x010 => s.pageTake p off pt.quiet (s.baseOk pt v 4096 false) true fun q => q.onPage fun (g : PartPage) => { g with ringBase := a }
  | 0x018 => s.excBaseWrite p v
  | 0x020 => s.pageTake p off idle (s.baseOk pt v 4096 false) true fun q => q.onPage fun (g : PartPage) => { g with sentryBase := a }
  | 0x028 => s.pageTake p off (idle && s.buffersHome pt) (s.baseOk pt v 4096 false) true fun (q : Part) =>
      { q with
        page := { q.page with bufBase := a }
        bufs := [] }
  | 0x030 => s.bufCommit p v
  | 0x040 => s.pageTake p off idle (s.baseOk pt v 4096 false) true fun q => q.onPage fun (g : PartPage) => { g with mediaBase := a }
  | 0x048 => s.pageTake p off idle (s.baseOk pt v 4096 false) true fun q => q.onPage fun (g : PartPage) => { g with seqBase := a }
  | 0x050 => s.pageTake p off idle (s.baseOk pt v 65536 false) true fun q => q.onPage fun (g : PartPage) => { g with pageBase := a }
  | 0x058 => s.pageTake p off idle true (decide (v % 2 ^ 25 ≤ 16777216)) fun q => q.onPage fun (g : PartPage) => { g with pageCount := v % 2 ^ 25 }
  | 0x060 => s.pageTake p off idle (s.baseOk pt v 4096 false) true fun q => q.onPage fun (g : PartPage) => { g with culletBase := a }
  | 0x068 => s.pageTake p off true true true fun q => q.onPage fun (g : PartPage) =>
      { g with lendMask := g.lendMask / 2 ^ 64 * 2 ^ 64 + v % 2 ^ 64 }
  | 0x070 => s.pageTake p off true true true fun q => q.onPage fun (g : PartPage) =>
      { g with lendMask := g.lendMask % 2 ^ 64 + v % 65536 * 2 ^ 64 }
  | 0x078 => s.drowseWrite p false v
  | 0x080 => s.drowseWrite p true v
  | 0x088 => s.pageTake p off true true true fun q => q.onPage fun (g : PartPage) => { g with collQuota := v % 2 ^ 32 }
  | 0x090 => s.pageTake p off true (s.baseOk pt v 4096 true) true fun q => q.onPage fun (g : PartPage) => { g with snapBase := a }
  | 0x098 => s.pageTake p off true true (decide (v % 32 ≤ 16)) fun q => q.onPage fun (g : PartPage) => { g with snapLog2 := v % 32 }
  | 0x0A0 => s.pageTake p off true (s.baseOk pt v 4096 false) true fun q => q.onPage fun (g : PartPage) => { g with fwuAddr := a }
  | 0x0A8 => s.pageTake p off true true (imageSizeOk (v % 2 ^ 26)) fun q => q.onPage fun (g : PartPage) => { g with fwuLen := v % 2 ^ 26 }
  | 0x0B0 => s.fwuStart p v
  | 0x0C0 => s.pageTake p off true true true fun q => q.onPage fun (g : PartPage) => { g with reject := g.reject && !bitOf v 0 }
  | _ => s

/-- Offsets of the page that hold a register drivers write. -/
def pageWritable (off : Nat) : Bool :=
  [0x000, 0x008, 0x010, 0x018, 0x020, 0x028, 0x030, 0x040, 0x048, 0x050, 0x058, 0x060, 0x068, 0x070, 0x078, 0x080, 0x088, 0x090,
    0x098, 0x0A0, 0x0A8, 0x0B0, 0x0C0].contains off

/-- A driver's write to its page: not a single aligned 64-bit write of a writable register is rejected with cause 3. -/
def State.pageWriteAt (s : State) (p off size v : Nat) : State :=
  if !pageWritable (off / 8 * 8) then s
  else if size ≠ 8 ∨ off % 8 ≠ 0 then s.setPart p ((s.part p).rejectPage off 3)
  else s.pageReg p off v

/-! ## Management firmware's blocks (R539, R542, R551 to R556) -/

/-- DEVCFG: COLD takes precedence over WARM. -/
def State.writeDevcfg (s : State) (off v : Nat) : State :=
  if off = 0 then (if bitOf v 1 then s.coldReset else if bitOf v 0 then s.warmReset else s)
  else if 0x10 ≤ off ∧ off < 0x200 then s.setScratch ((off - 0x10) / 8) v
  else s

/-- PART: the table, then the pages; PART_POLICY is firmware's. -/
def State.writePart (s : State) (off v : Nat) : State :=
  if off < 0x400 then s.entryWrite (off / 0x80) (off % 0x80 / 8) v
  else if 0x1000 ≤ off ∧ off < 0x9000 then
    let p := (off - 0x1000) / 0x1000
    if off % 0x1000 = 0x0C8 then s.setPartPolicy p v else s.pageReg p (off % 0x1000) v
  else s

/-- TICK. -/
def State.writeTick (s : State) (off v : Nat) : State :=
  match off with
  | 0x08 => s.setStagePeriod v
  | 0x10 => s.stageAt v
  | 0x18 => s.writeEpoch v s.now
  | 0x28 => { s with tick := { s.tick with
      stageReject := s.tick.stageReject && !bitOf v 4
      epochReject := s.tick.epochReject && !bitOf v 5 } }
  | _ => s

/-- Training starts, once (R289). -/
def State.startTraining (s : State) : State := match execTrain s with
  | .next t => t
  | _ => s

/-- MEMC. -/
def State.writeMemc (s : State) (off v : Nat) : State :=
  if off = 0x08 then s.setScrub v
  else if off = 0x10 then (if bitOf v 0 then s.startTraining else s)
  else if 0x100 ≤ off ∧ off < 0x1A0 then s.setRetireReq ((off - 0x100) / 8) v
  else s

/-- FAB_BIND: a write with BIND binds, with UNBIND alone unbinds, with neither sets JOB and PART. -/
def State.writeBind (s : State) (v : Nat) : State :=
  if bitOf v 48 then s.bindWrite v s.now
  else if bitOf v 49 then s.unbindWrite v
  else { s with fab := { s.fab with
      jobAddr := v % 2 ^ 44
      bindPart := fld v 46 44 } }

/-- FAB. -/
def State.writeFab (s : State) (off v : Nat) : State :=
  match off with
  | 0x00 => s.setFabId v
  | 0x08 => if bitOf v 0 then s.startFabric else s
  | 0x50 => s.setFabFrame v
  | 0x58 => s.setFabPtp v
  | 0x60 => s.setFabCensus v
  | 0x68 => s.writeBind v
  | _ => if 0x10 ≤ off ∧ off < 0x50 then s.setFabPort ((off - 0x10) / 8) v else s

/-- PWR. -/
def State.writePwr (s : State) (off v : Nat) : State :=
  match off with
  | 0x00 => s.goWrite v
  | 0x08 => s.clearWake v
  | 0x10 => { s with pwr := { s.pwr with padHeld := s.pwr.padHeld - (s.pwr.padHeld &&& v) } }
  | 0x18 => s.setPwrGov v
  | 0x20 => s.setPwrTherm v
  | 0x30 => s.setPwrWake v
  | _ => s

/-- MGMT_REC_CTL: FREEZE before UNFREEZE. -/
def State.writeRecCtl (s : State) (v : Nat) : State :=
  let t := if bitOf v 0 then s.freezeRec else s
  if bitOf v 1 then t.unfreezeRec else t

/-- MGMT. -/
def State.writeMgmt (s : State) (off v : Nat) : State :=
  match off with
  | 0x18 => s.writeRecCtl v
  | 0x30 => let t := s.setWdt v
      if bitOf v 14 then { t with mgmt := { t.mgmt with lastKick := t.now } } else t
  | 0x38 => if bitOf v 1 then
        let t := s.setDbg false
        { t with mgmt := { t.mgmt with dbgLocked := true } }
      else s
  | 0x40 => s.setPolicy v
  | _ => s

/-- A write at offset `off` of block `b`; FEAT and DIE are read-only and SEC is the security engine's. -/
def State.writeBlock (s : State) (b off v : Nat) : State :=
  match b with
  | 0x0 => s.writeDevcfg off v
  | 0x2 => s.writePart off v
  | 0x3 => s.writeTick off v
  | 0x4 => s.writeMemc off v
  | 0x6 => if off = 0 then s.setVideoOff v else if off = 8 then s.setOtherOff v else s
  | 0x7 => s.writeFab off v
  | 0x8 => if off = 0x80 then s.setCollInject v else s
  | 0x9 => if off = 0xA0 then s.setUpdInject v else s
  | 0xA => s.writePwr off v
  | 0xB => s.writeMgmt off v
  | _ => s

/-- Management firmware's write reaches block `b`: DEVCFG, PWR and MGMT lie in PD00, the others in domains that must be powered and
out of reset (R475, R498, R570). -/
def State.reaches (s : State) (b : Nat) : Bool := s.firmware && (b == 0x0 || b == 0xA || b == 0xB || s.powered)

/-- The partition and offset of a register of a page, by the offset in the PART block. -/
def pageAt (off : Nat) : Option (Nat × Nat) :=
  if 0x1000 ≤ off ∧ off < 0x9000 then some ((off - 0x1000) / 0x1000, off % 0x1000) else none

/-- A write by firmware that is not a single aligned 64-bit write is ignored (R540); at a writable register of a page it breaks the
register's width and is rejected with cause 3 (R547). -/
def State.badWrite (s : State) (b off : Nat) : State :=
  match (if b = 0x2 then pageAt off else none) with
  | some (p, o) => if pageWritable (o / 8 * 8) then s.setPart p ((s.part p).rejectPage o 3) else s
  | none => s

/-- A write by management firmware at a local address. -/
def State.mgmtWrite (s : State) (addr size v : Nat) : State :=
  let b := (addr - regBase) / 2 ^ 20
  if addr < regBase || !s.reaches b then s
  else if size != 8 || addr % 8 != 0 then s.badWrite b (addr % 2 ^ 20)
  else s.writeBlock b (addr % 2 ^ 20) v

/-- A write that reaches the DBG block while debug is enabled, which no rule describes (R539); one that is not a single aligned 64-bit
write reaches nothing (R540). -/
def State.hitsDebug (s : State) (addr size : Nat) : Bool :=
  s.reaches 0xD && s.mgmt.dbgEn && decide (regBase ≤ addr ∧ (addr - regBase) / 2 ^ 20 = 0xD ∧ size = 8 ∧ addr % 8 = 0)

/-- REGISTER_WRITE. -/
def execRegisterWrite (src : RegSrc) (addr size : Nat) (value : Written) (s : State) : Host.Outcome State Fault Refusal :=
  match src with
  | .page h => .next (s.pageWrite h fun t p =>
      if addr < 0x1000 then (t.findAll 0 0 value.found).pageWriteAt p addr size value.value.toNat else t)
  | .mgmt => if s.hitsDebug addr size then .refused .debugBlock else .next ((if s.firmware then s.findAll 0 0 value.found else s).mgmtWrite addr size value.value.toNat)

/-! ## What registers read as -/

/-- 1 at bit `k` where a flag holds. -/
def flagAt (b : Bool) (k : Nat) : Nat := if b then 2 ^ k else 0

/-- ASSIGN_GIB (R272, R289). -/
def State.assignGib (s : State) : Nat := if s.memc.trained then 3 * s.nHealthy - 32 else 0

/-- N and the stacks' healthy channels are known: training has ended, be it with FAILED (R268, R279). -/
def State.mapKnown (s : State) : Bool := s.memc.trained || s.memc.failed

/-- The FEAT block; `e` restricts the unit masks to what an entry assigns, from READY on (R543, R544). -/
def State.featWord (s : State) (e : Option PartEntry) (off : Nat) : Nat :=
  let cut (m : Nat) (f : PartEntry → Nat) : Nat := match e with
    | some x => if x.ready then m &&& f x else 0
    | none => m
  let clusters := cut (maskOf ((List.range 80).filter s.clusterPresent)) fun x => x.clusters
  let n := if s.mapKnown then s.nHealthy else 0
  let ns (st : Nat) : Nat := if s.mapKnown then (s.healthyOf st).length else 0
  match off with
  | 0x000 => 0x0B20 + s.fuse.stepping % 16 * 65536 + flagAt s.fuse.gradeB 20
  | 0x008 => 4 + 128 * 2 ^ 8 + 4 * 2 ^ 16 + 256 * 2 ^ 24 + 32 * 2 ^ 36 + 4 * 2 ^ 42
  | 0x010 => 256 + 192 * 2 ^ 16 + 8192 * 2 ^ 32 + 256 * 2 ^ 48
  | 0x018 => clusters % 2 ^ 64
  | 0x020 => clusters / 2 ^ 64
  | 0x028 => cut (maskOf ((List.range 64).filter s.videoPresent)) fun x => x.video
  | 0x030 => cut (2 ^ 32 - 1) (fun x => x.jpeg) + cut (2 ^ 16 - 1) (fun x => x.inflate) * 2 ^ 32 +
      cut 255 (fun x => x.audio) * 2 ^ 48 + 255 * 2 ^ 56
  | 0x038 => n + s.assignGib * 2 ^ 16 + flagAt s.memc.trained 27 +
      maskOf ((List.range 20).filter fun st => decide (0 < ns st)) * 2 ^ 28
  | 0x040 => foldS (fun x i => x + ns i * 2 ^ (8 * i)) 0 (List.range 8)
  | 0x048 => foldS (fun x i => x + ns (8 + i) * 2 ^ (8 * i)) 0 (List.range 8)
  | 0x050 => foldS (fun x i => x + ns (16 + i) * 2 ^ (8 * i)) 0 (List.range 4)
  | 0x058 => 8 + 4096 * 2 ^ 4 + 512 * 2 ^ 17 + 512 * 2 ^ 27 + 64 * 2 ^ 37
  | _ => 0

/-- The registers a partition's view adds (R544): at their reset value 0 until the partition becomes READY. -/
def viewWord (p : Nat) (e : PartEntry) (off : Nat) : Nat :=
  if !e.ready then 0 else match off with
  | 0x060 => e.hbmBase
  | 0x068 => e.hbmSize
  | 0x070 => e.winOffset
  | 0x078 => e.winSize
  | 0x080 => e.sqMax + e.cqMax * 2 ^ 16 + e.chBase * 2 ^ 32 + e.chCount * 2 ^ 48
  | 0x088 => p + e.attach * 8 + e.mode * 32 + flagAt e.guard 7
  | _ => 0

/-- A register of the page (R546). -/
def State.pageWord (s : State) (p off : Nat) : Nat :=
  let pt := s.part p
  let g := pt.page
  match off with
  | 0x000 => g.jobSeed
  | 0x008 => g.tdBase
  | 0x010 => g.ringBase
  | 0x018 => g.excBase
  | 0x020 => g.sentryBase
  | 0x028 => g.bufBase
  | 0x038 => g.bufState + g.bufIndex * 16 + g.bufCause * 65536
  | 0x040 => g.mediaBase
  | 0x048 => g.seqBase
  | 0x050 => g.pageBase
  | 0x058 => g.pageCount
  | 0x060 => g.culletBase
  | 0x068 => g.lendMask % 2 ^ 64
  | 0x070 => g.lendMask / 2 ^ 64
  | 0x078 => g.drowse % 2 ^ 64
  | 0x080 => g.drowse / 2 ^ 64
  | 0x088 => g.collQuota
  | 0x090 => g.snapBase
  | 0x098 => g.snapLog2
  | 0x0A0 => g.fwuAddr
  | 0x0A8 => g.fwuLen
  | 0x0B8 => g.fwuState + g.fwuCode * 256
  | 0x0C0 => flagAt g.reject 0 + g.rejectOffset * 16 + g.rejectCause * 4096
  | 0x0C8 => g.preempt + g.diverge * 2
  | _ => if 0x800 ≤ off then s.featWord (some pt.ent) (off - 0x800) + viewWord p pt.ent (off - 0x800) else 0

/-- MEMC_STACK s (R289). -/
def State.stackWord (s : State) (st w : Nat) : Nat :=
  let x := s.stack st
  match w with
  | 0 => s.retiredMask st + x.spared % 2 ^ 32 * 2 ^ 32
  | 1 => x.temp % 256 + x.refresh * 2 ^ 8 + flagAt (s.mapKnown && (s.healthyOf st).isEmpty) 10 +
      s.suspectMask st * 2 ^ 16
  | 2 => x.corrected.toNat + x.uncorrectable.toNat * 2 ^ 32
  | _ => x.retirePending

/-- The MEMC block. -/
def State.memcWord (s : State) (off : Nat) : Nat :=
  if off = 0 then (if s.mapKnown then s.nHealthy else 0) + s.assignGib * 2 ^ 16 + flagAt s.memc.trained 32 +
    flagAt (s.mapKnown && decide (s.nHealthy < 640)) 33 + flagAt s.memc.failed 34
  else if off = 8 then s.memc.scrubHours + flagAt s.memc.scrubEn 8
  else if 0x100 ≤ off ∧ off < 0x1A0 then tget 0 s.memc.retireReq ((off - 0x100) / 8)
  else if 0x200 ≤ off ∧ off < 0x480 then s.stackWord ((off - 0x200) / 32) (off % 32 / 8)
  else 0

/-- FAB_PORT p. -/
def State.portWord (s : State) (p : Nat) : Nat :=
  tget 0 s.fab.split p + tget 0 s.fab.pmd p * 4 + tget 0 s.fab.enable p * 16 +
    maskOf ((List.range 4).filter fun i => (s.mac (4 * p + i)).up) * 2 ^ 8 +
    maskOf ((List.range 4).filter fun i => (s.mac (4 * p + i)).isolated) * 2 ^ 12

/-- The receive counters of a MAC (R552). -/
def State.macWord (s : State) (m w : Nat) : Nat :=
  let q := if s.macExists m then s.mac m else MacSt.dflt
  match w with
  | 0 => q.rxOk.toNat + q.dropSize.toNat * 2 ^ 32
  | 1 => q.dropFcs.toNat + q.dropE2e.toNat * 2 ^ 32
  | 2 => q.dropFilter.toNat + q.dropBuffer.toNat * 2 ^ 32
  | _ => q.pfcSentCount.toNat + q.pfcReceived.toNat * 2 ^ 32

/-- The FAB block (R400). -/
def State.fabWord (s : State) (off : Nat) : Nat :=
  let f := s.fab
  match off with
  | 0x00 => f.pkg + f.fabric * 65536
  | 0x50 => f.etype + f.vid * 2 ^ 16 + f.dataPcp * 2 ^ 28 + f.ctrlPcp * 2 ^ 31 + f.ptpPcp * 2 ^ 34 + flagAt f.pfcEn 37 + f.failMs * 2 ^ 48
  | 0x58 => f.domain + f.priority1 * 2 ^ 8 + f.priority2 * 2 ^ 16 + f.clockClass * 2 ^ 24 + f.logSync * 2 ^ 32 + f.logAnnounce * 2 ^ 36
  | 0x60 => f.hopLimit + f.rate * 2 ^ 4 + f.quietS * 2 ^ 12 + f.expect * 2 ^ 20 + f.limitS * 2 ^ 37
  | 0x68 => f.jobAddr + f.bindPart * 2 ^ 44
  | 0x70 => f.step + flagAt f.conflict 4 + flagAt f.incomplete 5 + f.bindRes * 2 ^ 8 + s.present * 2 ^ 32
  | _ => if 0x10 ≤ off ∧ off < 0x50 then s.portWord ((off - 0x10) / 8)
    else if 0x100 ≤ off ∧ off < 0x500 then s.macWord ((off - 0x100) / 32) (off % 32 / 8)
    else 0

/-- The TICK block (R551). -/
def State.tickWord (s : State) (off : Nat) : Nat :=
  let t := s.tick
  match off with
  | 0x00 => t.period
  | 0x08 => t.stagePeriod
  | 0x10 => t.stageAt
  | 0x18 => t.epoch
  | 0x20 => t.count
  | 0x28 => (match t.lock with | .unlocked => 0 | .locked => 1 | .holdover => 2) + flagAt t.resync 2 + flagAt t.stage.isSome 3 +
      flagAt t.stageReject 4 + flagAt t.epochReject 5 + t.overruns.toNat * 2 ^ 32
  | _ => 0

/-- The PWR block (R495). -/
def State.pwrWord (s : State) (off : Nat) : Nat :=
  let g := s.pwr
  match off with
  | 0x00 => g.target
  | 0x08 => g.state + flagAt g.busy 2 + g.refuse * 16 + g.wakeCause * 256 + g.padHeld * 2 ^ 20
  | 0x18 => g.fmin + g.fmax * 2 ^ 16 + g.limit * 2 ^ 32
  | 0x20 => g.tjThrottle + g.stackThrottle * 2 ^ 8 + g.tjCrit * 2 ^ 16 + g.tjWake * 2 ^ 24
  | 0x28 => g.fMhz + g.reason * 2 ^ 11 + g.pW * 2 ^ 16 + g.tj * 2 ^ 32 + g.ts * 2 ^ 40
  | 0x30 => g.wakeAddr + flagAt g.i3cEn 7 + flagAt g.thermEn 8
  | _ => 0

/-- The MGMT block (R522). -/
def State.mgmtWord (s : State) (off : Nat) : Nat :=
  let m := s.mgmt
  match off with
  | 0x00 => s.mgmtId
  | 0x08 => s.fuse.serial
  | 0x10 => flagAt (m.boot == .recovery) 0 + m.rootSlot * 2 + s.fuse.svn * 2 ^ 8 + s.fuse.revoked * 2 ^ 16
  | 0x20 => s.rec'.nextSeq.toNat + s.rec'.dropped * 2 ^ 32 + flagAt s.rec'.frozen 48
  | 0x28 => s.rec'.freezeSeq.toNat
  | 0x30 => m.wdtPeriod + m.expiries * 2 ^ 16
  | 0x38 => s.dbgValue
  | 0x40 => s.policyValue
  | _ => 0

/-- COLL_CH_STATE k: two bits for each of 32 channels (R555). -/
def State.chanWord (s : State) (k : Nat) : Nat :=
  foldS (fun x j => x + (match (s.chan (32 * k + j)).st with | .closed => 0 | .open' => 1 | .failed => 2) * 4 ^ j) 0 (List.range 32)

/-- UPD_ENGINE u (R555): an engine is absent with its stack (R279). -/
def State.updWord (s : State) (u : Nat) : Nat :=
  let e := tget UpdEngine.dflt s.upd u
  e.chunks.toNat + flagAt (!(s.engineChunks u).isEmpty) 32 + flagAt (s.mapKnown && !(s.healthyOf u).isEmpty) 33

/-- A register as management firmware reads it: block and offset. SEC and DBG read zero where they are described at all. -/
def State.regRead (s : State) (b off : Nat) : Nat :=
  match b with
  | 0x0 => if off = 8 then flagAt s.pins.ref100 0 + flagAt s.pins.ref156 1 + flagAt s.pins.ref25 2
    else if 0x10 ≤ off ∧ off < 0x200 then tget 0 s.scratch ((off - 0x10) / 8) else 0
  | 0x1 => s.featWord none off
  | 0x2 => if off < 0x400 then (s.part (off / 0x80)).ent.word (off % 0x80 / 8)
    else if 0x1000 ≤ off ∧ off < 0x9000 then s.pageWord ((off - 0x1000) / 0x1000) (off % 0x1000) else 0
  | 0x3 => s.tickWord off
  | 0x4 => s.memcWord off
  | 0x5 => if off < 0x20 then
      let l := s.dieLink (off / 8)
      flagAt l.trained 0 + flagAt l.degraded 1 + l.retrains * 256
    else 0
  | 0x6 => match off with
    | 0x00 => s.media.videoOff
    | 0x08 => s.media.jpegOff + s.media.inflateOff * 2 ^ 32 + s.media.audioOff * 2 ^ 48
    | 0x10 => foldS (fun x i => x + s.media.holes.getD i 0 * 65536 ^ i) 0 (List.range 4)
    | 0x18 => s.media.holes.getD 4 0
    | _ => 0
  | 0x7 => s.fabWord off
  | 0x8 => if off < 0x80 then s.chanWord (off / 8)
    else if off = 0x80 then s.collInject.part + flagAt s.collInject.arm 3 + s.collInject.bit * 16 else 0
  | 0x9 => if off < 0xA0 then s.updWord (off / 8)
    else if off = 0xA0 then s.updInject.part + flagAt s.updInject.arm 3 + s.updInject.bit * 16 else 0
  | 0xA => s.pwrWord off
  | 0xB => s.mgmtWord off
  | _ => 0

/-- `n` bytes of the set-up registers as management firmware reads them: a narrower read returns the addressed bytes (R540). -/
def State.regBytes (s : State) (addr n : Nat) : List Byte :=
  (List.range n).map fun i =>
    let a := addr - regBase + i
    BitVec.ofNat 8 (s.regRead (a / 2 ^ 20) (a % 2 ^ 20 / 8 * 8) / 256 ^ (a % 8))

/-! ## What a host reads through CXL.io (R233, R234) -/

/-- A word of an MSI-X entry as read. -/
def MsixEntry.word (e : MsixEntry) (w : Nat) : Nat :=
  match w with
  | 0 => e.addr % 2 ^ 32
  | 1 => e.addr / 2 ^ 32
  | 2 => e.data
  | _ => flagAt e.masked 0

/-- A byte of BAR0: the status mirror, the MSI-X table, the pending bits; elsewhere zero. -/
def State.bar0Byte (s : State) (p off : Nat) : Byte :=
  if 0x1000 ≤ off ∧ off < 0x2000 then (s.mirrorPage p).getD (off - 0x1000) 0
  else if 0x2000 ≤ off ∧ off < 0xA000 then
    let k := off - 0x2000
    BitVec.ofNat 8 ((tget MsixEntry.dflt (s.part p).msix (k / 16)).word (k % 16 / 4) / 256 ^ (k % 4))
  else if 0xA000 ≤ off ∧ off < 0xA100 then
    BitVec.ofNat 8 (maskOf ((List.range 8).filter fun i => (s.part p).pba.contains (8 * (off - 0xA000) + i)))
  else 0

/-- `n` bytes of BAR0 or BAR2 as a host reads them; none: the read completes with Unsupported Request. -/
def State.ioRead (s : State) (h : Port) (bar off n : Nat) : Option (List Byte) :=
  (s.portPart h).map fun p => (List.range n).map fun i =>
    if bar = 0 then s.bar0Byte p (off + i)
    else BitVec.ofNat 8 (s.pageWord p ((off + i) / 8 * 8) / 256 ^ ((off + i) % 8))

end Sys2Proof.Machine
end

