-- ==== Sys2Proof/Machine/Dispatch.lean ====
section
/-!
DEFINITION. The meaning of every command: one arm per constructor.
-/

namespace Sys2Proof.Machine

/-- The effect of a command on everything but the queue. -/
def exec (i : Instr) (s : State) : Host.Outcome State Fault Refusal :=
  match i with
  | .registerWrite src addr size value => Sys2Proof.Machine.execRegisterWrite src addr size value s
  | .sqProducer h ring value => Sys2Proof.Machine.execSqProducer h ring value s
  | .cqConsumer h ring value => Sys2Proof.Machine.execCqConsumer h ring value s
  | .ringCtlSubmission h value => Sys2Proof.Machine.execRingCtlSubmission h value s
  | .ringCtlCompletion h value => Sys2Proof.Machine.execRingCtlCompletion h value s
  | .resume h value => Sys2Proof.Machine.execResume h value s
  | .cancelTag h value => Sys2Proof.Machine.execCancelTag h value s
  | .cancelFromTag h value => Sys2Proof.Machine.execCancelFromTag h value s
  | .cancelRing h value => Sys2Proof.Machine.execCancelRing h value s
  | .cancelPartition h value => Sys2Proof.Machine.execCancelPartition h value s
  | .descriptorFetch part ring => Sys2Proof.Machine.execDescriptorFetch part ring s
  | .descriptorAdmit r => Sys2Proof.Machine.execDescriptorAdmit r s
  | .sliceIssue r t => Sys2Proof.Machine.execSliceIssue r t s
  | .sliceEnd r t stall => Sys2Proof.Machine.execSliceEnd r t stall s
  | .descriptorComplete r => Sys2Proof.Machine.execDescriptorComplete r s
  | .completionEntryWrite part cq => Sys2Proof.Machine.execCompletionEntryWrite part cq s
  | .msixTableWrite h vec word value => Sys2Proof.Machine.execMsixTableWrite h vec word value s
  | .nop r => Sys2Proof.Machine.execNop r s
  | .waitGe r => Sys2Proof.Machine.execWaitGe r s
  | .waitEq r => Sys2Proof.Machine.execWaitEq r s
  | .set r => Sys2Proof.Machine.execSet r s
  | .add r => Sys2Proof.Machine.execAdd r s
  | .copy r => Sys2Proof.Machine.execCopy r s
  | .stateDump r => Sys2Proof.Machine.execStateDump r s
  | .accSave r => Sys2Proof.Machine.execAccSave r s
  | .accRestore r => Sys2Proof.Machine.execAccRestore r s
  | .matmul r => Sys2Proof.Machine.execMatmul r s
  | .convFwd r => Sys2Proof.Machine.execConvFwd r s
  | .convDgrad r => Sys2Proof.Machine.execConvDgrad r s
  | .convWgrad r => Sys2Proof.Machine.execConvWgrad r s
  | .poolMax r => Sys2Proof.Machine.execPoolMax r s
  | .poolAvgIncl r => Sys2Proof.Machine.execPoolAvgIncl r s
  | .poolAvgExcl r => Sys2Proof.Machine.execPoolAvgExcl r s
  | .poolMaxBwd r => Sys2Proof.Machine.execPoolMaxBwd r s
  | .poolAvgInclBwd r => Sys2Proof.Machine.execPoolAvgInclBwd r s
  | .poolAvgExclBwd r => Sys2Proof.Machine.execPoolAvgExclBwd r s
  | .boxDecode r => Sys2Proof.Machine.execBoxDecode r s
  | .overlapSuppress r => Sys2Proof.Machine.execOverlapSuppress r s
  | .vec r => Sys2Proof.Machine.execVec r s
  | .xc16Encode r => Sys2Proof.Machine.execXc16Encode r s
  | .xc16Decode r => Sys2Proof.Machine.execXc16Decode r s
  | .attnScore r => Sys2Proof.Machine.execAttnScore r s
  | .attnNorm r => Sys2Proof.Machine.execAttnNorm r s
  | .attnPv r => Sys2Proof.Machine.execAttnPv r s
  | .attnBwd r => Sys2Proof.Machine.execAttnBwd r s
  | .decodeStep r => Sys2Proof.Machine.execDecodeStep r s
  | .seqResume r => Sys2Proof.Machine.execSeqResume r s
  | .give r => Sys2Proof.Machine.execGive r s
  | .truncate r => Sys2Proof.Machine.execTruncate r s
  | .free r => Sys2Proof.Machine.execFree r s
  | .mediaSample r => Sys2Proof.Machine.execMediaSample r s
  | .streamOpen r found => Sys2Proof.Machine.execStreamOpen r found s
  | .streamClose r => Sys2Proof.Machine.execStreamClose r s
  | .sampleStart r x engine => Sys2Proof.Machine.execSampleStart r x engine s
  | .sampleDecodeEnd r k found => Sys2Proof.Machine.execSampleDecodeEnd r k found s
  | .sampleCommit r x => Sys2Proof.Machine.execSampleCommit r x s
  | .gather r => Sys2Proof.Machine.execGather r s
  | .reduceScatter r => Sys2Proof.Machine.execReduceScatter r s
  | .allReduce r => Sys2Proof.Machine.execAllReduce r s
  | .broadcast r => Sys2Proof.Machine.execBroadcast r s
  | .barrier r => Sys2Proof.Machine.execBarrier r s
  | .permute r => Sys2Proof.Machine.execPermute r s
  | .chunkSend r => Sys2Proof.Machine.execChunkSend r s
  | .permuteMove r round => Sys2Proof.Machine.execPermuteMove r round s
  | .updateBind r => Sys2Proof.Machine.execUpdateBind r s
  | .updateUnbind r => Sys2Proof.Machine.execUpdateUnbind r s
  | .updateChunk r c => Sys2Proof.Machine.execUpdateChunk r c s
  | .regenerate r => Sys2Proof.Machine.execRegenerate r s
  | .compute r => Sys2Proof.Machine.execCompute r s
  | .compare r => Sys2Proof.Machine.execCompare r s
  | .save r => Sys2Proof.Machine.execSave r s
  | .load r => Sys2Proof.Machine.execLoad r s
  | .vecNop p x => Sys2Proof.Machine.execVecNop p x s
  | .vecLd p x => Sys2Proof.Machine.execVecLd p x s
  | .vecSt p x => Sys2Proof.Machine.execVecSt p x s
  | .vecMov p x => Sys2Proof.Machine.execVecMov p x s
  | .vecConst p x => Sys2Proof.Machine.execVecConst p x s
  | .vecIota p x => Sys2Proof.Machine.execVecIota p x s
  | .vecAdd p x => Sys2Proof.Machine.execVecAdd p x s
  | .vecSub p x => Sys2Proof.Machine.execVecSub p x s
  | .vecMul p x => Sys2Proof.Machine.execVecMul p x s
  | .vecFma p x => Sys2Proof.Machine.execVecFma p x s
  | .vecMax p x => Sys2Proof.Machine.execVecMax p x s
  | .vecMin p x => Sys2Proof.Machine.execVecMin p x s
  | .vecAbs p x => Sys2Proof.Machine.execVecAbs p x s
  | .vecNeg p x => Sys2Proof.Machine.execVecNeg p x s
  | .vecDiv p x => Sys2Proof.Machine.execVecDiv p x s
  | .vecSqrt p x => Sys2Proof.Machine.execVecSqrt p x s
  | .vecRcp p x => Sys2Proof.Machine.execVecRcp p x s
  | .vecRsqrt p x => Sys2Proof.Machine.execVecRsqrt p x s
  | .vecExp p x => Sys2Proof.Machine.execVecExp p x s
  | .vecExp2 p x => Sys2Proof.Machine.execVecExp2 p x s
  | .vecLog p x => Sys2Proof.Machine.execVecLog p x s
  | .vecLog2 p x => Sys2Proof.Machine.execVecLog2 p x s
  | .vecSin p x => Sys2Proof.Machine.execVecSin p x s
  | .vecCos p x => Sys2Proof.Machine.execVecCos p x s
  | .vecTanh p x => Sys2Proof.Machine.execVecTanh p x s
  | .vecSigmoid p x => Sys2Proof.Machine.execVecSigmoid p x s
  | .vecErf p x => Sys2Proof.Machine.execVecErf p x s
  | .vecCmp p x => Sys2Proof.Machine.execVecCmp p x s
  | .vecSel p x => Sys2Proof.Machine.execVecSel p x s
  | .vecKop p x => Sys2Proof.Machine.execVecKop p x s
  | .vecAnd p x => Sys2Proof.Machine.execVecAnd p x s
  | .vecOr p x => Sys2Proof.Machine.execVecOr p x s
  | .vecXor p x => Sys2Proof.Machine.execVecXor p x s
  | .vecShl p x => Sys2Proof.Machine.execVecShl p x s
  | .vecShr p x => Sys2Proof.Machine.execVecShr p x s
  | .vecSra p x => Sys2Proof.Machine.execVecSra p x s
  | .vecCvt p x => Sys2Proof.Machine.execVecCvt p x s
  | .vecPack p x => Sys2Proof.Machine.execVecPack p x s
  | .vecUnpk p x => Sys2Proof.Machine.execVecUnpk p x s
  | .vecTrn p x => Sys2Proof.Machine.execVecTrn p x s
  | .vecPerm p x => Sys2Proof.Machine.execVecPerm p x s
  | .vecShuf p x => Sys2Proof.Machine.execVecShuf p x s
  | .vecBcst p x => Sys2Proof.Machine.execVecBcst p x s
  | .vecRsum p x => Sys2Proof.Machine.execVecRsum p x s
  | .vecRmax p x => Sys2Proof.Machine.execVecRmax p x s
  | .vecRmin p x => Sys2Proof.Machine.execVecRmin p x s
  | .vecRargmax p x => Sys2Proof.Machine.execVecRargmax p x s
  | .vecRand p x => Sys2Proof.Machine.execVecRand p x s
  | .updNop p x => Sys2Proof.Machine.execUpdNop p x s
  | .updMov p x => Sys2Proof.Machine.execUpdMov p x s
  | .updAdd p x => Sys2Proof.Machine.execUpdAdd p x s
  | .updSub p x => Sys2Proof.Machine.execUpdSub p x s
  | .updMul p x => Sys2Proof.Machine.execUpdMul p x s
  | .updFma p x => Sys2Proof.Machine.execUpdFma p x s
  | .updDiv p x => Sys2Proof.Machine.execUpdDiv p x s
  | .updSqrt p x => Sys2Proof.Machine.execUpdSqrt p x s
  | .updRsqrt p x => Sys2Proof.Machine.execUpdRsqrt p x s
  | .updRcp p x => Sys2Proof.Machine.execUpdRcp p x s
  | .updMax p x => Sys2Proof.Machine.execUpdMax p x s
  | .updMin p x => Sys2Proof.Machine.execUpdMin p x s
  | .updAbs p x => Sys2Proof.Machine.execUpdAbs p x s
  | .updNeg p x => Sys2Proof.Machine.execUpdNeg p x s
  | .updCmp p x => Sys2Proof.Machine.execUpdCmp p x s
  | .updSel p x => Sys2Proof.Machine.execUpdSel p x s
  | .updMrd p x => Sys2Proof.Machine.execUpdMrd p x s
  | .updMadd p x => Sys2Proof.Machine.execUpdMadd p x s
  | .updExp2 p x => Sys2Proof.Machine.execUpdExp2 p x s
  | .updLog2 p x => Sys2Proof.Machine.execUpdLog2 p x s
  | .updBsum p x => Sys2Proof.Machine.execUpdBsum p x s
  | .updBmax p x => Sys2Proof.Machine.execUpdBmax p x s
  | .tickBoundary input => Sys2Proof.Machine.execTickBoundary input s
  | .laneRepairEnd stack ch => Sys2Proof.Machine.execLaneRepairEnd stack ch s
  | .snapshotPublish => Sys2Proof.Machine.execSnapshotPublish s
  | .waitCycleReport part => Sys2Proof.Machine.execWaitCycleReport part s
  | .lateReport r => Sys2Proof.Machine.execLateReport r s
  | .tickStageAt value => Sys2Proof.Machine.execTickStageAt value s
  | .tickEpoch value t => Sys2Proof.Machine.execTickEpoch value t s
  | .sync f t offset gm twoStep seq => Sys2Proof.Machine.execSync f t offset gm twoStep seq s
  | .followUp f t offset gm seq => Sys2Proof.Machine.execFollowUp f t offset gm seq s
  | .announce f a => Sys2Proof.Machine.execAnnounce f a s
  | .delayReq f requester seq rxTime => Sys2Proof.Machine.execDelayReq f requester seq rxTime s
  | .delayResp f seq delay => Sys2Proof.Machine.execDelayResp f seq delay s
  | .ptpIgnoredMessage f typ => Sys2Proof.Machine.execPtpIgnoredMessage f typ s
  | .syncInterval => Sys2Proof.Machine.execSyncInterval s
  | .announceInterval => Sys2Proof.Machine.execAnnounceInterval s
  | .delayReqInterval => Sys2Proof.Machine.execDelayReqInterval s
  | .announceReceiptTimeout mac => Sys2Proof.Machine.execAnnounceReceiptTimeout mac s
  | .data f => Sys2Proof.Machine.execData f s
  | .ack f => Sys2Proof.Machine.execAck f s
  | .hello f => Sys2Proof.Machine.execHello f s
  | .census f t => Sys2Proof.Machine.execCensus f t s
  | .chReset f => Sys2Proof.Machine.execChReset f s
  | .chResetAck f => Sys2Proof.Machine.execChResetAck f s
  | .trailer f => Sys2Proof.Machine.execTrailer f s
  | .bases f => Sys2Proof.Machine.execBases f s
  | .token f => Sys2Proof.Machine.execToken f s
  | .grant f => Sys2Proof.Machine.execGrant f s
  | .ackTimer ch => Sys2Proof.Machine.execAckTimer ch s
  | .rtoExpiry ch seq => Sys2Proof.Machine.execRtoExpiry ch seq s
  | .channelFailTimeout ch => Sys2Proof.Machine.execChannelFailTimeout ch s
  | .chResetRetry ch => Sys2Proof.Machine.execChResetRetry ch s
  | .chResetTimeout ch => Sys2Proof.Machine.execChResetTimeout ch s
  | .helloTimer => Sys2Proof.Machine.execHelloTimer s
  | .helloWaitExpiry mac => Sys2Proof.Machine.execHelloWaitExpiry mac s
  | .censusResend pkg => Sys2Proof.Machine.execCensusResend pkg s
  | .censusPeriodic => Sys2Proof.Machine.execCensusPeriodic s
  | .censusQuiet => Sys2Proof.Machine.execCensusQuiet s
  | .censusLimit => Sys2Proof.Machine.execCensusLimit s
  | .fabricLinkTimeout => Sys2Proof.Machine.execFabricLinkTimeout s
  | .macLinkChange mac up => Sys2Proof.Machine.execMacLinkChange mac up s
  | .pfcFrame mac prio pause => Sys2Proof.Machine.execPfcFrame mac prio pause s
  | .pause mac => Sys2Proof.Machine.execPause mac s
  | .start => Sys2Proof.Machine.execStart s
  | .bind value t => Sys2Proof.Machine.execBind value t s
  | .unbind value => Sys2Proof.Machine.execUnbind value s
  | .cxlMemRead h addr ecc => Sys2Proof.Machine.execCxlMemRead h addr ecc s
  | .cxlMemWrite h addr line => Sys2Proof.Machine.execCxlMemWrite h addr line s
  | .hdmDecoderCommit h base => Sys2Proof.Machine.execHdmDecoderCommit h base s
  | .functionLevelReset h => Sys2Proof.Machine.execFunctionLevelReset h s
  | .flrWaitExpiry part => Sys2Proof.Machine.execFlrWaitExpiry part s
  | .linkReset att => Sys2Proof.Machine.execLinkReset att s
  | .attachmentLinkChange att up cxl mld => Sys2Proof.Machine.execAttachmentLinkChange att up cxl mld s
  | .perstN q => Sys2Proof.Machine.execPerstN q s
  | .partitionCreate p => Sys2Proof.Machine.execPartitionCreate p s
  | .partitionReady p => Sys2Proof.Machine.execPartitionReady p s
  | .partitionDestroy p => Sys2Proof.Machine.execPartitionDestroy p s
  | .partitionDestroyExpiry p => Sys2Proof.Machine.execPartitionDestroyExpiry p s
  | .modeWrite p mode => Sys2Proof.Machine.execModeWrite p mode s
  | .partBufCommit h value => Sys2Proof.Machine.execPartBufCommit h value s
  | .partExcBase h value => Sys2Proof.Machine.execPartExcBase h value s
  | .partDrowse h hi value => Sys2Proof.Machine.execPartDrowse h hi value s
  | .partFwuCmd h value => Sys2Proof.Machine.execPartFwuCmd h value s
  | .firmwareUpdateComplete code erased => Sys2Proof.Machine.execFirmwareUpdateComplete code erased s
  | .train => Sys2Proof.Machine.execTrain s
  | .trainingComplete faults => Sys2Proof.Machine.execTrainingComplete faults s
  | .patrolScrub addr ecc => Sys2Proof.Machine.execPatrolScrub addr ecc s
  | .stackTempSample stack temp => Sys2Proof.Machine.execStackTempSample stack temp s
  | .dieSensorSample diode temp4 => Sys2Proof.Machine.execDieSensorSample diode temp4 s
  | .dieLinkFailure link => Sys2Proof.Machine.execDieLinkFailure link s
  | .dieLinkRetrain link degraded => Sys2Proof.Machine.execDieLinkRetrain link degraded s
  | .swapComplete part seq => Sys2Proof.Machine.execSwapComplete part seq s
  | .go value => Sys2Proof.Machine.execGo value s
  | .packageStateEntered => Sys2Proof.Machine.execPackageStateEntered s
  | .wakeAddressMatch addr => Sys2Proof.Machine.execWakeAddressMatch addr s
  | .thermalAlert temp => Sys2Proof.Machine.execThermalAlert temp s
  | .release value => Sys2Proof.Machine.execRelease value s
  | .aonResetN release => Sys2Proof.Machine.execAonResetN release s
  | .bootComplete b => Sys2Proof.Machine.execBootComplete b s
  | .coldResetN => Sys2Proof.Machine.execColdResetN s
  | .warmResetN => Sys2Proof.Machine.execWarmResetN s
  | .cold => Sys2Proof.Machine.execCold s
  | .warm => Sys2Proof.Machine.execWarm s
  | .mainPwrgd up => Sys2Proof.Machine.execMainPwrgd up s
  | .refclk100Loss => Sys2Proof.Machine.execRefclk100Loss s
  | .refclk156Loss => Sys2Proof.Machine.execRefclk156Loss s
  | .refclk25Loss => Sys2Proof.Machine.execRefclk25Loss s
  | .freeze => Sys2Proof.Machine.execFreeze s
  | .unfreeze => Sys2Proof.Machine.execUnfreeze s
  | .kick => Sys2Proof.Machine.execKick s
  | .watchdogExpiry t => Sys2Proof.Machine.execWatchdogExpiry t s
  | .lock => Sys2Proof.Machine.execLock s
  | .nonceExpiry => Sys2Proof.Machine.execNonceExpiry s
  | .getInfo m => Sys2Proof.Machine.execGetInfo m s
  | .recorderRead m => Sys2Proof.Machine.execRecorderRead m s
  | .recorderFreeze m => Sys2Proof.Machine.execRecorderFreeze m s
  | .recorderUnfreeze m => Sys2Proof.Machine.execRecorderUnfreeze m s
  | .logRead m => Sys2Proof.Machine.execLogRead m s
  | .partitionSet m => Sys2Proof.Machine.execPartitionSet m s
  | .partitionMode m => Sys2Proof.Machine.execPartitionMode m s
  | .partitionClear m => Sys2Proof.Machine.execPartitionClear m s
  | .policySet m => Sys2Proof.Machine.execPolicySet m s
  | .fabricId m => Sys2Proof.Machine.execFabricId m s
  | .fabricSetup m => Sys2Proof.Machine.execFabricSetup m s
  | .jobBind m t => Sys2Proof.Machine.execJobBind m t s
  | .jobUnbind m => Sys2Proof.Machine.execJobUnbind m s
  | .tickStage m => Sys2Proof.Machine.execTickStage m s
  | .powerState m => Sys2Proof.Machine.execPowerState m s
  | .governorSet m => Sys2Proof.Machine.execGovernorSet m s
  | .retireRecord m => Sys2Proof.Machine.execRetireRecord m s
  | .debugUnlock m => Sys2Proof.Machine.execDebugUnlock m s
  | .policy m => Sys2Proof.Machine.execPolicy m s
  | .setEndpointId eid => Sys2Proof.Machine.execSetEndpointId eid s
  | .getEndpointId => Sys2Proof.Machine.execGetEndpointId s
  | .getMctpVersionSupport typ => Sys2Proof.Machine.execGetMctpVersionSupport typ s
  | .getMessageTypeSupport => Sys2Proof.Machine.execGetMessageTypeSupport s
  | .getSensorReading sensor => Sys2Proof.Machine.execGetSensorReading sensor s
  | .getPdr record => Sys2Proof.Machine.execGetPdr record s
  | .getPdrRepositoryInfo => Sys2Proof.Machine.execGetPdrRepositoryInfo s
  | .requestUpdate => Sys2Proof.Machine.execRequestUpdate s
  | .passComponentTable comps => Sys2Proof.Machine.execPassComponentTable comps s
  | .updateComponent size => Sys2Proof.Machine.execUpdateComponent size s
  | .requestFirmwareData offset piece => Sys2Proof.Machine.execRequestFirmwareData offset piece s
  | .activateFirmware selfContained => Sys2Proof.Machine.execActivateFirmware selfContained s
  | .getVersion q => Sys2Proof.Machine.execGetVersion q s
  | .getCapabilities q => Sys2Proof.Machine.execGetCapabilities q s
  | .negotiateAlgorithms q => Sys2Proof.Machine.execNegotiateAlgorithms q s
  | .getDigests q => Sys2Proof.Machine.execGetDigests q s
  | .getCertificate q => Sys2Proof.Machine.execGetCertificate q s
  | .challenge q => Sys2Proof.Machine.execChallenge q s
  | .getMeasurements q => Sys2Proof.Machine.execGetMeasurements q s
  | .keyExchange q => Sys2Proof.Machine.execKeyExchange q s
  | .finish q => Sys2Proof.Machine.execFinish q s
  | .keyUpdate q => Sys2Proof.Machine.execKeyUpdate q s
  | .heartbeat q => Sys2Proof.Machine.execHeartbeat q s
  | .endSession q => Sys2Proof.Machine.execEndSession q s
  | .getEncapsulatedRequest q => Sys2Proof.Machine.execGetEncapsulatedRequest q s
  | .deliverEncapsulatedResponse q => Sys2Proof.Machine.execDeliverEncapsulatedResponse q s
  | .setCertificate q => Sys2Proof.Machine.execSetCertificate q s
  | .cxlIdeKm q => Sys2Proof.Machine.execCxlIdeKm q s
  | .dieLinkTrainingComplete trained degraded => Sys2Proof.Machine.execDieLinkTrainingComplete trained degraded s
  | .refclk100Return => Sys2Proof.Machine.execRefclk100Return s
  | .refclk156Return => Sys2Proof.Machine.execRefclk156Return s
  | .refclk25Return => Sys2Proof.Machine.execRefclk25Return s
  | .alwaysOnRailLoss => Sys2Proof.Machine.execAlwaysOnRailLoss s
  | .recorderDrain count => Sys2Proof.Machine.execRecorderDrain count s
  | .managementEccError uncorrectable t => Sys2Proof.Machine.execManagementEccError uncorrectable t s
  | .dynamicAddressAssignment addr => Sys2Proof.Machine.execDynamicAddressAssignment addr s
  | .packageStateExitComplete => Sys2Proof.Machine.execPackageStateExitComplete s
  | .doorbellReservedSlot h offset whole => Sys2Proof.Machine.execDoorbellReservedSlot h offset whole s

end Sys2Proof.Machine
end

