-- ==== Sys2Proof/Safety.lean ====
section
/-!
DEFINITION. What a sound state is: the canonical form of the memory, the poison list and the register tables.
-/

namespace Sys2Proof.Machine

/-- The bytes of memory: addresses strictly rising, no listed byte equal to what an unlisted address reads as. -/
def Memory.wf (m : List Host.Cell) : Bool := twf 0 m

/-- The table of attachments, the host memories behind them and their poison are in canonical form. -/
def hostWf (s : State) : Bool := twf Attach.dflt s.atts && s.atts.all fun e => Memory.wf e.2.mem && srise 0 e.2.poison

/-- A sound state: stacked memory, the attachments and their host memories in canonical form, the poisoned sectors and host
lines strictly rising. -/
def State.sound (s : State) : Prop := Memory.wf s.mem = true ∧ srise 0 s.poison = true ∧ hostWf s = true

/-! ## The parts of the state -/

/-- The parts of the state a frame speaks of: every field but the fuses and the queue, which no command writes (the fused SVN
apart). -/
inductive Field where
  | now | tick | ptp | rec' | mgmt | sec | pwr | pins | links | scratch | media | collInject
  | updInject | memc | mem | poison | fab | macs | chans | acc | accGen | res | clbuf | opbuf
  | chipFixed | vec
  | upd | atts | parts | served | image | halted | fresh | out
deriving DecidableEq, Repr

/-- Two states agree in a part. -/
def Field.same (f : Field) (s t : State) : Prop :=
  match f with
  | .now => t.now = s.now
  | .tick => t.tick = s.tick
  | .ptp => t.ptp = s.ptp
  | .rec' => t.rec' = s.rec'
  | .mgmt => t.mgmt = s.mgmt
  | .sec => t.sec = s.sec
  | .pwr => t.pwr = s.pwr
  | .pins => t.pins = s.pins
  | .links => t.links = s.links
  | .scratch => t.scratch = s.scratch
  | .media => t.media = s.media
  | .collInject => t.collInject = s.collInject
  | .updInject => t.updInject = s.updInject
  | .memc => t.memc = s.memc
  | .mem => t.mem = s.mem
  | .poison => t.poison = s.poison
  | .fab => t.fab = s.fab
  | .macs => t.macs = s.macs
  | .chans => t.chans = s.chans
  | .acc => t.acc = s.acc
  | .accGen => t.accGen = s.accGen
  | .res => t.res = s.res
  | .clbuf => t.clbuf = s.clbuf
  | .opbuf => t.opbuf = s.opbuf
  | .chipFixed => t.chipFixed = s.chipFixed
  | .vec => t.vec = s.vec
  | .upd => t.upd = s.upd
  | .atts => t.atts = s.atts
  | .parts => t.parts = s.parts
  | .served => t.served = s.served
  | .image => t.image = s.image
  | .halted => t.halted = s.halted
  | .fresh => t.fresh = s.fresh
  | .out => t.out = s.out

/-- Every part. -/
def everything : List Field :=
  [.now, .tick, .ptp, .rec', .mgmt, .sec, .pwr, .pins, .links, .scratch, .media, .collInject, .updInject, .memc, .mem, .poison,
   .fab, .macs, .chans, .acc, .accGen, .res, .clbuf, .opbuf, .chipFixed, .vec, .upd, .atts, .parts, .served, .image, .halted,
   .fresh, .out]

/-- The parts a command may change. A command with an effect on a partition's memory also touches what a failing access, a
completion or an exception record of that partition writes. -/
def touched (c : Instr) : List Field :=
  match c with
  | .pause _ => []
  | .cqConsumer _ _ _ | .nop _ | .mediaSample _ | .streamClose _ | .updateUnbind _ | .hdmDecoderCommit _ _
  | .modeWrite _ _ | .partDrowse _ _ _ | .doorbellReservedSlot _ _ _ => [.parts]
  | .laneRepairEnd _ _ | .train => [.memc]
  | .tickStageAt _ => [.tick]
  | .ptpIgnoredMessage _ _ => [.macs]
  | .censusQuiet | .censusLimit => [.fab]
  | .wakeAddressMatch _ | .thermalAlert _ | .release _ => [.pwr]
  | .refclk25Loss | .refclk156Return | .refclk25Return => [.pins]
  | .freeze => [.rec']
  | .kick | .lock | .nonceExpiry | .dynamicAddressAssignment _ => [.mgmt]
  | .getEndpointId | .getMessageTypeSupport | .getSensorReading _ | .activateFirmware _ | .getDigests _
  | .getCertificate _ | .heartbeat _ | .getEncapsulatedRequest _ => [.out]
  | .sqProducer _ _ _ => [.atts, .parts]
  | .msixTableWrite _ _ _ _ => [.parts, .out]
  | .delayReq _ _ _ _ | .helloTimer | .pfcFrame _ _ _ => [.macs, .out]
  | .delayResp _ _ _ => [.ptp, .macs]
  | .partitionCreate _ => [.media, .parts]
  | .dieLinkRetrain _ _ => [.rec', .links]
  | .recorderRead _ | .recorderFreeze _ => [.rec', .out]
  | .setEndpointId _ | .requestUpdate | .passComponentTable _ | .updateComponent _ => [.mgmt, .out]
  | .getMctpVersionSupport _ | .getPdr _ | .getPdrRepositoryInfo | .challenge _ | .getMeasurements _ => [.fresh, .out]
  | .getVersion _ | .negotiateAlgorithms _ | .finish _ | .keyUpdate _ | .endSession _ | .deliverEncapsulatedResponse _
  | .setCertificate _ | .cxlIdeKm _ => [.sec, .out]
  | .dieLinkTrainingComplete _ _ => [.links, .fab]
  | .sampleStart _ _ _ => [.mem, .parts, .fresh]
  | .updateBind _ | .cxlMemWrite _ _ _ => [.mem, .poison, .parts]
  | .tickEpoch _ _ => [.now, .tick, .parts]
  | .announce _ _ => [.ptp, .rec', .macs]
  | .announceInterval | .delayReqInterval => [.ptp, .macs, .out]
  | .announceReceiptTimeout _ => [.tick, .ptp, .rec']
  | .censusResend _ => [.fab, .macs, .out]
  | .unbind _ => [.fab, .parts, .fresh]
  | .refclk156Loss => [.rec', .pins, .macs]
  | .unfreeze | .recorderDrain _ => [.rec', .mem, .poison]
  | .partitionMode _ | .policySet _ => [.rec', .parts, .out]
  | .fabricId _ => [.rec', .fab, .out]
  | .tickStage _ => [.tick, .rec', .out]
  | .governorSet _ => [.rec', .pwr, .out]
  | .retireRecord _ | .debugUnlock _ | .policy _ => [.rec', .mgmt, .out]
  | .getCapabilities _ | .keyExchange _ => [.sec, .fresh, .out]
  | .ackTimer _ | .rtoExpiry _ _ | .chResetRetry _ => [.macs, .chans, .fresh, .out]
  | .censusPeriodic => [.mem, .poison, .macs, .out]
  | .attachmentLinkChange _ _ _ _ => [.rec', .atts, .parts, .out]
  | .getInfo _ => [.rec', .mgmt, .fresh, .out]
  | .recorderUnfreeze _ => [.rec', .mem, .poison, .out]
  | .snapshotPublish => [.now, .tick, .mem, .poison, .parts]
  | .waitCycleReport _ | .lateReport _ => [.rec', .mem, .poison, .parts, .out]
  | .trainingComplete _ => [.rec', .memc, .mem, .poison, .fab]
  | .jobUnbind _ => [.rec', .fab, .parts, .fresh, .out]
  | .copy _ | .seqResume _ => [.mem, .poison, .clbuf, .opbuf, .parts, .fresh]
  | .hello _ | .helloWaitExpiry _ | .fabricLinkTimeout | .start => [.mem, .poison, .fab, .macs, .fresh, .out]
  | .channelFailTimeout _ | .chResetTimeout _ => [.rec', .mem, .poison, .chans, .parts, .out]
  | .dieLinkFailure _ => [.tick, .rec', .links, .atts, .halted, .out]
  | .watchdogExpiry _ | .managementEccError _ _ => [.now, .tick, .rec', .mgmt, .parts, .fresh]
  | .sliceEnd _ _ _ => [.now, .rec', .mem, .poison, .parts, .fresh, .out]
  | .updNop _ _ | .updMov _ _ | .updAdd _ _ | .updSub _ _ | .updMul _ _ | .updFma _ _ | .updDiv _ _ | .updSqrt _ _
  | .updRsqrt _ _ | .updRcp _ _ | .updMax _ _ | .updMin _ _ | .updAbs _ _ | .updNeg _ _ | .updCmp _ _ | .updSel _ _
  | .updMrd _ _ | .updMadd _ _ | .updExp2 _ _ | .updLog2 _ _ | .updBsum _ _ | .updBmax _ _
    => [.rec', .mem, .poison, .upd, .parts, .fresh, .out]
  | .sync _ _ _ _ _ _ | .followUp _ _ _ _ _ => [.now, .tick, .ptp, .pwr, .fab, .macs, .parts]
  | .ack _ | .chReset _ | .chResetAck _ => [.mem, .poison, .macs, .chans, .parts, .fresh, .out]
  | .macLinkChange _ _ | .fabricSetup _ => [.rec', .mem, .poison, .fab, .macs, .fresh, .out]
  | .cxlMemRead _ _ _ | .patrolScrub _ _ => [.rec', .memc, .mem, .poison, .parts, .fresh, .out]
  | .dieSensorSample _ _ => [.tick, .rec', .pwr, .pins, .atts, .halted, .out]
  | .ringCtlSubmission _ _ | .ringCtlCompletion _ _ | .descriptorAdmit _ | .waitGe _ | .waitEq _ | .set _ | .add _
  | .stateDump _ | .streamOpen _ _ | .sampleDecodeEnd _ _ _ | .compute _ | .compare _ | .save _ | .load _
  | .partBufCommit _ _ | .partExcBase _ _ | .logRead _ => [.rec', .memc, .mem, .poison, .chipFixed, .parts, .fresh, .out]
  | .accSave _ | .convFwd _ | .convDgrad _ | .convWgrad _ | .poolMax _ | .poolAvgIncl _ | .poolAvgExcl _ | .poolMaxBwd _
  | .poolAvgInclBwd _ | .poolAvgExclBwd _ | .boxDecode _ | .overlapSuppress _ | .vec _ | .xc16Encode _ | .xc16Decode _
  | .attnScore _ | .attnNorm _ | .attnPv _ | .attnBwd _ | .decodeStep _
    => [.rec', .mem, .poison, .clbuf, .opbuf, .parts, .fresh, .out]
  | .syncInterval => [.now, .tick, .ptp, .pwr, .fab, .macs, .parts, .out]
  | .stackTempSample _ _ => [.tick, .rec', .pwr, .pins, .memc, .atts, .halted, .out]
  | .sliceIssue _ _ => [.now, .rec', .memc, .mem, .poison, .chipFixed, .parts, .fresh, .out]
  | .matmul _ => [.rec', .mem, .poison, .acc, .clbuf, .opbuf, .parts, .fresh, .out]
  | .sampleCommit _ _ => [.rec', .media, .memc, .mem, .poison, .chipFixed, .parts, .fresh, .out]
  | .broadcast _ | .barrier _ | .permute _ => [.rec', .collInject, .mem, .poison, .macs, .chans, .parts, .fresh, .out]
  | .regenerate _ => [.rec', .memc, .mem, .poison, .chipFixed, .upd, .parts, .fresh, .out]
  | .vecNop _ _ | .vecLd _ _ | .vecSt _ _ | .vecMov _ _ | .vecConst _ _ | .vecIota _ _ | .vecAdd _ _ | .vecSub _ _
  | .vecMul _ _ | .vecFma _ _ | .vecMax _ _ | .vecMin _ _ | .vecAbs _ _ | .vecNeg _ _ | .vecDiv _ _ | .vecSqrt _ _
  | .vecRcp _ _ | .vecRsqrt _ _ | .vecExp _ _ | .vecExp2 _ _ | .vecLog _ _ | .vecLog2 _ _ | .vecSin _ _ | .vecCos _ _
  | .vecTanh _ _ | .vecSigmoid _ _ | .vecErf _ _ | .vecCmp _ _ | .vecSel _ _ | .vecKop _ _ | .vecAnd _ _ | .vecOr _ _
  | .vecXor _ _ | .vecShl _ _ | .vecShr _ _ | .vecSra _ _ | .vecCvt _ _ | .vecPack _ _ | .vecUnpk _ _ | .vecTrn _ _
  | .vecPerm _ _ | .vecShuf _ _ | .vecBcst _ _ | .vecRsum _ _ | .vecRmax _ _ | .vecRmin _ _ | .vecRargmax _ _
  | .vecRand _ _ => [.rec', .mem, .poison, .clbuf, .opbuf, .vec, .parts, .fresh, .out]
  | .census _ _ => [.now, .rec', .mem, .poison, .fab, .macs, .parts, .fresh, .out]
  | .partFwuCmd _ _ | .firmwareUpdateComplete _ _ => [.rec', .mgmt, .memc, .mem, .poison, .chipFixed, .parts, .fresh, .out]
  | .swapComplete _ _ => [.rec', .memc, .mem, .poison, .chipFixed, .atts, .parts, .fresh, .out]
  | .bootComplete _ => [.tick, .rec', .mgmt, .memc, .mem, .poison, .fab, .parts, .fresh]
  | .accRestore _ => [.rec', .mem, .poison, .acc, .res, .clbuf, .opbuf, .parts, .fresh, .out]
  | .give _ | .truncate _ | .free _ => [.rec', .memc, .mem, .poison, .clbuf, .opbuf, .chipFixed, .parts, .fresh, .out]
  | .permuteMove _ _ => [.rec', .memc, .mem, .poison, .macs, .chans, .chipFixed, .parts, .fresh, .out]
  | .bases _ | .grant _ => [.rec', .collInject, .updInject, .mem, .poison, .macs, .chans, .parts, .fresh, .out]
  | .resume _ _ | .descriptorComplete _ => [.rec', .mem, .poison, .acc, .accGen, .res, .vec, .upd, .parts, .fresh, .out]
  | .gather _ | .reduceScatter _ | .allReduce _
    => [.rec', .collInject, .memc, .mem, .poison, .macs, .chans, .chipFixed, .parts, .fresh, .out]
  | .chunkSend _ => [.rec', .updInject, .memc, .mem, .poison, .macs, .chans, .chipFixed, .parts, .fresh, .out]
  | .updateChunk _ _ => [.rec', .memc, .mem, .poison, .macs, .chans, .chipFixed, .upd, .parts, .fresh, .out]
  | .tickBoundary _ => [.now, .tick, .rec', .pwr, .memc, .mem, .poison, .chipFixed, .parts, .fresh, .out]
  | .data _ | .trailer _ | .token _
    => [.rec', .collInject, .updInject, .memc, .mem, .poison, .macs, .chans, .chipFixed, .parts, .fresh, .out]
  | .bind _ _ | .jobBind _ _ => [.now, .tick, .rec', .mgmt, .memc, .mem, .poison, .fab, .chipFixed, .parts, .fresh, .out]
  | .flrWaitExpiry _ => [.mem, .poison, .macs, .chans, .acc, .accGen, .res, .vec, .upd, .parts, .fresh, .out]
  | .partitionReady _ => [.rec', .mgmt, .mem, .poison, .acc, .accGen, .res, .opbuf, .vec, .upd, .parts, .out]
  | .cancelTag _ _ | .cancelFromTag _ _ | .cancelRing _ _ | .cancelPartition _ _ | .functionLevelReset _ | .linkReset _
  | .perstN _ => [.rec', .mem, .poison, .macs, .chans, .acc, .accGen, .res, .vec, .upd, .parts, .fresh, .out]
  | .descriptorFetch _ _
    => [.rec', .memc, .mem, .poison, .acc, .accGen, .res, .chipFixed, .vec, .upd, .parts, .served, .fresh, .out]
  | .completionEntryWrite _ _
    => [.rec', .memc, .mem, .poison, .acc, .accGen, .res, .chipFixed, .vec, .upd, .atts, .parts, .fresh, .out]
  | .partitionDestroy _ | .partitionDestroyExpiry _ | .partitionClear _
    => [.rec', .mgmt, .mem, .poison, .macs, .chans, .acc, .accGen, .res, .vec, .upd, .parts, .fresh, .out]
  | .partitionSet _
    => [.rec', .mgmt, .media, .mem, .poison, .macs, .chans, .acc, .accGen, .res, .vec, .upd, .parts, .fresh, .out]
  | .packageStateEntered
    => [.tick, .ptp, .rec', .sec, .pwr, .links, .media, .collInject, .updInject, .memc, .mem, .poison, .fab, .macs,
      .chans, .acc, .accGen, .res, .clbuf, .opbuf, .chipFixed, .vec, .upd, .atts, .parts, .served, .image, .fresh]
  | .registerWrite _ _ _ _ | .go _ | .aonResetN _ | .coldResetN | .warmResetN | .cold | .warm | .mainPwrgd _
  | .refclk100Loss | .powerState _ | .requestFirmwareData _ _ | .refclk100Return | .alwaysOnRailLoss
  | .packageStateExitComplete => everything

end Sys2Proof.Machine
end

