-- ==== Sys2Proof/Certificates/Slice0/Obligations.lean ====
section
/-!
DEFINITION. The statements about the BX-20, each from the rules its docstring names.
-/

namespace Sys2Proof.Machine

/-! ## How the statements speak -/

/-- The command answers a next state, and `P` holds of it. -/
def Does (c : Instr) (s : State) (P : State → Prop) : Prop := ∃ t, exec c s = .next t ∧ P t

/-- Two states differ at most in the parts `fs`: the other parts, the queue and the fuses agree. -/
def Only (fs : List Field) (s t : State) : Prop :=
  (∀ f, f ∉ fs → f.same s t) ∧ t.pending = s.pending ∧ t.fuse = s.fuse

/-- The partitions other than `p` agree. -/
def OthersKept (p : Nat) (s t : State) : Prop := ∀ q, q ≠ p → t.part q = s.part q

/-- No good image waits in the retention SRAM of a package outside RUN: an exit now is a cold reset (R486). -/
def State.badExit (s : State) : Bool := s.pwr.state != 0 && !(s.image.any RetImage.crcOk)

/-- Where a command may reset the package, or its domains, cold: the reset pins and rails; COLD, or the write of it, by firmware;
an exit without a good image; the loss or return of a supply or clock of the domains (R570); and in recovery mode the
last piece of an image (R514). -/
def State.mayColdReset (s : State) : Instr → Bool
  | .coldResetN | .alwaysOnRailLoss | .aonResetN false => true
  | .cold => s.firmware
  | .registerWrite .mgmt addr _ v => s.firmware && ((addr == regBase && bitOf v.value.toNat 1) ||
      (addr == regBase + 0xA00000 && bitOf v.value.toNat 2 && s.badExit))
  | .go v => s.firmware && bitOf v.toNat 2 && s.badExit
  | .powerState _ => s.firmware && s.badExit
  | .mainPwrgd up => if up then s.pins.heldInReset && s.pins.ref100 else s.pwr.state == 0 && !s.pins.heldInReset && !s.pwr.exiting
  | .refclk100Loss => s.pwr.state == 0 && !s.pins.heldInReset && !s.pwr.exiting
  | .refclk100Return => s.pins.heldInReset && s.pins.mainPwrgd
  | .packageStateExitComplete => s.pwr.exiting && s.pins.mainPwrgd && !s.pins.ref100
  | .requestFirmwareData _ _ => s.mgmt.boot == .recovery
  | _ => false

/-- Descriptor `r` of a state, once a cancel has taken it: still in flight and marked, with a status decided, or as a cancelled entry at its
completion ring. -/
def State.CancelTook (t : State) (r : DRef) : Prop :=
  (∃ d, t.desc r = some d ∧ d.cancel = true ∧ d.status.isSome = true) ∨
  (∃ e, e ∈ ((t.part r.part).comRing ((t.part r.part).subRing r.ring).cq).waiting ∧ e.ring = r.ring ∧ e.num = r.num ∧ e.cancel = true)

/-- A doorbell on port `h` reaches partition `p`: a ready partition behind a link that is up, its function not being reset or
withdrawn, the package neither halted nor entering a power state. -/
def State.Listens (s : State) (h : Port) (p : Nat) : Prop :=
  s.portPart h = some p ∧ s.halted = false ∧ (s.part p).life = .ready ∧ s.pwr.busy = false

/-- The state in which partition `p` has counted one rejected doorbell, and nothing else has changed. -/
def State.Rejected (s : State) (p : Nat) : State :=
  s.updPart p fun q => { q with mirror := { q.mirror with doorbellReject := q.mirror.doorbellReject + 1 } }

/-- What storing an exception record leaves in memory (R526 to R528): with no ring nothing; with room, which keeps its last slot for
the first trap of a hold, the record in its slot and the count of records; else one more in the overflow count. -/
def State.recordPut (s : State) (p : Nat) (bytes : List Byte) (first : Bool) : List (Nat × List Byte) :=
  let q := s.part p
  let base := q.page.excBase
  let cap := 2 ^ q.excLog2
  if base = 0 then []
  else if q.excCount - s.rdN (base + 8) 8 + (if first then 1 else 2) ≤ cap then
    [(base + 0x40 + 64 * (q.excCount % cap), padTo 64 bytes), (base, leBytes 8 (q.excCount + 1))]
  else [(base + 0x18, leBytes 8 (s.rdN (base + 0x18) 8 + 1))]

/-- The number a stored record takes: none of an overflow, nor, without a ring, of any but the first trap of a hold (R184, R528). -/
def State.recordNumber (s : State) (p : Nat) (first : Bool) : Nat :=
  let q := s.part p
  if (q.page.excBase = 0 ∧ first = false) ∨
      (q.page.excBase ≠ 0 ∧ 2 ^ q.excLog2 < q.excCount - s.rdN (q.page.excBase + 8) 8 + (if first then 1 else 2)) then 0
  else q.excCount + 1

/-- The completion of descriptor `r` with status `st` has taken effect: it is done and its entry is held back, or its entry
stands at its completion ring. -/
def State.Settled (t : State) (r : DRef) (st : Nat) : Prop :=
  (∃ d, t.desc r = some d ∧ d.phase = .done ∧ d.status = some st) ∨
  (∃ e, e ∈ ((t.part r.part).comRing ((t.part r.part).subRing r.ring).cq).waiting ∧ e.ring = r.ring ∧ e.num = r.num ∧ e.status = st)

/-- The commands that carry out a running slice on clusters: the descriptor, what its reads find, its opcode, what else selects the
row (FUNC of POOL, MODE of PAGE_RELEASE), and the meaning of the slice's units. -/
def sliceRun : Instr → Option (DRef × List Found × Nat × (Desc → Bool) × (State → Desc → Slice → DRef → State))
  | .copy r => some (r, [], 0x0002, fun _ => true, runCopy)
  | .accSave r => some (r, [], 0x0004, fun _ => true, runAccSave)
  | .accRestore r => some (r, [], 0x0005, fun _ => true, runAccRestore)
  | .matmul r => some (r, [], 0x0100, fun _ => true, runMatmul)
  | .convFwd r => some (r, [], 0x0110, fun _ => true, runConv)
  | .convDgrad r => some (r, [], 0x0111, fun _ => true, runConv)
  | .convWgrad r => some (r, [], 0x0112, fun _ => true, runConv)
  | .poolMax r => some (r, [], 0x0118, fun d => fld (d.w32 0x50) 2 0 == 0, runPool)
  | .poolAvgIncl r => some (r, [], 0x0118, fun d => fld (d.w32 0x50) 2 0 == 1, runPool)
  | .poolAvgExcl r => some (r, [], 0x0118, fun d => fld (d.w32 0x50) 2 0 == 2, runPool)
  | .poolMaxBwd r => some (r, [], 0x0118, fun d => fld (d.w32 0x50) 2 0 == 3, runPool)
  | .poolAvgInclBwd r => some (r, [], 0x0118, fun d => fld (d.w32 0x50) 2 0 == 4, runPool)
  | .poolAvgExclBwd r => some (r, [], 0x0118, fun d => fld (d.w32 0x50) 2 0 == 5, runPool)
  | .boxDecode r => some (r, [], 0x0119, fun _ => true, runBox)
  | .overlapSuppress r => some (r, [], 0x011A, fun _ => true, runSup)
  | .vec r => some (r, [], 0x0200, fun _ => true, runVec)
  | .xc16Encode r => some (r, [], 0x0201, fun _ => true, runXc16Encode)
  | .xc16Decode r => some (r, [], 0x0202, fun _ => true, runXc16Decode)
  | .attnScore r => some (r, [], 0x0300, fun _ => true, fun s d sl r => runAttn s d sl r 0 128 Run.scoreUnit)
  | .attnNorm r => some (r, [], 0x0301, fun _ => true, fun s d sl r => runAttn s d sl r 1 4 Run.normUnit)
  | .attnPv r => some (r, [], 0x0302, fun _ => true, fun s d sl r => runAttn s d sl r 0 128 Run.pvUnit)
  | .attnBwd r => some (r, [], 0x0303, fun _ => true, fun s d sl r => runAttn s d sl r 1 4 Run.bwdUnit)
  | .decodeStep r => some (r, [], 0x0310, fun _ => true, runDecode)
  | .seqResume r => some (r, [], 0x0311, fun _ => true, runResume)
  | .give x => some (x.ref, x.found, 0x0312, fun d => d.relMode == 0, runRelease)
  | .truncate x => some (x.ref, x.found, 0x0312, fun d => d.relMode == 1, runRelease)
  | .free x => some (x.ref, x.found, 0x0312, fun d => d.relMode == 2, runRelease)
  | _ => none

/-- The state with runs of bytes stored in order. -/
def State.stores (s : State) (l : List (Nat × List Byte)) : State := foldS (fun t e => t.wrRaw e.1 e.2) s l

/-- Descriptor `r` has a slice of one unit, `u`, not yet carried out, in a partition with no exception ring and no registered buffer,
so that nothing but the unit writes memory. -/
def State.OneUnit (s : State) (r : DRef) (d : Desc) (u : Nat) : Prop :=
  s.desc r = some d ∧ s.halted = false ∧ (∃ sl, d.slice = some sl ∧ sl.ran = false ∧ sl.first = u ∧ sl.count = 1) ∧
  (s.part r.part).page.excBase = 0 ∧ (s.part r.part).bufs = []

/-- A finished element of a matrix operation: one RNE rounding to FP32 or BF16 (R97). -/
def TensorDesc.putMat (o : TensorDesc) (i : Nat) (x : Fp) : Nat × List Byte :=
  (o.elemAddr i, if o.format = fBF16 then leBytes 2 (encBf none x) else leBytes 4 (enc32 x))

/-- A finished element of a vector operation in an FP32 or BF16 tensor: RNE, or SR by the element's draw (R61, R63, R66). -/
def TensorDesc.putVec (o : TensorDesc) (d : Desc) (i w : Nat) : Nat × List Byte :=
  (o.elemAddr i,
   if o.format = fBF16 then leBytes 2 (encBf (if o.rmode then some (drawU (drawKey d.seed d.step o.id) i) else none) (of32 w))
   else leBytes 4 (enc32 (of32 w)))

/-- The positions of tile `t` of a dimension of size `n` (R96). -/
def tileSide (n t : Nat) : List Nat := (List.range 32).filterMap fun i => if 32 * t + i < n then some (32 * t + i) else none

/-- The operands, tile and batch item of unit `u` of a MATMUL (R166, R167). -/
structure MatUnit where
  a : TensorDesc
  b : TensorDesc
  o : Option TensorDesc
  tile : Nat
  part : Nat
  b2 : Nat
  b3 : Nat

def Desc.matUnitOf (d : Desc) (a b : TensorDesc) (u : Nat) : MatUnit :=
  let parts := 2 ^ fld (d.w32 0x50) 11 9
  let o := d.td (d.w32 0x4C)
  let n2 := match o with | some o => max 1 (o.sz 2) | none => 1
  let item := u / parts / d.matTiles
  ⟨a, b, o, u / parts % d.matTiles, u % parts, item % n2, item / n2⟩

/-- The outputs (row, column) of the unit's tile. -/
def Desc.matCells (d : Desc) (m : MatUnit) : List (Nat × Nat) :=
  let tn := ceilDiv d.matShape.2.1 32
  (tileSide d.matShape.1 (m.tile / tn)).flatMap fun x => (tileSide d.matShape.2.1 (m.tile % tn)).map fun y => (x, y)

/-- The accumulator an output begins with: C, what its slot keeps, or zero (R97, R98). -/
def Desc.matStart (d : Desc) (s : State) (m : MatUnit) (c : Nat × Nat) : Fp :=
  let init := fld (d.w32 0x50) 6 5
  if init = 1 then match d.td (d.w32 0x48) with
    | some t => (t.val s (t.matIndex 0 c.2 c.1 m.b2 m.b3)).1
    | none => .zero
  else if init = 2 then
    of48 ((s.accTile (d.tileHome m.tile).1 (d.tileHome m.tile).2 (fld (d.w32 0x50) 4 0)).getD (c.1 % 32 * 32 + c.2 % 32) 0)
  else .zero

/-- The lines of A and of B that an output reduces. -/
def Desc.matLines (d : Desc) (s : State) (m : MatUnit) (c : Nat × Nat) : List MGroup × List MGroup :=
  (m.a.matLine s (fld (d.w32 0x50) 12 12) c.1 m.b2 m.b3, m.b.matLine s (fld (d.w32 0x50) 13 13) c.2 m.b2 m.b3)

/-- The reduction of an output: the parts in order and their tree (R104, R105). -/
def Desc.matValue (d : Desc) (s : State) (m : MatUnit) (c : Nat × Nat) : Acc :=
  reduceAll (outerFactor m.a m.b) (d.matStart s m c) (d.matLines s m c).1 (d.matLines s m c).2 (fld (d.w32 0x50) 11 9)

/-- The NaN, if any, that the unit's own part of an output's reduction makes. -/
def Desc.matMade (d : Desc) (s : State) (m : MatUnit) (c : Nat × Nat) : Option Nat :=
  (reducePart (outerFactor m.a m.b) (d.matStart s m c) (d.matLines s m c).1 (d.matLines s m c).2
    (2 ^ fld (d.w32 0x50) 11 9) m.part).2

/-- What one unit of MATMUL does: nothing is stored before a tile's last part, which stores every output of the tile and keeps the tile
where the descriptor keeps it; residency records wait for the completion; a NaN raises the seed trap (R78 to R81). -/
def Desc.MatmulGives (d : Desc) (s t : State) (r : DRef) (u : Nat) : Prop :=
  ∀ a b, d.td (d.w32 0x40) = some a → d.td (d.w32 0x44) = some b →
    let m := d.matUnitOf a b u
    let last := m.part + 1 = 2 ^ fld (d.w32 0x50) 11 9
    let out := match m.o with
      | some o => (d.matCells m).map fun c => o.putMat (o.index [c.2, c.1, m.b2, m.b3]) (d.matValue s m c).1
      | none => []
    t.res = s.res ∧ (last → t.mem = (s.stores out).mem) ∧ (¬ last → t.mem = s.mem ∧ t.acc = s.acc) ∧
    (last → d.keeps = false → t.acc = s.acc) ∧
    (last → d.keeps = true → ∀ c, c ∈ d.matCells m →
      (t.accTile (d.tileHome m.tile).1 (d.tileHome m.tile).2 (fld (d.w32 0x50) 4 0)).getD (c.1 % 32 * 32 + c.2 % 32) 0 =
        enc48 (d.matValue s m c).1) ∧
    ((∃ c, c ∈ d.matCells m ∧ (d.matMade s m c).isSome = true) → (s.part r.part).mirror.hold = false →
      d.status ≠ some stNanTrap →
      let q := t.part r.part
      q.mirror.hold = true ∧ q.mirror.trapSeq = (s.part r.part).excCount + 1 ∧ q.excCount = (s.part r.part).excCount + 1 ∧
        q.lent = [] ∧ (∃ d', t.desc r = some d' ∧ d'.status.isSome = true) ∧
        ∃ x : NanAt, q.mirror.trapRecord = seedTrapBytes true d.tag s.tickNo r.ring d.opcode x.cluster x.engine x.evt)

/-- What one unit of a convolution stores (R332 to R338): on the direct path, with a tile's last part, every output's chain of
reductions; on the frequency path every output whose place lies in the tile. -/
def Desc.ConvGives (d : Desc) (s t : State) (u : Nat) : Prop :=
  ∀ a b o, d.td (d.w32 0x40) = some a → d.td (d.w32 0x44) = some b → d.td (d.w32 0x4C) = some o →
    let c? := if fld (d.w32 0x50) 6 5 = 1 then d.td (d.w32 0x48) else none
    let pad := d.geo.padVal (Config.freeValue s.fresh)
    let ls := fld (d.w32 0x50) 9 7
    let direct (c : List Nat) : Fp := (chainAccs ((convSeqs d a b o c).map fun e =>
      let g := (groups32 e.2).map fun l => kGroups s a b pad l
      reduceAll (outerFactor a b) (if e.1 then (convInit s c? c).1 else .zero) (g.map (·.1)) (g.map (·.2)) ls)).1
    let fwd := d.opcode == 0x0110
    let q := d.geo
    let nx := max 1 (ceilDiv (freqPlane d o).1 (freqStep d).1)
    let ny := max 1 (ceilDiv (freqPlane d o).2 (freqStep d).2)
    let own (i st lo f k : Nat) : Bool := (if fwd then i * st else i + lo) / f == k
    let coords := (List.range (o.sz 1)).flatMap fun y => (List.range (o.sz 0)).flatMap fun x =>
      if own x q.sx (q.around q.pxl q.pxh).1 (freqStep d).1 (u % nx) && own y q.sy (q.around q.pyl q.pyh).1 (freqStep d).2 (u / nx % ny)
      then (List.range (o.sz 2)).map fun c => [x, y, c, u / (nx * ny)] else []
    let freq (c : List Nat) : List Byte :=
      let need := freqNeeds d a b o c
      let sums := (convSeqs d a b o c).map fun e => exactSum s a b pad e.2
      let exact := sums.foldl (fun x v => x.add v.1) (convInit s c? c).1
      let nch := if fwd then (convChan d a b o).cg else (convChan d a b o).og
      let bound := sums.foldl (fun x v => x.add (freqBound nch v.2)) Fp.zero
      let word := freqWord (o.format == fBF16) (freqPipe s d a b o pad (convInit s c? c).1 c).1 exact bound
      let finite := need.1.all (fun i => (a.val s i).1.isFin) && need.2.all fun i => (b.val s i).1.isFin
      if o.format = fBF16 then leBytes 2 (if finite then word else 0x7FC0) else leBytes 4 (if finite then word else nan32)
    t.acc = s.acc ∧ t.res = s.res ∧
    (bitOf (d.w32 0x50) 12 = false → t.mem = if u % 2 ^ ls + 1 = 2 ^ ls then
      (s.stores ((convTile d (convChan d a b o) o (u / 2 ^ ls)).map fun c => o.putMat (o.index c) (direct c))).mem else s.mem) ∧
    (bitOf (d.w32 0x50) 12 = true → t.mem = (s.stores (coords.map fun c => (o.elemAddr (o.index c), freq c))).mem)

/-- What a forward pooling stores for output `c` in state `s`: the winner and its place, or the average (R340). -/
def Desc.poolPut (d : Desc) (s : State) (t o : TensorDesc) (x? : Option TensorDesc) (pad : Nat) (c : List Nat) : List (Nat × List Byte) :=
  let win := poolUses d.poolFunc d.geo (t.sz 0) (t.sz 1) (c.getD 0 0) (c.getD 1 0)
  let vals := win.map fun e => match e with
    | some p => (t.loadF s (t.index [p.1, p.2, c.getD 2 0, c.getD 3 0])).1
    | none => pad
  if d.poolFunc = 0 then
    o.putVec d (o.index c) (poolWinner vals).1 :: match x?, win.getD (poolWinner vals).2 none with
      | some x, some p => [(x.elemAddr (o.index c), leBytes 4 (p.2 * t.sz 0 + p.1))]
      | _, _ => []
  else [o.putVec d (o.index c) (vvDiv (sumInOrder vals) (enc32 (Fp.ofNat win.length), false)).1]

/-- What a backward pooling stores for position `c` of dX in state `s`: the gradients of the windows that chose or hold it, in order
(R341). -/
def Desc.poolBackPut (d : Desc) (s : State) (t o : TensorDesc) (x? : Option TensorDesc) (c : List Nat) : List (Nat × List Byte) :=
  let (cx, cy) := (c.getD 0 0, c.getD 1 0)
  let outs := (List.range (t.sz 1)).flatMap fun y => (List.range (t.sz 0)).map fun x => (x, y)
  let dy (p : Nat × Nat) : Nat := t.index [p.1, p.2, c.getD 2 0, c.getD 3 0]
  let grads := outs.flatMap fun p =>
    if d.poolFunc = 3 then match x? with
      | some x => if toSigned 32 (x.raw s (dy p)) = ((cy * o.sz 0 + cx : Nat) : Int) then [(t.loadF s (dy p)).1] else []
      | none => []
    else
      let win := poolUses d.poolFunc d.geo (o.sz 0) (o.sz 1) p.1 p.2
      (win.filter fun e => e == some (cx, cy)).map fun _ => fpDiv fmt32 (of32 (t.loadF s (dy p)).1) (Fp.ofNat win.length)
  [o.putVec d (o.index c) (sumInOrder (0 :: grads)).1]

/-- The elements of one unit of POOL: up to 32 rows of a channel plane (R344). -/
def poolCells (o : TensorDesc) (u : Nat) : List (List Nat) :=
  let n := max 1 (ceilDiv (o.sz 1) 32)
  (List.range (min 32 (o.sz 1 - u % n * 32))).flatMap fun y => (List.range (o.sz 0)).map fun x =>
    [x, u % n * 32 + y, u / n % max 1 (o.sz 2), u / (n * max 1 (o.sz 2))]

/-- What one unit of POOL stores, element by element. A window of MAX without a position, whose result is free, is set aside. -/
def Desc.PoolGives (d : Desc) (s t : State) (u : Nat) : Prop :=
  ∀ g o, d.td (d.w32 0x40) = some g → d.td (d.w32 0x48) = some o → o.format = fFP32 ∨ o.format = fBF16 →
    (d.poolFunc = 0 → ∀ c, c ∈ poolCells o u → poolUses 0 d.geo (g.sz 0) (g.sz 1) (c.getD 0 0) (c.getD 1 0) ≠ []) →
    let x? := if d.w32 0x44 = noTensor then none else d.td (d.w32 0x44)
    let pad := enc32 (d.geo.padVal (Config.freeValue s.fresh))
    t.mem = (foldS (fun v c => v.stores (if d.poolFunc ≤ 2 then d.poolPut v g o x? pad c else d.poolBackPut v g o x? c)) s
      (poolCells o u)).mem

/-- What one unit of BOX_DECODE stores: up to 1,024 boxes, four coordinates each (R342). -/
def Desc.BoxGives (d : Desc) (s t : State) (u : Nat) : Prop :=
  ∀ a g o, d.td (d.w32 0x40) = some a → d.td (d.w32 0x44) = some g → d.td (d.w32 0x48) = some o →
    o.format = fFP32 ∨ o.format = fBF16 →
    let n := max 1 (ceilDiv (o.sz 1) 1024)
    let z := u / n
    let box (i : Nat) : List VVal := boxOf ((List.range 7).map fun k => d.w32 (0x50 + 4 * k))
      ((List.range 4).map fun c => (a.loadF s (a.index [c, i, if a.sz 2 = 1 then 0 else z, 0])).1)
      ((List.range 4).map fun c => (g.loadF s (g.index [c, i, z, 0])).1)
    t.mem = (s.stores ((List.range (min 1024 (o.sz 1 - u % n * 1024))).flatMap fun i =>
      (box (u % n * 1024 + i)).zipIdx.map fun e => o.putVec d (o.index [e.2, u % n * 1024 + i, z, 0]) e.1.1)).mem

/-- What one list of OVERLAP_SUPPRESS stores: the boxes kept in order of score, -1 beyond them, and their number (R343). -/
def Desc.SuppressGives (d : Desc) (s t : State) (z : Nat) : Prop :=
  ∀ b c k n, d.td (d.w32 0x40) = some b → d.td (d.w32 0x44) = some c → d.td (d.w32 0x48) = some k → d.td (d.w32 0x4C) = some n →
    let box (i : Nat) : List Nat := (List.range 4).map fun e => (b.loadF s (b.index [e, i, z, 0])).1
    let score (i : Nat) : Fp := (c.val s (c.index [i, z, 0, 0])).1
    let cand := (List.range (b.sz 1)).filter fun i => (of32 (d.w32 0x54)).le (score i) && (box i).all fun w => (of32 w).isFin
    let sorted := foldS (fun l x => insertScore x l) ([] : List (Nat × Fp)) (cand.map fun i => (i, score i))
    let kept := keepBoxes (of32 (d.w32 0x50)) (d.w32 0x58) box (sorted.map fun x => x.1) []
    t.mem = (s.stores ((List.range (d.w32 0x58)).map (fun i => (k.elemAddr (k.index [i, z, 0, 0]), leBytes 4 (kept.getD i 0xFFFFFFFF))) ++
      [(n.elemAddr (n.index [0, z, 0, 0]), leBytes 4 kept.length)])).mem

/-- The elements of one dot-product unit with its last part: output and word (R104, R105). -/
def Desc.rowsCols (rows cols : List Nat) : List (Nat × Nat) := rows.flatMap fun i => cols.map fun k => (i, k)

/-- What one unit of ATTN_SCORE stores: with unit 0 POS; with the last part of a live tile its scores (R353, R354). -/
def Desc.ScoreGives (d : Desc) (s t : State) (u : Nat) : Prop :=
  let q := d.attnPar
  let n := 2 ^ q.split
  let pos := match d.attnTd 3 with
    | some o => if u = 0 then (List.range q.qn).map fun i => (o.elemAddr i, leBytes 4 (ofSigned 32 (posAt d.marks (q.qBase + i)))) else []
    | none => []
  (d.attnTd 2 = none → t.mem = (s.stores pos).mem) ∧
  ∀ a b o, d.attnTd 0 = some a → d.attnTd 1 = some b → d.attnTd 2 = some o →
    let live := d.liveTiles
    let h := u / n / max 1 live.length
    let tile := live.getD (u / n % max 1 live.length) (0, 0)
    let value (c : Nat × Nat) : Fp := (dotAll (outerFactor a b) q.split (dotGroups s a b (fun e => a.index [e, c.1, h, 0])
      (fun e => b.index [e, c.2, keyHead h (b.sz 2) (a.sz 2), 0]) (a.sz 0))).1
    t.mem = if live = [] ∨ o.sz 2 ≤ h ∨ u % n + 1 < n then (s.stores pos).mem
      else (s.stores (pos ++ (Desc.rowsCols (tileRange tile.1 q.qn) (tileRange tile.2 q.kn)).map fun c =>
        (o.elemAddr (o.index [c.2, c.1, h, 0]), leBytes 2 (scoreWord q.scale (value c))))).mem

/-- What ATTN_NORM stores for one row in state `s`: weights at the allowed keys, zeros elsewhere, the row's maximum and sum (R355,
R356). -/
def Desc.normPut (d : Desc) (s : State) (g st : TensorDesc) (h i : Nat) : State :=
  let idx (k : Nat) : Nat := g.index [k, i, h, 0]
  let zero (k : Nat) : Nat × List Byte := (g.elemAddr (idx k), leBytes 2 0)
  let stat (m l : Nat) : List (Nat × List Byte) :=
    [(st.elemAddr (st.index [0, i, h, 0]), leBytes 4 m), (st.elemAddr (st.index [1, i, h, 0]), leBytes 4 l)]
  let tiles := (d.rowTiles (i / 32)).1
  let live := tiles.flatMap id
  let v := s.stores ((d.rowTiles (i / 32)).2.map zero)
  if (live.filter fun k => d.allowed i k) = [] then v.stores (live.map zero ++ stat (neg32 + inf32) 0)
  else
    let row := softRow (fun k => if d.allowed i k then some (enc32 (g.val v (idx k)).1) else none) tiles
    let inv := fpDiv fmt32 (.fin false 1 0) (of32 row.2.2.1)
    v.stores ((live.map fun k => match tlook row.2.1 k with
      | some e => g.putVec d (idx k) (probOf e.1 inv).1
      | none => zero k) ++ stat row.1 row.2.2.1)

/-- The rows of a query block (R374). -/
def Desc.blockRows (d : Desc) (u : Nat) : List Nat :=
  let n := max 1 (ceilDiv d.attnPar.qn 128)
  (List.range (min 128 (d.attnPar.qn - 128 * (u % n)))).map (128 * (u % n) + ·)

/-- What one unit of ATTN_NORM stores: its query block's rows. -/
def Desc.NormGives (d : Desc) (s t : State) (u : Nat) : Prop :=
  ∀ g st, d.attnTd 2 = some g → d.attnTd 4 = some st → g.format = fBF16 →
    t.mem = (foldS (fun v i => d.normPut v g st (u / max 1 (ceilDiv d.attnPar.qn 128)) i) s (d.blockRows u)).mem

/-- What one unit of ATTN_PV stores: with unit 0 the rows without a live tile, +0; with the last part of a live output tile its
values (R357). -/
def Desc.PvGives (d : Desc) (s t : State) (u : Nat) : Prop :=
  ∀ g v o, d.attnTd 2 = some g → d.attnTd 5 = some v → d.attnTd 6 = some o →
    let q := d.attnPar
    let n := 2 ^ q.split
    let dead := ((List.range (ceilDiv q.qn 32)).filter fun a => !d.liveRows.contains a).flatMap fun a => tileRange a q.qn
    let zeros := if u = 0 then (List.range (o.sz 2)).flatMap fun h => dead.flatMap fun i =>
      (List.range (o.sz 0)).map fun e => o.putMat (o.index [e, i, h, 0]) .zero else []
    let nd := max 1 (ceilDiv (o.sz 0) 32)
    let nq := max 1 d.liveRows.length
    let tq := d.liveRows.getD (u / n / nd % nq) 0
    let h := u / n / (nd * nq)
    let value (c : Nat × Nat) : Fp := (dotAll (.fin false 1 0) q.split ((d.rowTiles tq).1.map fun l =>
      (g.group s (l.map fun k => g.index [k, c.1, h, 0]),
       v.group s (l.map fun k => v.index [c.2, k, keyHead h (v.sz 2) (g.sz 2), 0])))).1
    t.mem = if d.liveRows = [] ∨ u % n + 1 < n then (s.stores zeros).mem
      else (s.stores (zeros ++ (Desc.rowsCols (tileRange tq q.qn) (tileRange (u / n % nd) (o.sz 0))).map fun c =>
        o.putMat (o.index [c.2, c.1, h, 0]) (value c))).mem

/-- What ATTN_BWD stores for one row in state `s`: dS of each allowed key and, where P is recomputed, P; zeros elsewhere (R358). -/
def Desc.bwdPut (d : Desc) (s : State) (st v o dO ds : TensorDesc) (h i : Nat) : State :=
  let q := d.attnPar
  let also (k : Nat) (f : TensorDesc → Nat → Nat × List Byte) : List (Nat × List Byte) := match d.attnTd 2 with
    | some p => if q.recompute then [f p (p.index [k, i, h, 0])] else []
    | none => []
  let zero (t : TensorDesc) (j : Nat) : Nat × List Byte := (t.elemAddr j, leBytes 2 0)
  let live := (d.rowTiles (i / 32)).1.flatMap id
  let keys := live.filter fun k => d.allowed i k
  let off := (d.rowTiles (i / 32)).2 ++ live.filter fun k => !d.allowed i k
  let p (k : Nat) : VVal := (s.bwdProb d st (o.sz 0) h i k).1
  let dp (k : Nat) : Fp := (dotAll (.fin false 1 0) q.split ((groups32 (List.range (o.sz 0))).map fun l =>
    (dO.group s (l.map fun e => dO.index [e, i, h, 0]), v.group s (l.map fun e => v.index [e, k, keyHead h (v.sz 2) (o.sz 2), 0])))).1
  let dS (k : Nat) : VVal := vvMul (q.scale, false) (vvMul (p k) (vvSub (enc32 (dp k), false) (rowD s dO o h i)))
  s.stores ((off.flatMap fun k => zero ds (ds.index [k, i, h, 0]) :: also k zero) ++
    keys.flatMap fun k => ds.putVec d (ds.index [k, i, h, 0]) (dS k).1 :: also k fun t j => t.putVec d j (p k).1)

/-- What one unit of ATTN_BWD stores: its query block's rows. -/
def Desc.BwdGives (d : Desc) (s t : State) (u : Nat) : Prop :=
  ∀ st v o dO ds, d.attnTd 4 = some st → d.attnTd 5 = some v → d.attnTd 6 = some o → d.attnTd 7 = some dO → d.attnTd 8 = some ds →
    ds.format = fBF16 → (∀ p, d.attnTd 2 = some p → p.format = fBF16) →
    t.mem = (foldS (fun w i => d.bwdPut w st v o dO ds (u / max 1 (ceilDiv d.attnPar.qn 128)) i) s (d.blockRows u)).mem

/-- The new row of keys or values of key head `g`, quantised into its slot (R366). -/
def Desc.rowPut (d : Desc) (s : State) (c : SeqCtx) (k : TensorDesc) (b g page slot : Nat) (v : Bool) : List (Nat × List Byte) :=
  let key := drawKey d.seed d.step ((c.tid + 2 * (d.decLayer * c.hk + g) + (if v then 1 else 0)) % 2 ^ 32)
  (List.range c.dh32).flatMap fun j =>
    let es := (List.range 32).map (32 * j + ·)
    let x := quantBlock c.blk (.fin false 1 0) none (es.map fun e => (k.val s (k.index [e, b, g, 0])).1)
      (if c.sr then some (es.map fun e => drawU key (c.length * c.dh + e)) else none)
    [(c.slotCodes page v slot + j * c.blk.bytes, packCodes c.blk.bits x.codes), (c.slotScales page v slot + j, leBytes 1 x.e)]

/-- What query head `h` attending positions 0 to n - 1 of key head `g` stores: its row of OUT (R366). -/
def Desc.attendPut (d : Desc) (s : State) (pt : Part) (c : SeqCtx) (q o : TensorDesc) (b g n h : Nat) : List (Nat × List Byte) :=
  let qv := (List.range c.dh).map fun e => (q.val s (q.index [e, b, h, 0])).1
  let place (k : Nat) : Nat × Nat := s.posPage pt c d.decLayer g k
  let sc := (List.range n).map fun k => (c.score s (place k).1 (place k).2 qv d.decScale).1
  let row := softRow (fun k => sc[k]?) (Sys2Proof.Machine.pieces 32 (ceilDiv n 32) (List.range n))
  let inv := fpDiv fmt32 (.fin false 1 0) (of32 row.2.2.1)
  (List.range c.dh).map fun e =>
    o.putMat (o.index [e, b, h, 0]) ((row.2.1.foldl (fun (x : Acc) w =>
      x.addProduct (ofBf (encBf none (of32 (probOf w.2.1 inv).1)), false) (c.value s (place w.1).1 (place w.1).2 e)) ((.zero, none) : Acc)).1)

/-- What one unit of DECODE_STEP does for the sequence whose turn it is: where its context agrees, its pages are there and nothing it
reads is poisoned, key head `g` appends its row and its query heads attend; with the last head the status byte is 0x00, and the
length grows with the last layer of an append (R366, R367). -/
def Desc.DecodeGives (d : Desc) (s t : State) (r : DRef) : Prop :=
  ∀ seq v q o k w, d.seqStat.find? (fun e => seqActive e.2) = some (seq, v) → d.seqState seq = v →
    d.td (d.w32 0x40) = some q → d.td (d.w32 0x4C) = some o →
    (d.decAppend = true → d.td (d.w32 0x44) = some k ∧ d.td (d.w32 0x48) = some w) →
    let pt := s.part r.part
    let c := s.seqCtx pt seq
    let g := c.hk - v % 512
    let b := d.seqIndex seq
    let n := c.length + (if d.decAppend then 1 else 0)
    pt.seqWaits = [] → s.poisonCells (s.ctxCells pt seq) = none → s.poisonCells (c.stepTable d.decLayer n) = none →
    s.pagesOk pt c d.decLayer n = true → (∀ x, x < c.hk → s.poisonCells (s.seqCells pt c d.decLayer x n) = none) →
    c.preempted = false → (pt.swaps.all fun x => x.seq != seq) = true → v % 512 ≤ c.hk → c.valid = true →
    (c.hk = v % 512 → d.seqAgrees c (v % 512) (q.sz 0) = true ∧ q.sz 2 % c.hk = 0) →
    (d.decAppend = true → k.sz 2 = c.hk ∧ c.length ≠ c.capacity ∧ s.needEntries c d.decLayer (c.length / c.tpp) = []) →
    let place := s.posPage pt c d.decLayer g c.length
    let s1 := if d.decAppend then s.stores (d.rowPut s c k b g place.1 place.2 false) else s
    let s2 := if d.decAppend then s1.stores (d.rowPut s1 c w b g place.1 place.2 true) else s
    let s3 := foldS (fun x h => x.stores (d.attendPut x pt c q o b g n h)) s2
      ((List.range (q.sz 2)).filter fun h => keyHead h c.hk (q.sz 2) == g)
    let ends := (d.addr 0x58 + b, leBytes 1 0) ::
      if d.decAppend && d.decLayer + 1 == c.layers then [(pt.seqAddr seq + 8, leBytes 4 (c.length + 1))] else []
    t.mem = (if g + 1 < c.hk then s3 else s3.stores ends).mem ∧
    ∃ d', t.desc r = some d' ∧ d'.seqState seq = (if g + 1 < c.hk then v - 1 else 0)

/-- The pool after page `n` is given: the word at the end of its ring, then its count of pages given (R363). -/
def State.gave (s : State) (pt : Part) (n : Nat) : State :=
  s.stores [(s.poolEntry pt (s.poolGiven pt), leBytes 4 n), (pt.page.culletBase + 4, leBytes 4 ((s.poolGiven pt + 1) % 2 ^ 32))]

/-- What a SEQ_RESUME of one unit does, where its token is the context's, the pool has the pages and nothing it reads is poisoned: pages
are taken in page-table order, each reads its 64 KiB back, PREEMPTED and RESUME_TOKEN clear (R373). -/
def Desc.ResumeGives (d : Desc) (s t : State) (r : DRef) : Prop :=
  let pt := s.part r.part
  let c := s.seqCtx pt d.resSeq
  let entries := pt.imageEntries d.resSeq c
  d.units ≤ 1 → entries.length ≤ 64 → s.tokenOk pt d = true → entries.length ≤ s.poolFor pt 0 →
  s.poisonCells (s.resCells pt d true entries.length) = none →
  (∀ e, e ∈ entries.zipIdx → s.swapBad pt c (4096 + 65536 * e.2) 65536 = none) →
  let s1 := foldS (fun (v : State) e =>
    v.stores [(pt.page.culletBase, leBytes 4 ((v.poolTaken pt + 1) % 2 ^ 32)),
      (c.entryAddr e, leBytes 4 (v.rdN (v.poolEntry pt (v.poolTaken pt)) 4 % 2 ^ 24 + 2 ^ 31))]) s entries
  let s2 := foldS (fun (v : State) (e : Nat × Nat) =>
    v.stores [(v.pageOf pt c e.1, v.swapRd pt c (4096 + 65536 * e.2) 65536)]) s1 entries.zipIdx
  t.mem = (s2.stores [(pt.seqAddr d.resSeq, leBytes 4 (clearBit (s2.rdN (pt.seqAddr d.resSeq) 4) 1)),
    (pt.seqAddr d.resSeq + 0x30, leBytes 8 0)]).mem ∧
  tlook (t.part r.part).swapped d.resSeq = none

/-- What one unit of PAGE_RELEASE does, where nothing it reads is poisoned and no sequence waits: GIVE gives its listed pages; TRUNCATE
and FREE give the pages of entries and clear them, and with the last unit set the length or clear VALID (R364). -/
def Desc.ReleaseGives (d : Desc) (s t : State) (r : DRef) (u : Nat) : Prop :=
  let pt := s.part r.part
  let c := s.seqCtx pt d.relSeq
  let pages := sliceList d.relPages (1024 * u) 1024
  let entries := (s.relEntries d c).take 64
  let n := if d.relMode = 0 then pages.length else entries.length
  pt.seqWaits = [] → s.poisonCells (s.relCells pt d ++ s.poolCells pt (s.poolGiven pt) n) = none →
  let s1 := foldS (fun (v : State) e => (v.gave pt (v.pageNo c e)).stores [(c.entryAddr e, leBytes 4 0)]) s entries
  (d.relMode = 0 → t.mem = (foldS (fun (v : State) p => v.gave pt p) s pages).mem) ∧
  (d.relMode ≠ 0 → u + 1 < d.units → t.mem = s1.mem) ∧
  (d.relMode = 1 → d.units ≤ u + 1 → t.mem = (s1.stores [(pt.seqAddr d.relSeq + 8, leBytes 4 (fld (d.w32 0x44) 20 0))]).mem) ∧
  (d.relMode = 2 → d.units ≤ u + 1 →
    t.mem = (s1.stores [(pt.seqAddr d.relSeq, leBytes 4 (clearBit (s1.rdN (pt.seqAddr d.relSeq) 4) 0))]).mem)

/-- What unit `u` of descriptor `r` does, by its opcode. COPY, the accumulator saves, VEC and XC16 have statements of their own. -/
def Desc.UnitGives (d : Desc) (s t : State) (r : DRef) (u : Nat) : Prop :=
  (d.opcode = 0x0100 → d.MatmulGives s t r u) ∧
  (d.opcode = 0x0110 ∨ d.opcode = 0x0111 ∨ d.opcode = 0x0112 → d.ConvGives s t u) ∧
  (d.opcode = 0x0118 → d.PoolGives s t u) ∧ (d.opcode = 0x0119 → d.BoxGives s t u) ∧
  (d.opcode = 0x011A → d.SuppressGives s t u) ∧ (d.opcode = 0x0300 → d.ScoreGives s t u) ∧
  (d.opcode = 0x0301 → d.NormGives s t u) ∧ (d.opcode = 0x0302 → d.PvGives s t u) ∧ (d.opcode = 0x0303 → d.BwdGives s t u) ∧
  (d.opcode = 0x0310 → d.DecodeGives s t r) ∧ (d.opcode = 0x0311 → u = 0 → d.ResumeGives s t r) ∧
  (d.opcode = 0x0312 → d.ReleaseGives s t r u)

/-! ## Tile engines -/

/-- Every tile register an engine lists has 1,024 words and every mask 32 rows. -/
def State.tilesWf (s : State) : Prop :=
  ∀ e, e ∈ s.vec → (∀ r, r ∈ e.2.regs → r.2.length = 1024) ∧ (∀ k, k ∈ e.2.masks → k.2.length = 32)

/-- The element of register `r` at a row and column of a view, as an engine holds it. -/
def VecEngine.at'' (e : VecEngine) (typ r row col : Nat) : Nat :=
  (splitView typ ((tlook e.regs r).getD (List.replicate 1024 0))).getD (row * viewCols typ + col) 0

/-- The element of register `r` at a row and column of a view, before an instruction. -/
def VCtx.at' (x : VCtx) (typ r row col : Nat) : Nat := (x.elems typ r).getD (row * viewCols typ + col) 0

/-- Mask `k` marks the column of a view used as half `h` in a row; past position 63 only K7 marks. -/
def VCtx.marked (x : VCtx) (k typ h row col : Nat) : Bool :=
  let p := if isWide typ then 32 * h + col else col
  if p < 64 then bitOf ((x.mask k).getD row 0) p else k == 7

/-- An element in the width of its view. -/
def inView (typ v : Nat) : Nat := if isWide typ then v else v % 2 ^ viewBits typ

/-- An instruction that writes register `d` in a view and half, where mask `k` marks, with the elements `val` gives, and
changes no other register and no mask of its engine. -/
def TileWrites (c : Instr) (p : VecAt) (op : Nat) (i : VInst) (h : VInst → Nat) (val : VCtx → Nat → Nat → Nat) : Prop :=
  ∀ (s : State) (d : Desc) (x : VCtx), s.tilesWf → s.vecCtx p = some (d, x) → d.vecAccepts op i = true →
    Does c s fun t =>
      let e := t.vecEngine p
      e.at' = some (p.ref, p.group) ∧ e.masks = x.masks ∧ (∀ r, r ≠ i.d → tlook e.regs r = tlook x.regs r) ∧
      (∀ row col, row < 32 → col < viewCols i.typ →
        e.at'' i.typ i.d row col =
          if x.marked i.k i.typ (h i) row col then inView i.typ (val x row col) else x.at' i.typ i.d row col) ∧
      (∀ q : VecAt, q.cluster * 4 + q.engine ≠ p.cluster * 4 + p.engine → t.vecEngine q = s.vecEngine q)

/-- The sum, product and the like of two operands: exact and rounded once in a floating view, wrapped in an integer view. -/
def tileTwo (i : VInst) (f : Fp → Fp → Fp) (g : Int → Int → Int) (x : VCtx) (row col : Nat) : Nat :=
  let a := x.at' i.typ i.a row col
  let b := x.at' i.typ i.b row col
  if isFloatView i.typ then (f (viewVal i.typ a) (viewVal i.typ b)).enc (viewFmt i.typ) none
  else ofSigned (viewBits i.typ) (g (toSigned (viewBits i.typ) a) (toSigned (viewBits i.typ) b))

/-- A function of one FP32 operand. -/
def tileOne (i : VInst) (f : Fp → Nat) (x : VCtx) (row col : Nat) : Nat := f (viewVal i.typ (x.at' i.typ i.a row col))

/-- The arithmetic rows: place, opcode, fields and the result at a row and column. -/
def tileArith : Instr → Option (VecAt × Nat × VInst × (VCtx → Nat → Nat → Nat))
  | .vecAdd p i => some (p, 0x10, i, tileTwo i Fp.add (· + ·))
  | .vecSub p i => some (p, 0x11, i, tileTwo i Fp.sub (· - ·))
  | .vecMul p i => some (p, 0x12, i, tileTwo i Fp.mul (· * ·))
  | .vecFma p i => some (p, 0x13, i, fun x row col =>
      ((viewVal i.typ (x.at' i.typ i.a row col)).fma (viewVal i.typ (x.at' i.typ i.b row col))
        (viewVal i.typ (x.at' i.typ i.c row col))).enc (viewFmt i.typ) none)
  | .vecMax p i => some (p, 0x14, i, tileTwo i Fp.max max)
  | .vecMin p i => some (p, 0x15, i, tileTwo i Fp.min min)
  | .vecAbs p i => some (p, 0x16, i, fun x row col =>
      if isFloatView i.typ then (viewVal i.typ (x.at' i.typ i.a row col)).abs.enc (viewFmt i.typ) none
      else ofSigned (viewBits i.typ) (toSigned (viewBits i.typ) (x.at' i.typ i.a row col)).natAbs)
  | .vecNeg p i => some (p, 0x17, i, fun x row col =>
      if isFloatView i.typ then (viewVal i.typ (x.at' i.typ i.a row col)).neg.enc (viewFmt i.typ) none
      else ofSigned (viewBits i.typ) (-toSigned (viewBits i.typ) (x.at' i.typ i.a row col)))
  | .vecDiv p i => some (p, 0x18, i, fun x row col =>
      fpDiv fmt32 (viewVal i.typ (x.at' i.typ i.a row col)) (viewVal i.typ (x.at' i.typ i.b row col)))
  | .vecSqrt p i => some (p, 0x19, i, tileOne i (fpSqrt fmt32))
  | .vecRcp p i => some (p, 0x20, i, tileOne i (fpDiv fmt32 (.fin false 1 0)))
  | .vecRsqrt p i => some (p, 0x21, i, tileOne i (fpRsqrt fmt32))
  | .vecExp p i => some (p, 0x22, i, tileOne i Fun.exp.eval)
  | .vecExp2 p i => some (p, 0x23, i, tileOne i Fun.exp2.eval)
  | .vecLog p i => some (p, 0x24, i, tileOne i Fun.log.eval)
  | .vecLog2 p i => some (p, 0x25, i, tileOne i Fun.log2.eval)
  | .vecSin p i => some (p, 0x26, i, tileOne i Fun.sin.eval)
  | .vecCos p i => some (p, 0x27, i, tileOne i Fun.cos.eval)
  | .vecTanh p i => some (p, 0x28, i, tileOne i Fun.tanh.eval)
  | .vecSigmoid p i => some (p, 0x29, i, tileOne i Fun.sigmoid.eval)
  | .vecErf p i => some (p, 0x2A, i, tileOne i Fun.erf.eval)
  | _ => none

/-- The rows that move and combine elements without rounding. -/
def tileMoves : Instr → Option (VecAt × Nat × VInst × (VCtx → Nat → Nat → Nat))
  | .vecMov p i => some (p, 0x08, i, fun x row col => x.at' i.typ i.a row col)
  | .vecConst p i => some (p, 0x09, i, fun _ _ _ => i.imm % 2 ^ viewBits i.typ)
  | .vecSel p i => some (p, 0x31, i, fun x row col =>
      if x.marked (fld i.fn 2 0) i.typ (halfOf i) row col then x.at' i.typ i.a row col else x.at' i.typ i.b row col)
  | .vecAnd p i => some (p, 0x38, i, fun x row col => x.at' i.typ i.a row col &&& x.at' i.typ i.b row col)
  | .vecOr p i => some (p, 0x39, i, fun x row col => x.at' i.typ i.a row col ||| x.at' i.typ i.b row col)
  | .vecXor p i => some (p, 0x3A, i, fun x row col => x.at' i.typ i.a row col ^^^ x.at' i.typ i.b row col)
  | .vecShl p i => some (p, 0x3B, i, fun x row col =>
      x.at' i.typ i.a row col * 2 ^ (fld i.fn 4 0 % viewBits i.typ) % 2 ^ viewBits i.typ)
  | .vecShr p i => some (p, 0x3C, i, fun x row col => x.at' i.typ i.a row col / 2 ^ (fld i.fn 4 0 % viewBits i.typ))
  | .vecSra p i => some (p, 0x3D, i, fun x row col =>
      ofSigned (viewBits i.typ) (toSigned (viewBits i.typ) (x.at' i.typ i.a row col) / (2 ^ (fld i.fn 4 0 % viewBits i.typ) : Nat)))
  | _ => none

/-- The rows that give a position another position's element: transpose, permute, rotate, broadcast. -/
def tilePicks : Instr → Option (VecAt × Nat × VInst × (VCtx → Nat → Nat → Nat))
  | .vecTrn p i => some (p, 0x50, i, fun x row col => (x.words i.a).getD (32 * col + row) 0)
  | .vecPerm p i => some (p, 0x51, i, fun x row col =>
      let v := (x.words i.b).getD (32 * row + col) 0 % 32
      (x.words i.a).getD (if i.md = 0 then 32 * row + v else 32 * v + col) 0)
  | .vecShuf p i => some (p, 0x52, i, fun x row col =>
      (x.words i.a).getD (if i.md = 0 then 32 * row + (col + fld i.fn 4 0) % 32 else 32 * ((row + fld i.fn 4 0) % 32) + col) 0)
  | .vecBcst p i => some (p, 0x54, i, fun x row col => (x.words i.a).getD (if i.md = 0 then 32 * row else col) 0)
  | _ => none

/-- The value of R147 over 32 lanes: at each stage d, lane j takes op of itself and lane j + d, for j a multiple of 2d. -/
def laneTree {α : Type} (op : α → α → α) (v : Nat → α) : α :=
  ([1, 2, 4, 8, 16].foldl (fun (w : Nat → α) dd => fun j => if j % (2 * dd) = 0 then op (w j) (w (j + dd)) else w j) v) 0

/-- Lane `n` of line `line` of register `a`: of a row for MOD 0, of a column for MOD 1; `ident` where K0 and K do not both
mark it. -/
def laneOf {α : Type} (i : VInst) (x : VCtx) (ident : α) (val : Nat → Nat → α) (line n : Nat) : α :=
  let row := if i.md = 0 then line else n
  let col := if i.md = 0 then n else line
  if x.marked 0 i.typ (halfOf i) row col && x.marked i.k i.typ (halfOf i) row col then
    val ((x.words i.a).getD (32 * row + col) 0) ((x.words i.b).getD (32 * row + col) 0) else ident

/-- A lane-end reduction: its value at column 0 (row 0 for MOD 1) of D, the rest of D as it was. -/
def tileReduce {α : Type} (i : VInst) (ident : α) (val : Nat → Nat → α) (op : α → α → α) (out : α → Nat) (x : VCtx)
    (row col : Nat) : Nat :=
  if i.md = 0 then (if col = 0 then out (laneTree op (laneOf i x ident val row)) else x.at' i.typ i.d row col)
  else if row = 0 then out (laneTree op (laneOf i x ident val col)) else x.at' i.typ i.d row col

/-- The lane-end reduction rows. -/
def tileReduces : Instr → Option (VecAt × Nat × VInst × (VCtx → Nat → Nat → Nat))
  | .vecRsum p i => some (p, 0x60, i,
      if i.typ = 0 then tileReduce i 0 (fun a _ => a) (fun a b => enc32 ((of32 a).add (of32 b))) id
      else tileReduce i 0 (fun a _ => a) (fun a b => (a + b) % 2 ^ 32) id)
  | .vecRmax p i => some (p, 0x61, i,
      if i.typ = 0 then tileReduce i (.inf true) (fun a _ => of32 a) Fp.max enc32
      else tileReduce i (-2147483648) (fun a _ => toSigned 32 a) max (ofSigned 32))
  | .vecRmin p i => some (p, 0x62, i,
      if i.typ = 0 then tileReduce i (.inf false) (fun a _ => of32 a) Fp.min enc32
      else tileReduce i 2147483647 (fun a _ => toSigned 32 a) min (ofSigned 32))
  | .vecRargmax p i => some (p, 0x63, i,
      tileReduce i (Fp.inf true, 0) (fun a b => (of32 a, b))
        (fun l r => if r.1.above l.1 || (l.1.isNaN && !r.1.isNaN) then r else l) (·.2))
  | _ => none

/-- The rows that load, convert, pack, number and draw: the half written, and the value at a row and column. -/
def tileForms : Instr → Option (VecAt × Nat × VInst × (VInst → Nat) × (VCtx → Nat → Nat → Nat))
  | .vecLd p i => some (p, 0x01, i, fun i => if isWide i.typ then fld i.fn 4 4 else 0, fun x row col =>
      let h := if isWide i.typ then fld i.fn 4 4 else 0
      match x.slot (fld i.fn 2 0) with
      | none => 0
      | some t =>
        if x.marked 0 i.typ h row col then
          (if i.typ = 0 then (t.loadF x.run.s (x.slotIndex t row (posOf i.typ h col))).1
           else t.raw x.run.s (x.slotIndex t row (posOf i.typ h col)))
        else 0)
  | .vecIota p i => some (p, 0x0A, i, fun i => fld i.fn 4 4, fun x row col =>
      let pos := 32 * fld i.fn 4 4 + col
      (if i.md = 0 then x.tw * x.tile + pos else if i.md = 1 then x.row0 + row else x.indexIn 0 row pos) % 2 ^ 32)
  | .vecCvt p i => some (p, 0x40, i,
      fun i => match cvtKind (fld i.fn 3 0) i.typ with | some 1 => 0 | some 2 => fld i.fn 4 4 | _ => fld i.fn 15 15,
      fun x row col =>
        let src := fld i.fn 3 0
        let n := fld i.fn 10 8
        let h := match cvtKind src i.typ with | some 1 => 0 | some 2 => fld i.fn 4 4 | _ => fld i.fn 15 15
        let w := match cvtKind src i.typ with
          | some 1 => if col < 32 then (x.words i.a).getD (32 * row + col) 0 else (x.words i.b).getD (32 * row + (col - 32)) 0
          | some 2 => x.at' src i.a row (32 * fld i.fn 4 4 + col)
          | _ => (x.words i.a).getD (32 * row + col) 0
        let key := drawKey x.run.seed x.run.step (match x.slot n with | some t => t.id | none => 0)
        cvtOne src i.typ (if i.md = 1 then some (drawU key (x.indexIn n row (posOf i.typ h col))) else none) w)
  | .vecPack p i => some (p, 0x48, i, fun _ => 0, fun x row col =>
      (x.words (i.a + col / 32)).getD (32 * row + col % 32) 0 % 2 ^ viewBits i.typ)
  | .vecRand p i => some (p, 0x70, i, halfOf, fun x row col =>
      let z := (draw (drawKey x.run.seed x.run.step i.imm) (x.indexIn 0 row (posOf i.typ (halfOf i) col))).toNat
      if x.marked 0 i.typ (halfOf i) row col then
        (if i.md = 0 then z / 2 ^ 32 else if i.md = 1 then z % 2 ^ 32 else enc32 (.fin false (z / 2 ^ 40) (-24)))
      else x.at' i.typ i.d row col)
  | _ => none

/-! ## Update engines -/

/-- The 512 words of V register `k` of an engine. -/
def UpdEngine.lanes (e : UpdEngine) (k : Nat) : List Nat := (tlook e.v k).getD (List.replicate 512 0)

/-- The one-, two- and three-operand update rows, their operand count, and the result of a lane. -/
def updLane : Instr → Option (UpdAt × UInst × Nat × (Nat → Nat → Nat → Nat))
  | .updMov p i => some (p, i, 1, fun a _ _ => a)
  | .updAdd p i => some (p, i, 2, fun a b _ => enc32 ((of32 a).add (of32 b)))
  | .updSub p i => some (p, i, 2, fun a b _ => enc32 ((of32 a).sub (of32 b)))
  | .updMul p i => some (p, i, 2, fun a b _ => enc32 ((of32 a).mul (of32 b)))
  | .updFma p i => some (p, i, 3, fun a b c => enc32 ((of32 a).fma (of32 b) (of32 c)))
  | .updDiv p i => some (p, i, 2, fun a b _ => fpDiv fmt32 (of32 a) (of32 b))
  | .updSqrt p i => some (p, i, 1, fun a _ _ => fpSqrt fmt32 (of32 a))
  | .updRsqrt p i => some (p, i, 1, fun a _ _ => fpRsqrt fmt32 (of32 a))
  | .updRcp p i => some (p, i, 1, fun a _ _ => fpDiv fmt32 (.fin false 1 0) (of32 a))
  | .updMax p i => some (p, i, 2, fun a b _ => enc32 ((of32 a).max (of32 b)))
  | .updMin p i => some (p, i, 2, fun a b _ => enc32 ((of32 a).min (of32 b)))
  | .updAbs p i => some (p, i, 1, fun a _ _ => enc32 (of32 a).abs)
  | .updNeg p i => some (p, i, 1, fun a _ _ => enc32 (of32 a).neg)
  | .updCmp p i => some (p, i, 2, fun a b _ => if cmpF i.md (of32 a) (of32 b) then 0x3F800000 else 0)
  | .updSel p i => some (p, i, 3, fun a b c => if (of32 c).eq Fp.zero then b else a)
  | .updExp2 p i => some (p, i, 1, fun a _ _ => Fun.exp2.eval (of32 a))
  | .updLog2 p i => some (p, i, 1, fun a _ _ => Fun.log2.eval (of32 a))
  | _ => none

/-! ## Bindings, collectives, media -/

/-- What quantising inputs into the block of element `i` stores (R67): codes, scale, outliers, sentry; zeros under a given scale code
0xFF. -/
def TensorDesc.putBlock (t : TensorDesc) (d : Desc) (s : State) (k : Blk) (i : Nat) (xs : List Fp) : List (Nat × List Byte) :=
  let idx := t.blockElems i
  let b := (t.blockOf i).1
  let given := if t.smode then some (t.scaleAt s b) else none
  let q := quantBlock k t.outerVal given xs (if t.rmode then some (idx.map fun j => drawU (drawKey d.seed d.step t.id) j) else none)
  let void := given == some 0xFF
  [(t.wd 0 + b * k.bytes, if void then List.replicate k.bytes 0 else packCodes k.bits q.codes)] ++
    (if void then [] else [(t.wd 1 + b, leBytes 1 q.e)]) ++
    (if k.outl then [(t.wd 2 + 4 * b, leBytes 4 (if void then 0 else q.outl))] else []) ++
    (if t.sentryEn then [(t.wd 3 + b, leBytes 1 (if void then 0 else q.clipped + 64 * q.outliers))] else [])

/-- The working copy of elements from `a` on of exact master values (R453). -/
def Binding.wcPut (b : Binding) (d : Desc) (s : State) (a : Nat) (ms : List Fp) : State :=
  match b.wc.blk with
  | some k => foldS (fun v e => v.stores (b.wc.putBlock d v k (a + 32 * e.2) e.1)) s
      (pieces 32 (ceilDiv ms.length 32) ms).zipIdx
  | none => s.stores (ms.zipIdx.map fun e => (b.wc.elemAddr (a + e.2),
      leBytes 2 (encBf (if b.wc.rmode then some (drawU (drawKey d.seed d.step b.wc.id) (a + e.2)) else none) e.1)))

/-- A state tensor's elements from `a` on of FP32 words, in AMAX mode where it is SB8 (R449, R453). -/
def TensorDesc.statePut (t : TensorDesc) (d : Desc) (s : State) (a : Nat) (ws : List Nat) : State :=
  match t.blk with
  | some k => foldS (fun v e => v.stores ({ t with smode := false }.putBlock d v k (a + 32 * e.2) (e.1.map of32))) s
      (pieces 32 (ceilDiv ws.length 32) ws).zipIdx
  | none => s.stores (ws.zipIdx.map fun e => (t.elemAddr (a + e.2), leBytes 4 (enc32 (of32 e.1))))

/-- One pass of update words `g` from element `a` on: the program of the binding over its lanes, then master, states, working copy
(R452, R453). -/
def Binding.passPut (b : Binding) (u : UpdRun) (d : Desc) (s : State) (a : Nat) (g : List Nat) : State :=
  let m := b.masterWords s a g.length
  let c0 : UCtx := { n := g.length, block := b.block, x := b.master.format == fFP32X, v := [], mh := m.1, mr := m.2, scal := u.scalars,
                     delta := u.deltas, sr := if b.masterSr then some (drawKey d.seed d.step b.master.id) else none,
                     base := a, nans := [] }
  let sts := b.states.zipIdx.map fun e => (2 + e.2, (List.range g.length).map fun j => enc32 (e.1.val s (a + j)).1)
  let c1 := foldS (fun (c : UCtx) (e : Nat × List Nat) => c.put e.1 e.2) c0 ([(0, g), (1, m.1)] ++ sts)
  let c := foldS (fun (c : UCtx) (e : Nat × UInst) => { updStep e.1 e.2 c with nans := [] }) c1 (b.prog.filterMap parseUInst)
  let s1 := s.stores ((List.range c.n).flatMap fun j =>
    if c.x then [(b.master.wd 0 + 4 * (a + j), leBytes 4 (encX (c.master j)).1), (b.master.wd 1 + 2 * (a + j), leBytes 2 (encX (c.master j)).2)]
    else [(b.master.elemAddr (a + j), leBytes 4 (enc32 (c.master j)))])
  let s2 := foldS (fun (v : State) (e : TensorDesc × Nat) => e.1.statePut d v a (c.reg (2 + e.2))) s1 b.states.zipIdx
  b.wcPut d s2 a ((List.range g.length).map c.master)

/-- The leaf digests of the working copy's bytes that elements [a, a + n) cover (R464). -/
def Binding.leavesPut (b : Binding) (s : State) (a n : Nat) : State :=
  foldS (fun (t : State) (e : (Nat × Nat) × Nat) =>
    let q := match b.wc.blk with
      | some k => (32, if e.2 = 0 then k.bytes else if e.2 = 1 then 1 else 4)
      | none => (1, 2)
    let lo := a / q.1 * q.2
    foldS (fun (v : State) j =>
      let off := 4096 * (lo / 4096 + j)
      v.stores [(b.tree + 64 + 16 * leafIndex b.wc.treePlanes e.2 off, digestOf (v.rdBytes (e.1.1 + off) (min 4096 (e.1.2 - off))))])
      t (List.range (ceilDiv (ceilDiv (a + n) q.1 * q.2) 4096 - lo / 4096))) s b.wc.treePlanes.zipIdx

/-- What applying a chunk of `n` elements from `a` on writes: its passes of 512 words, or without words only the working copy; then
the leaves. -/
def Binding.chunkPut (b : Binding) (u : UpdRun) (d : Desc) (s : State) (a n : Nat) (words : List Nat) : State :=
  b.leavesPut (if words.isEmpty then b.wcPut d s a (b.masterVals s a n)
    else foldS (fun v g => b.passPut u d v (a + 512 * g.2) g.1) s (pieces 512 (ceilDiv words.length 512) words).zipIdx) a n

/-- Closing the tree over its leaves: the upper levels and the header with the stamp, VALID 1 and PARTIAL 0 (R460, R464). -/
def Binding.treePut (b : Binding) (s : State) (step : Nat) : State :=
  let n := nLeaf b.wc.treePlanes
  let leaves := (List.range n).map fun j => s.rdBytes (b.tree + 64 + 16 * j) 16
  let up := treeLevels 64 leaves
  s.stores [(b.tree + 64 + 16 * n, up.flatMap List.flatten),
    (b.tree, leBytes 8 (step + 2 ^ 32) ++ leBytes 8 n ++ padTo 16 (rootOf leaves up) ++ List.replicate 32 0)]

/-- A partition has neither an exception ring nor registered buffers, so an update's command writes only its own memory. -/
def Part.bare (pt : Part) : Prop := pt.page.excBase = 0 ∧ pt.bufs = []

/-- The descriptor `r` is in flight, its work has ended and its status is decided as `st`. -/
def State.EndedWith (t : State) (r : DRef) (st : Nat) : Prop :=
  ∃ d, t.desc r = some d ∧ d.phase = .ended ∧ d.status = some st

/-- The state in which UPDATE_CHUNK and REGENERATE act: what their reads find is there, an uncorrectable word of on-chip
storage kept with the descriptor. -/
def State.metBy (s : State) (r : DRef) (found : List Found) : State := (s.finds r found).noteChip r found

/-- An update descriptor may start: nothing holds it and its binding is free. -/
def State.MayUpdate (s : State) (r : DRef) (d : Desc) : Prop :=
  s.desc r = some d ∧ s.mayStart r.part d = true ∧ (s.part r.part).bindFree d.bindId = true

/-- The stream a SAVE writes (R472): the header, each plane's bytes padded with zeros to 64, the digest over both, zeros. -/
def Binding.savePut (b : Binding) (s : State) (area : Nat) (states : Bool) : State :=
  let planes := b.streamPlanes states
  let n := dataLen planes
  let s1 := s.stores [(area, b.streamHeader states (s.rdN b.tree 4))]
  let s2 := foldS (fun (v : State) (e : Nat × Nat × Nat) =>
    let w := v.stores [(area + e.1 + e.2.2, List.replicate (pad64 e.2.2 - e.2.2) 0)]
    w.stores [(area + e.1, w.rdBytes e.2.1 e.2.2)]) s1 (streamPlaces 64 planes)
  s2.stores [(area + 64 + n, shake256 (s2.rdBytes area (64 + n)) ++ List.replicate 32 0)]

/-- What a LOAD writes (R473): each plane's bytes of the stream, then VALID 0 and PARTIAL 0 in the stamp word. -/
def Binding.loadPut (b : Binding) (s : State) (area : Nat) (states : Bool) : State :=
  let s1 := foldS (fun (v : State) (e : Nat × Nat × Nat) => v.stores [(e.2.1, v.rdBytes (area + e.1) e.2.2)]) s
    (streamPlaces 64 (b.streamPlanes states))
  s1.stores [(b.tree, leBytes 8 (clearBit (clearBit (s1.rdN b.tree 8) 32) 33))]

/-- A divergence record (R471, R473): the descriptor's tag, the tick, the binding, the image and leaf that differ, the step. -/
def Desc.divergence (d : Desc) (s : State) (source policy image leaf step : Nat) : List Byte :=
  leBytes 4 (0x09 + 0x0B * 256 + source * 65536 + policy * 2 ^ 18) ++ leBytes 4 d.tag ++ leBytes 8 s.tickNo ++ leBytes 4 d.bindId ++
    leBytes 4 image ++ leBytes 8 leaf ++ leBytes 4 step ++ leBytes 4 0 ++ List.replicate 24 0

/-- The collective rows: their descriptors, what their reads find, and opcodes. -/
def collStart : Instr → Option (DRef × List Found × Nat)
  | .gather ⟨r, found⟩ => some (r, found, 0x500)
  | .reduceScatter ⟨r, found⟩ => some (r, found, 0x501)
  | .allReduce ⟨r, found⟩ => some (r, found, 0x502)
  | .broadcast r => some (r, [], 0x503)
  | .barrier r => some (r, [], 0x504)
  | .permute r => some (r, [], 0x505)
  | _ => none

/-! ## Frames, channels, fabric, time -/

/-- The rows of received channel frames: the frame, what the reads it causes find, its TYPE, and for DATA frames the kind in
OP. -/
def channelFrame : Instr → Option (RxFrame × List Found × Nat × Option Nat)
  | .data ⟨f, found⟩ => some (f, found, 0, some 0)
  | .trailer ⟨f, found⟩ => some (f, found, 0, some 1)
  | .bases f => some (f, [], 0, some 2)
  | .token ⟨f, found⟩ => some (f, found, 0, some 3)
  | .grant f => some (f, [], 0, some 4)
  | .ack f => some (f, [], 1, none)
  | .chReset f => some (f, [], 4, none)
  | .chResetAck f => some (f, [], 5, none)
  | _ => none

/-- The count of good Syncs after an offset of `o` from the grandmaster. -/
def goodAfter (n : Nat) (o : Int) : Nat := if o.natAbs < 100 then n + 1 else 0

/-- The tick's state after an offset of `o` that leaves `n` good Syncs in a row. -/
def lockAfter (l : Lock) (n : Nat) (o : Int) : Lock :=
  if 1000 < o.natAbs ∧ l = .locked then .holdover else if 64 ≤ n ∧ l ≠ .locked then .locked else l

/-- The rows of received PTP messages. -/
def ptpRow : Instr → Option PtpFrame
  | .sync f _ _ _ _ _ => some f
  | .followUp f _ _ _ _ => some f
  | .announce f _ => some f
  | .delayReq f _ _ _ => some f
  | .delayResp f _ _ => some f
  | .ptpIgnoredMessage f _ => some f
  | _ => none

/-! ## Ticks -/

/-- Every period that is in effect, staged, waiting for its boundary or kept for a wake is one that `legal` allows. -/
def State.periodsAre (legal : Nat → Prop) (s : State) : Prop :=
  legal s.tick.period ∧ (∀ x, s.tick.stage = some x → legal x.1) ∧ (∀ r, s.tick.pendingResync = some r → legal r.period) ∧
  ∀ i, s.image = some i → legal i.period

/-! ## The watchdog -/

/-- What an expiry at device time `t` leaves (R499): the processor restarts or, at the third within 60 s, enters recovery; nothing else of the
package changes. -/
def State.Expired (s : State) (t : Nat) (u : State) : Prop :=
  let old := (s.mgmt.expiryTimes.filter fun x => decide (u.now < x + 60000000000)).length
  Only [.now, .rec', .mgmt, .tick, .fresh] s u ∧ u.now = max s.now t ∧
  u.tick = (if 2 ≤ old then { s.tick with running := s.tick.running && !s.mgmt.loadPending } else s.tick) ∧
  u.mgmt.boot = (if 2 ≤ old then .recovery else .restarting) ∧ u.mgmt.expiries = min 255 (s.mgmt.expiries + 1) ∧
  u.mgmt.nonce = none ∧ u.mgmt.fwu = none ∧ u.mgmt.flash = s.mgmt.flash ∧ u.mgmt.meas = s.mgmt.meas

/-! ## Commands of the platform -/

/-- The platform's commands with a message, their code and whether each needs a session (R509). -/
def IsPlatform (m : Msg) (time : Nat) (c : Instr) (cmd : Nat) (secured : Bool) : Prop :=
  c = .getInfo m ∧ cmd = 0x01 ∧ secured = false ∨
  c = .recorderRead m ∧ cmd = 0x02 ∧ secured = false ∨
  c = .recorderFreeze m ∧ cmd = 0x03 ∧ secured = true ∨
  c = .recorderUnfreeze m ∧ cmd = 0x04 ∧ secured = true ∨
  c = .logRead m ∧ cmd = 0x05 ∧ secured = false ∨
  c = .partitionSet m ∧ cmd = 0x10 ∧ secured = true ∨
  c = .partitionMode m ∧ cmd = 0x11 ∧ secured = true ∨
  c = .partitionClear m ∧ cmd = 0x12 ∧ secured = true ∨
  c = .policySet m ∧ cmd = 0x13 ∧ secured = true ∨
  c = .fabricId m ∧ cmd = 0x20 ∧ secured = true ∨
  c = .fabricSetup m ∧ cmd = 0x21 ∧ secured = true ∨
  c = .jobBind m time ∧ cmd = 0x22 ∧ secured = true ∨
  c = .jobUnbind m ∧ cmd = 0x23 ∧ secured = true ∨
  c = .tickStage m ∧ cmd = 0x24 ∧ secured = true ∨
  c = .powerState m ∧ cmd = 0x30 ∧ secured = true ∨
  c = .governorSet m ∧ cmd = 0x31 ∧ secured = true ∨
  c = .retireRecord m ∧ cmd = 0x32 ∧ secured = true ∨
  c = .debugUnlock m ∧ cmd = 0x40 ∧ secured = true ∨
  c = .policy m ∧ cmd = 0x41 ∧ secured = true

/-- The parameter lengths of a command's messages, as log entry 13 lays them out. -/
def LengthOk (cmd n : Nat) : Prop :=
  (cmd ∈ [0x01, 0x03, 0x04] → n = 0) ∧ (cmd ∈ [0x02, 0x05] → n = 5) ∧ (cmd ∈ [0x12, 0x23, 0x30] → n = 1) ∧
  (cmd = 0x10 → n = 129) ∧ (cmd = 0x11 → n = 2) ∧ (cmd ∈ [0x13, 0x20] → n = 3) ∧ (cmd = 0x21 → n = 88) ∧ (cmd = 0x22 → 73 ≤ n) ∧
  (cmd = 0x24 → n = 10) ∧ (cmd = 0x31 → n = 16) ∧ (cmd = 0x32 → n = 1 ∨ n = 81) ∧ (cmd = 0x40 → n = 29896) ∧ (cmd = 0x41 → n = 8)

/-- The entry a PARTITION_SET message carries: words 1 to 15, then word 0 (R237, R543). -/
def PartEntry.carried (e : PartEntry) (m : Msg) : PartEntry :=
  (foldS (fun (x : PartEntry) i => x.putWord (i + 1) (paramN m (9 + 8 * i) 8)) e (List.range 15)).putWord 0
    (paramN m 1 8 / 2 * 2 + 1)

/-- The command changes the parts `fs`, is recorded, and answers with a completion code and data. -/
def Answers (c : Instr) (s : State) (fs : List Field) (cmd req code : Nat) (data : List Byte) (P : State → Prop) : Prop :=
  Does c s fun t => Only ([.rec', .out] ++ fs) s t ∧ t.out = s.out ++ [.resp cmd req code data] ∧ P t

/-! ## The security engine -/

/-- The engine answers with an error and changes nothing. -/
def SpdmError (c : Instr) (s : State) : Prop := exec c s = .next (s.emit (.mctp 5 1 []))

/-- The engine answers with data, and nothing but its own part (and which free values are used up) changes. -/
def SpdmAnswer (c : Instr) (s : State) (P : State → List Byte → Prop) : Prop :=
  Does c s fun t => Only [.sec, .fresh, .out] s t ∧ ∃ data, t.out = s.out ++ [.mctp 5 0 data] ∧ P t data

end Sys2Proof.Machine

open Sys2Proof Sys2Proof.Machine

/-- For every command c and state s whose queue has c at its front, a step of s is what exec answers for c on s with the
rest of the queue. On an empty queue a step answers s itself: that clause is the model's choice (log entry 1). (INDEX.md,
95_what_each_step_holds.md) -/
def Obligations.StepRunsTheFrontCommand : Prop :=
  (∀ (c : Instr) (rest : List Instr) (s : State), s.pending = c :: rest → step s = exec c { s with pending := rest }) ∧
  (∀ s : State, s.pending = [] → step s = .next s)

/-- From every state whose stacked memory and host memories list their bytes in canonical form (addresses strictly rising,
no zero byte listed), whose table of attachments is canonical and whose poisoned sectors and poisoned host lines strictly
rise, whatever command a step runs, the next state has the same form. That form is the model's own (log entry 5). (R266,
R282, R283) -/
def Obligations.EveryStepKeepsTheStateSound : Prop :=
  ∀ s t : State, s.sound → step s = .next t → t.sound

/-- The state right after reset has stacked memory, attachments, host memories and the list of poisoned sectors in canonical
form, and an empty queue. The form, and that memory and the hosts' memories list nothing at reset, are the model's choice
(log entry 5); the queue is the model's own (log entry 1). (09_stacked_memory.md, 95_what_each_step_holds.md) -/
def Obligations.ResetStateIsSound : Prop :=
  State.reset.sound ∧ State.reset.pending = []

/-- For every command c and every state: where exec answers a next state, each of the 34 parts of the state that the table
touched does not list for c is unchanged (time, tick, time protocol, recorder, management, security, power, pins, links,
memory, poison, fabric, channels, accumulators, residency, on-chip buffers, registers of the engines, attachments,
partitions, what has left the package, and the others), the queue is unchanged, and what has left the package before stays
as it was and in its order. (R498, 95_what_each_step_holds.md) -/
def Obligations.EveryCommandTouchesOnlyItsParts : Prop :=
  ∀ (c : Instr) (s t : State), exec c s = .next t →
    (∀ f, f ∉ touched c → f.same s t) ∧ t.pending = s.pending ∧ s.out <+: t.out

/-- While the package is halted, a command leaves it halted unless it resets the package or its domains cold: COLD_RESET_N,
AON_RESET_N low, the loss of the always-on rail; COLD, or firmware's write of COLD; GO, POWER_STATE or a write of PWR_CTL
outside RUN with no good image to restore, which is a cold reset; the loss or return of MAIN_PWRGD or REFCLK100, or an exit
that ends without REFCLK100, where it resets the domains; and in recovery mode the pieces of an image. COLD_RESET_N answers
a package that is not halted. (R486, R514, R536, R570) -/
def Obligations.OnlyAColdResetEndsTheHalt : Prop :=
  (∀ (c : Instr) (s t : State), s.mayColdReset c = false → s.halted = true → exec c s = .next t → t.halted = true) ∧
  (∀ s : State, Does .coldResetN s fun t => t.halted = false)

/-- Whatever command runs, every fused value stays as it was, except that the fused SVN may rise; it never falls. (R1, R3,
R513) -/
def Obligations.FusesStayButForTheRisingSvn : Prop :=
  ∀ (c : Instr) (s t : State), exec c s = .next t → t.fuse = { s.fuse with svn := t.fuse.svn } ∧ s.fuse.svn ≤ t.fuse.svn

/-- For every command and every state, exec answers a next state, except for an aligned 64-bit register write by management
firmware that reaches the DBG block while debug is enabled, which is refused by the name debugBlock because the spec does
not describe that block's registers; and there it is refused. The refusal is the model's choice (log entry 39). (R539, R540,
R521) -/
def Obligations.EveryCommandCompletesButDebugWrites : Prop :=
  ∀ (c : Instr) (s : State),
    (∃ t, exec c s = .next t) ∨
    (∃ addr size value, c = .registerWrite .mgmt addr size value ∧ s.hitsDebug addr size = true ∧ exec c s = .refused .debugBlock)

/-- After reset the tick has period 1 ms and is UNLOCKED, the power block has FMIN 800, FMAX 1800, LIMIT_W 3,600 (grade A),
TJ_THROTTLE 100, STACK_THROTTLE 95, TJ_CRIT 115, TJ_WAKE 90, wake address 0x4C with both wake sources on, the memory block
scrubs every 24 hours and is untrained, the fabric block has EtherType 0x88B5, priorities 3, 6 and 7, HOP_LIMIT 3,
CHAN_FAIL_MS 100, clock class 248 and priorities 128, management demands a session, names no update partition, has a 1,000
ms watchdog and eight zero measurements, no partition entry is valid, nothing is halted, and TARGET and STATE are RUN. The
grade is the model's choice (log entry 4). (R24, R30, R495, R289, R400, R522, R551, R546, R235) -/
def Obligations.ResetLeavesTheValuesTheSpecGives : Prop :=
  let s := State.reset
  s.tick.period = 1000 ∧ s.tick.lock = .unlocked ∧ s.tick.count = 0 ∧ s.tick.overruns = 0 ∧
  s.pwr.fmin = 800 ∧ s.pwr.fmax = 1800 ∧ s.pwr.limit = 3600 ∧ s.pwr.tjThrottle = 100 ∧ s.pwr.stackThrottle = 95 ∧
  s.pwr.tjCrit = 115 ∧ s.pwr.tjWake = 90 ∧ s.pwr.wakeAddr = 0x4C ∧ s.pwr.i3cEn = true ∧ s.pwr.thermEn = true ∧
  s.pwr.target = 0 ∧ s.pwr.state = 0 ∧ s.pwr.busy = false ∧ s.pwr.padHeld = 0 ∧
  s.memc.scrubHours = 24 ∧ s.memc.scrubEn = true ∧ s.memc.trained = false ∧
  s.fab.etype = 0x88B5 ∧ s.fab.dataPcp = 3 ∧ s.fab.ctrlPcp = 6 ∧ s.fab.ptpPcp = 7 ∧ s.fab.hopLimit = 3 ∧ s.fab.failMs = 100 ∧
  s.fab.clockClass = 248 ∧ s.fab.priority1 = 128 ∧ s.fab.priority2 = 128 ∧ s.fab.started = false ∧
  s.mgmt.requireSession = true ∧ s.mgmt.updatePart = 0xF ∧ s.mgmt.wdtPeriod = 1000 ∧
  s.mgmt.meas = List.replicate 8 (List.replicate 64 0) ∧ s.mgmt.dbgEn = false ∧
  (∀ p, (s.part p).ent = PartEntry.dflt ∧ (s.part p).page = PartPage.dflt) ∧ s.halted = false

/-- In grade B, clusters 20d+18 and 20d+19 and video decode engines 16d+12 to 16d+15 of each die d are fused off; every
other unit is present under its own number, as all 80 clusters and 64 video engines are in grade A. (R2) -/
def Obligations.PresentUnitsFollowTheGrade : Prop :=
  ∀ (s : State) (d : Nat), d < 4 →
    (∀ i, i < 20 → (s.clusterPresent (20 * d + i) = false ↔ s.fuse.gradeB = true ∧ (i = 18 ∨ i = 19))) ∧
    (∀ i, i < 16 → (s.videoPresent (16 * d + i) = false ↔ s.fuse.gradeB = true ∧ 12 ≤ i))

/-- A doorbell that carries P to an enabled submission ring, with bits [63:32] zero, is accepted exactly when (P - F) mod
2^32 ≤ E and (P - P0) mod 2^32 ≤ (P - F) mod 2^32, where F is the fetch count, P0 the last accepted producer count and E the
ring's entries: then P becomes the accepted count and nothing else changes. In every other case DOORBELL_REJECT rises by one
and nothing else changes. In both, the host's own memory holds what the host stored in it before the doorbell. (R196, R201,
R254) -/
def Obligations.ProducerDoorbellIsAcceptedOrCounted : Prop :=
  ∀ (s : State) (h : Port) (p ring : Nat) (v : W64) (stored : List (Nat × List Byte)), s.Listens h p →
    let u := s.hostStore h.att stored
    let q := (s.part p).subRing ring
    let accepts := v.toNat < 2 ^ 32 ∧ q.enabled = true ∧
      (v.toNat + (2 ^ 32 - q.fetched.toNat)) % 2 ^ 32 ≤ 2 ^ q.log2 ∧
      (v.toNat + (2 ^ 32 - q.produced.toNat)) % 2 ^ 32 ≤ (v.toNat + (2 ^ 32 - q.fetched.toNat)) % 2 ^ 32
    (accepts → exec (.sqProducer h ring ⟨v, stored⟩) s =
      .next (u.updPart p fun x => x.setSub ring { q with produced := BitVec.ofNat 32 v.toNat })) ∧
    (¬ accepts → exec (.sqProducer h ring ⟨v, stored⟩) s = .next (u.Rejected p))

/-- A doorbell that carries H to an enabled completion ring, with bits [63:32] zero, is accepted exactly when (H - H0) mod
2^32 ≤ (W - H0) mod 2^32, where H0 is the last accepted consumer count and W the entries written: then H becomes the
accepted count and nothing else changes. In every other case DOORBELL_REJECT rises by one and nothing else changes. (R198,
R201) -/
def Obligations.ConsumerDoorbellIsAcceptedOrCounted : Prop :=
  ∀ (s : State) (h : Port) (p ring : Nat) (v : W64), s.Listens h p →
    let c := (s.part p).comRing ring
    let accepts := v.toNat < 2 ^ 32 ∧ c.enabled = true ∧
      (v.toNat + (2 ^ 32 - c.consumed.toNat)) % 2 ^ 32 ≤ (c.written.toNat + (2 ^ 32 - c.consumed.toNat)) % 2 ^ 32
    (accepts → exec (.cqConsumer h ring v) s =
      .next (s.updPart p fun x => x.setCom ring { c with consumed := BitVec.ofNat 32 v.toNat })) ∧
    (¬ accepts → exec (.cqConsumer h ring v) s = .next (s.Rejected p))

/-- Said of the state after what the doorbell's read of the control block finds wrong has taken effect (log entry 40). A
RING_CTL doorbell whose value names submission ring n below 256, or completion ring m below 128, reads that ring's control
block. Where the block is readable, obeys its field rules and has ENABLE 1, the ring is disabled, the partition has a ring
left to enable, a LOC 0 ring fits the window and (for a submission ring) its completion ring is enabled, the ring becomes
enabled with the block's fields and zero counts, and nothing else changes. Where the block cannot be read, or breaks a field
rule, RELOAD_REJECT rises by one and nothing else changes. A value with bits [63:9] set, or that names completion ring 128
or above, is a rejected doorbell. (R194, R195, R201, R240) -/
def Obligations.RingControlEnablesReloadsAndRefuses : Prop :=
  ∀ (s₀ : State) (h : Port) (p n : Nat) (v : W64) (found : List Found), s₀.Listens h p →
    let s := s₀.findAll 0 0 found
    let pt := s.part p
    let refused := s.updPart p fun q => { q with mirror := { q.mirror with reloadReject := q.mirror.reloadReject + 1 } }
    (n < 256 → v.toNat = n →
      (∀ b, s.ctlBlock pt (pt.page.ringBase + 64 * n) = some b → b.subOk = true → b.enable = true →
        (pt.subRing n).enabled = false → pt.rings.length < pt.ent.sqMax → b.fits pt 128 = true →
        (pt.comRing (fld b.w1 22 16)).enabled = true → pt.mirror.hold = false →
        Does (.ringCtlSubmission h ⟨v, found⟩) s₀ fun t => t = s.setPart p (pt.setSub n ((t.part p).subRing n)) ∧
          let q := (t.part p).subRing n
          q.enabled = true ∧ q.base = b.base ∧ q.log2 = fld b.w1 3 0 ∧ q.loc = fld b.w1 4 4 ∧ q.prio = fld b.w1 8 7 ∧
          q.borrow = bitOf b.w1 9 ∧ q.homeDie = fld b.w1 11 10 ∧ q.cq = fld b.w1 22 16 ∧ q.fetchMax = fld b.w1 41 32 ∧
          q.stopEn = bitOf b.w1 6 ∧ q.stopTag = b.w2 ∧ q.fetched = 0 ∧ q.produced = 0 ∧ q.stopped = false) ∧
      (s.ctlBlock pt (pt.page.ringBase + 64 * n) = none ∨
        (∃ b, s.ctlBlock pt (pt.page.ringBase + 64 * n) = some b ∧ b.subOk = false) →
        exec (.ringCtlSubmission h ⟨v, found⟩) s₀ = .next refused)) ∧
    (n < 128 → v.toNat = 256 + n →
      (∀ b, s.ctlBlock pt (pt.page.ringBase + 0x4000 + 64 * n) = some b → b.comOk = true → b.enable = true →
        (pt.comRing n).enabled = false → (pt.cq.filter fun e => e.2.enabled).length < pt.ent.cqMax → b.fits pt 32 = true →
        exec (.ringCtlCompletion h ⟨v, found⟩) s₀ = .next (s.setPart p (pt.setCom n
          { enabled := true, base := b.base, log2 := fld b.w1 3 0, loc := fld b.w1 4 4, vector := fld b.w1 26 16,
            written := 0, consumed := 0, waiting := [] }))) ∧
      (s.ctlBlock pt (pt.page.ringBase + 0x4000 + 64 * n) = none ∨
        (∃ b, s.ctlBlock pt (pt.page.ringBase + 0x4000 + 64 * n) = some b ∧ b.comOk = false) →
        exec (.ringCtlCompletion h ⟨v, found⟩) s₀ = .next refused)) ∧
    (512 ≤ v.toNat ∨ 384 ≤ v.toNat → exec (.ringCtlSubmission h ⟨v, found⟩) s₀ = .next (s.Rejected p) ∧
      exec (.ringCtlCompletion h ⟨v, found⟩) s₀ = .next (s.Rejected p))

/-- While a seed trap holds the partition and the hold is not ending, a RESUME doorbell whose value equals TRAP_SEQ begins
its end: no completion entry is withheld for the hold any more, HOLD goes on only while an entry so let go is still to be
written, and once none is, HOLD and TRAP_SEQ clear and the trap is armed again; where no entry was withheld, that happens at
once. The write of the last such entry ends the hold too. Memory and every other partition are unchanged. A value that
equals TRAP_SEQ while no hold stands, or while its end has begun, changes nothing (log entry 25); any other value only adds
one to DOORBELL_REJECT. (R223, R201, R81) -/
def Obligations.ResumeEndsTheHoldItNames : Prop :=
  (∀ (s : State) (h : Port) (p : Nat) (v : W64), s.Listens h p →
    let m := (s.part p).mirror
    (v.toNat = m.trapSeq → m.hold = true → m.ending = 0 →
      Does (.resume h v) s fun t =>
        ((t.part p).mirror.hold = true → (t.part p).mirror.ending = 1 ∧ (t.part p).mirror.trapSeq = m.trapSeq ∧
          (t.part p).holdOwes = true) ∧
        ((t.part p).mirror.hold = false → (t.part p).mirror.trapSeq = 0 ∧ (t.part p).mirror.trapRecord = []) ∧
        (∀ x, x ∈ (t.part p).cq → ∀ e, e ∈ x.2.waiting → e.go = false → (e.started = true ∧ e.heldCancel = false) ∨
          (t.part p).mirror.hold = false) ∧
        ((s.part p).descs = [] → (∀ x, x ∈ (s.part p).cq → x.2.waiting = []) → (t.part p).mirror.hold = false) ∧
        OthersKept p s t ∧ Only [.parts, .vec, .upd, .acc, .accGen, .res, .fresh] s t) ∧
    (v.toNat = m.trapSeq → m.hold = false ∨ m.ending ≠ 0 → exec (.resume h v) s = .next s) ∧
    (v.toNat ≠ m.trapSeq → exec (.resume h v) s = .next (s.Rejected p))) ∧
  (∀ (s₀ : State) (p cq : Nat) (found : List Found) (e : Entry), s₀.halted = false →
    let s := s₀.findAll 0 0 found
    s.entryDue p cq = some e → ((s.part p).comRing cq).room = true →
    (s.part p).mirror.hold = true → (s.part p).mirror.ending ≠ 0 →
    Does (.completionEntryWrite p ⟨cq, found⟩) s₀ fun t => (t.part p).mirror.hold = true → (t.part p).holdOwes = true)

/-- CANCEL_TAG and CANCEL_FROM_TAG of a tag that no open descriptor of the ring carries, and a CANCEL with a reserved bit
set, only add one to DOORBELL_REJECT. Else a cancel takes every open descriptor of its scope (the oldest of the tag; it and
the ring's later ones; the ring's; every enabled ring's), but STREAM_OPEN and STREAM_CLOSE once started: it is marked and
decided, or its cancelled entry stands at its completion ring; no descriptor outside the scope becomes marked. One that runs
a slice is only marked, and decided CANCELLED where nothing was decided; while a hold goes on its entry waits for the hold's
end. A started FLAG wait, and one that has not started, with nothing decided, completes CANCELLED at once. RING and
PARTITION also mark the published descriptors that are not fetched, up to the producer count, and let a ring that a poisoned
entry stopped fetch again; FROM_TAG marks them too. A PARTITION cancel begins the end of a hold: HOLD goes on only while an
entry is owed, and ends at once where none is. That descriptors are told apart by ring and number is a premise on each. The
oldest of a tag, and the order in a hold, are log entries 27 and 25. (R220, R221, R224, R201) -/
def Obligations.CancelDoorbellsDecideTheirScope : Prop :=
  (∀ (s : State) (h : Port) (p ring tag : Nat), s.Listens h p → ring < 256 → tag < 2 ^ 32 →
    let pt := s.part p
    let g := pt.nextGroup
    let tagged : Instr := .cancelTag h (BitVec.ofNat 64 (ring * 256 + tag * 2 ^ 32))
    let onward : Instr := .cancelFromTag h (BitVec.ofNat 64 (1 + ring * 256 + tag * 2 ^ 32))
    let only (e : Desc) : Prop := ∀ e', e' ∈ pt.descs → e'.ring = e.ring → e'.num = e.num → e' = e
    let open' (e : Desc) : Prop := e ∈ pt.descs ∧ only e ∧ e.phase ≠ .done ∧
      ¬ (e.started = true ∧ (e.opcode = 0x401 ∨ e.opcode = 0x402))
    let takes (c : Instr) (scope : Desc → Prop) : Prop := Does c s fun t => OthersKept p s t ∧
      (∀ e, open' e → scope e → t.CancelTook (e.ref p)) ∧
      ∀ x, x ∈ (t.part p).descs → x.cancel = true → ∃ e, e ∈ pt.descs ∧ e.ring = x.ring ∧ e.num = x.num ∧ (e.cancel = true ∨ scope e)
    let past (t : State) (n : Nat) : Prop :=
      ((pt.subRing n).fetched ≠ (pt.subRing n).produced → (g, (pt.subRing n).produced.toNat) ∈ ((t.part p).subRing n).cancels) ∧
      ((pt.subRing n).fetched = (pt.subRing n).produced → ((t.part p).subRing n).cancels = (pt.subRing n).cancels)
    (pt.oldestTag ring tag = none → exec tagged s = .next (s.Rejected p) ∧ exec onward s = .next (s.Rejected p)) ∧
    (∀ d, pt.oldestTag ring tag = some d →
      takes tagged (fun e => e = d) ∧ takes onward (fun e => e.ring = ring ∧ numLe d.num e.num = true) ∧
      (Does onward s fun t => past t ring) ∧
      (d.started = true → d.phase = .running → isSliced d.opcode = true → d.slice.isSome = true → d.coll = none → only d →
        Does tagged s fun t => Only [.parts] s t ∧ t.desc (d.ref p) = some { d with
            cancel := true
            heldCancel := d.heldCancel || (pt.mirror.hold && pt.mirror.ending == 0)
            groups := d.groups ++ [g]
            status := some (d.status.getD stCancelled)
            detail := if d.status.isSome then d.detail else 0 } ∧
          ∀ q : DRef, q.part = p → q ≠ d.ref p → t.desc q = s.desc q) ∧
      (only d → d.status = none → d.started = false ∨ (d.isWait = true ∧ d.phase = .running) →
        Does tagged s fun t => t.Settled (d.ref p) stCancelled)) ∧
    ((pt.subRing ring).enabled = true →
      takes (.cancelRing h (BitVec.ofNat 64 (2 + ring * 256))) (fun e => e.ring = ring) ∧
      Does (.cancelRing h (BitVec.ofNat 64 (2 + ring * 256))) s fun t => past t ring ∧ ((t.part p).subRing ring).poisoned = false) ∧
    takes (.cancelPartition h 3) (fun e => e.ring ∈ pt.rings) ∧
    (Does (.cancelPartition h 3) s fun t => ∀ n, n ∈ pt.rings → past t n ∧ ((t.part p).subRing n).poisoned = false) ∧
    (pt.mirror.hold = true → Does (.cancelPartition h 3) s fun t =>
      ((t.part p).mirror.hold = true → (t.part p).mirror.ending = 2 ∧ (t.part p).mirror.endGroup = g ∧ (t.part p).holdOwes = true) ∧
      ((t.part p).mirror.hold = false → (t.part p).mirror.trapSeq = 0) ∧
      (pt.descs = [] → (∀ x, x ∈ pt.cq → x.2.waiting = []) →
        (∀ x, x ∈ pt.sq → x.2.fetched = x.2.produced ∧ x.2.cancels = []) → (t.part p).mirror.hold = false))) ∧
  ∀ (s : State) (h : Port) (p : Nat) (v : W64), s.Listens h p → fld v.toNat 7 2 ≠ 0 ∨ fld v.toNat 31 16 ≠ 0 →
    exec (.cancelTag h v) s = .next (s.Rejected p) ∧ exec (.cancelFromTag h v) s = .next (s.Rejected p) ∧
    exec (.cancelRing h v) s = .next (s.Rejected p) ∧ exec (.cancelPartition h v) s = .next (s.Rejected p)

/-- A write to a slot at 0xC18 or above, or one that is not a single aligned 64-bit write, adds one to DOORBELL_REJECT and
changes nothing else. While the package is halted, every doorbell of the page does just that. (R200, R201, R536) -/
def Obligations.ReservedSlotsCountAndHaltedDoorbellsCount : Prop :=
  (∀ (s : State) (h : Port) (p offset : Nat) (whole : Bool), s.Listens h p →
    (whole = false ∨ offset % 8 ≠ 0 ∨ 0xC18 ≤ offset) →
    exec (.doorbellReservedSlot h offset whole) s = .next (s.Rejected p)) ∧
  (∀ (s : State) (h : Port) (p : Nat) (c : Instr), s.portPart h = some p → s.halted = true →
    ((∃ ring v, c = .sqProducer h ring ⟨v, []⟩ ∨ c = .cqConsumer h ring v) ∨
     (∃ w, c = .ringCtlSubmission h w ∨ c = .ringCtlCompletion h w) ∨
     (∃ v, c = .resume h v ∨ c = .cancelTag h v ∨
       c = .cancelFromTag h v ∨ c = .cancelRing h v ∨ c = .cancelPartition h v)) →
    exec c s = .next (s.Rejected p)) ∧
  (∀ (s : State) (h : Port) (p ring : Nat) (v : W64) (stored : List (Nat × List Byte)), s.portPart h = some p → s.halted = true →
    exec (.sqProducer h ring ⟨v, stored⟩) s = .next ((s.hostStore h.att stored).Rejected p))

/-- Where a ring has a published descriptor that nothing keeps from being fetched and the ring is the one served now,
DESCRIPTOR_FETCH raises its fetch count by one. If its entry (at BASE + 128 × (F mod E)) reads without poison and no check,
dependency or cancel decides it, the descriptor joins the partition's descriptors in flight with its 128 bytes, its number
F, the partition's numeric mode and job seed, waiting for its dependencies. If the entry reads poisoned, in stacked memory
or in host memory, it counts as fetched (log entry 25), and the ring is marked so and may fetch no more, which only a cancel
of its scope ends. Other partitions are unchanged. All this is said of the state after what the command's reads of memory
find wrong has taken effect (log entry 40). (R196, R204, R205, R156, R534) -/
def Obligations.FetchTakesTheNextDescriptorOfTheRing : Prop :=
  ∀ (s : State) (p ring : Nat) (found : List Found), s.mayFetch p ring = true → s.servesNow p ring = true →
    let u0 := s.findAll 0 0 found
    let pt := u0.part p
    let q := pt.subRing ring
    let u := { u0 with served := tput u0.served (q.homeDie * 4 + q.prio) (p * 256 + ring) }
    let a := q.base + 128 * (q.fetched.toNat % 2 ^ q.log2)
    let raw := if q.loc = 0 then u.rdBytes a 128 else u.hostRd pt.ent.attach a 128
    let lost := if q.loc = 0 then (u.poisonIn a 128).isSome = true else (u.hostPoisonIn pt.ent.attach a 128).isSome = true
    (¬ lost →
      (u.fetchDecide p { pt.newDesc ring q.fetched.toNat raw with memSectors := u0.poison.length - s.poison.length }
        (q.cancels.map (·.1))).status = none →
      Does (.descriptorFetch p ⟨ring, found⟩) s fun t =>
        (∃ d, (t.part p).descs = pt.descs ++ [d] ∧ d.ring = ring ∧ d.num = q.fetched.toNat ∧ d.raw = raw ∧
          d.mode = pt.ent.mode ∧ d.seed = pt.page.jobSeed ∧ d.phase = .waiting ∧ d.started = false ∧ d.status = none) ∧
        ((t.part p).subRing ring).fetched = q.fetched + 1 ∧ OthersKept p u t ∧ Only [.parts] u t) ∧
    (lost → Does (.descriptorFetch p ⟨ring, found⟩) s fun t =>
        ((t.part p).subRing ring).fetched = q.fetched + 1 ∧ ((t.part p).subRing ring).poisoned = true ∧ t.mayFetch p ring = false)

/-- For a waiting, undecided descriptor all of whose dependencies completed with success, in a package that is not halted:
where its opcode's admission checks pass, it becomes admitted, after every descriptor admitted or fetched before; where a
check fails with a status other than EMPTY_OUTPUT, it is decided with that status and DETAIL and nothing else changes; both
of the state after what the checks' reads of memory find wrong has taken effect (log entry 40), in which the descriptor
keeps how many sectors they poisoned. An update's descriptor also latches its binding's sentry counts. A descriptor that
still waits for a dependency is left as it is. (R174, R177) -/
def Obligations.AdmissionChecksThenAdmits : Prop :=
  ∀ (s : State) (r : DRef) (d : Desc) (found : List Found), s.desc r = some d → s.halted = false → d.phase = .waiting →
    d.status = none →
    let u := s.foundBy r found
    ((d.deps.all fun e => match e.status with | some st => isSuccess st | none => false) = true →
      (∀ du d', u.desc r = some du → admitOp u r.part du = .ok d' →
        Does (.descriptorAdmit ⟨r, found⟩) s fun t =>
          (t.part r.part).descs = (u.part r.part).descs.map (fun x => if x.ring == r.ring && x.num == r.num then
            { d' with phase := .admitted, order := (u.part r.part).nextOrder } else x) ∧
          (t.part r.part).nextOrder = (u.part r.part).nextOrder + 1 ∧ OthersKept r.part u t ∧ Only [.parts] u t) ∧
      (∀ du st detail, u.desc r = some du → st ≠ stEmptyOutput → admitOp u r.part du = .error (st, detail) →
        exec (.descriptorAdmit ⟨r, found⟩) s = .next (u.updDesc r fun x => x.finish st detail))) ∧
    ((∃ e, e ∈ d.deps ∧ e.status = none) → exec (.descriptorAdmit ⟨r, found⟩) s = .next s)

/-- With m = max(1 µs, p(n)/128), avail = B(n+1) - m - t and r units per ns: where floor(avail × r) is at least 1, the slice
has the smaller of that number and the units left; where it is 0 and one unit fits p(n+1) - m - 2 µs the descriptor is held;
otherwise the slice has one unit. Times are in 128ths of a ns and r = num/den. (R208) -/
def Obligations.SliceSizesFitTheTick : Prop :=
  ∀ t b p p1 num den left : Nat, 0 < num → 0 < den → 0 < left →
    let m : Int := max 128000 (p * 1000)
    let avail : Int := ((b : Int) - t) * 128 - m
    let next : Int := (p1 : Int) * 128000 - m - 256000
    match sliceChoice t b p p1 num den left with
    | .issue k =>
      (128 * (den : Int) ≤ avail * num → 1 ≤ k ∧ k ≤ left ∧ (k : Int) * (128 * den) ≤ avail * num ∧
        (k = left ∨ avail * num < ((k : Int) + 1) * (128 * den))) ∧
      (avail * num < 128 * (den : Int) → k = 1 ∧ next * num < 128 * den)
    | .hold => avail * num < 128 * (den : Int) ∧ 128 * (den : Int) ≤ next * num

/-- Where a slice of a descriptor may be sized at time t (admitted or running, units left, its clusters free, the tick open
and 2 µs old) and no check at start fails, SLICE_ISSUE at t sets the device time to t and either begins a slice of at least
one unit, from the first unit not done, on every cluster the descriptor uses now, the descriptor then being started, or
holds the descriptor for tick slack without starting it. The slice meets the uncorrectable word of on-chip storage that was
found, if any. Beyond what the reads of memory found wrong, which takes effect first (log entry 40), the accumulators,
residency records and memory are unchanged. (R207, R208, R184, R174) -/
def Obligations.SliceIssueStartsTheDescriptor : Prop :=
  ∀ (s : State) (r : DRef) (d : Desc) (t : Nat) (found : List Found), s.desc r = some d → s.mayIssue r d t = true →
    let w := (s.advance t).foundBy r found
    (d.started = true ∨ w.startCheck d = none) →
    Does (.sliceIssue ⟨r, found⟩ t) s fun u => u.now = t ∧ Only [.parts, .fresh] w u ∧ ∃ d', u.desc r = some d' ∧
      ((∃ sl, d'.slice = some sl ∧ sl.first = d.doneUnits ∧ 1 ≤ sl.count ∧ sl.clusters = (w.part r.part).clustersNow d ∧
          sl.start = t ∧ sl.ran = false ∧ sl.chip = chipOf found ∧ d'.started = true ∧ d'.slack = false ∧
          d'.startTick = (if d.started then d.startTick else s.tickNo)) ∨
        (d'.slice = none ∧ d'.slack = true ∧ d'.started = d.started))

/-- For a sliced descriptor other than DECODE_STEP and SEQ_RESUME whose running slice has been carried out, in a package not
halted, SLICE_END at a time t of the present tick ends the slice: its units are counted as done, the rate it measured is
kept, and the descriptor is decided OK and ended if no unit is left and nothing else decided it or cancelled it. A cancelled
descriptor without a decision is decided CANCELLED. With units left and nothing decided it goes on undecided. (R207, R209,
R218) -/
def Obligations.SliceEndCountsTheUnits : Prop :=
  ∀ (s : State) (r : DRef) (d : Desc) (sl : Slice) (t : Nat) (stall : List (Nat × Nat)), s.desc r = some d → d.slice = some sl →
    isSliced d.opcode = true → d.opcode ≠ 0x310 → d.opcode ≠ 0x311 → sl.ran = true → s.halted = false →
    s.now ≤ t → t ≤ s.nextBoundary →
    Does (.sliceEnd r t stall) s fun u => u.now = t ∧ ∃ d', u.desc r = some d' ∧ d'.slice = none ∧
      d'.doneUnits = d.doneUnits + sl.count ∧
      d'.rate = some ⟨sl.count, max 1 (t - sl.start), max 1 sl.clusters.length, sl.f⟩ ∧
      (d.status = none → d.cancel = false → d.doneUnits + sl.count = d.units → d'.status = some stOk ∧ d'.phase = .ended) ∧
      (d.status = none → d.cancel = true → d'.status = some stCancelled ∧ d'.phase = .ended) ∧
      (d.status = none → d.cancel = false → d.doneUnits + sl.count < d.units → d'.status = none ∧ d'.phase = d.phase)

/-- For a descriptor whose status is decided and whose work has ended or never started, in a package not halted,
DESCRIPTOR_COMPLETE puts its completion into effect: it is done, with its entry held back while a hold or stop asks for it,
or its entry stands at the completion ring bound to its submission ring. Its status is the decided one, but TICK_OVERRUN for
OK with a non-zero overrun count. Fabric channels are unchanged, and so are the registers and masks of every tile engine; no
engine works for it any more. A MEDIA_SAMPLE that committed all its samples waits for the earlier ones of its ring. A
started MATMUL that keeps its slot leaves, after success, its residency record on each of its clusters, and otherwise none
(no waiting descriptor has started). Bindings it held are released; an UNBIND that succeeds ends its binding.
MEMORY_UNCORRECTABLE stores a memory-error record (of a DECODE_STEP, which also gives its sequences their bytes, this is set
aside). Storing a record, for any state, partition and 64 bytes: with room on the exception ring (its last slot is kept for
the first trap of a hold) the record stands at its slot and the count is one higher; without room the overflow count is one
higher and nothing else is written; without a ring nothing is written. Raising the seed trap with no hold (of a descriptor
that is no FLAG wait) stores the seed-trap record, sets HOLD, TRAP_SEQ and TRAP_RECORD, ends lending, and decides the
descriptor NAN_TRAP unless it is decided. (R184, R199, R211, R316, R78, R80, R99, R448, R526, R527, R528, R530) -/
def Obligations.CompletionTakesEffectWithItsStatus : Prop :=
  (∀ (s : State) (r : DRef) (d : Desc) (st : Nat), s.desc r = some d → s.halted = false → d.status = some st →
    d.phase = .ended ∨ ((d.phase = .waiting ∨ d.phase = .admitted) ∧ d.started = false) →
    ((s.part r.part).mediaTurn d = true → Does (.descriptorComplete r) s fun t =>
      t.Settled r (if st = stOk ∧ d.overruns ≠ 0 then stOverrun else st) ∧ t.chans = s.chans ∧
      (twf VecEngine.dflt s.vec = true → ∀ q : VecAt, (t.vecEngine q).regs = (s.vecEngine q).regs ∧
        (t.vecEngine q).masks = (s.vecEngine q).masks ∧ ((t.vecEngine q).at'.map fun e => e.1) ≠ some r) ∧
      (d.opcode = 0x100 → d.started = true → (∀ e, e ∈ (s.part r.part).descs → e.phase = .waiting → e.started = false) →
        ∀ c, c ∈ d.clusters → tlook t.res (c * 32 + d.w8 0x50 % 32) =
        if d.keeps = true ∧ (st = stOk ∨ st = stOverrun) then some ⟨d.tag, d.matTiles, fld (d.w32 0x50) 11 9, d.clusters.length, 128⟩ else none) ∧
      (∀ e, e ∈ (t.part r.part).binds → e.2.holder ≠ some r) ∧
      (d.unbinds = true → st = stOk →
        (t.part r.part).binds.map (·.1) = ((s.part r.part).binds.filter fun e => e.2.holder != some r).map (·.1)) ∧
      (d.opcode ≠ 0x310 → t.mem = if st = stMemory then
          (s.stores (s.recordPut r.part (if d.chip = none then
            s.memErrorBytes d.tag (d.memTick.getD s.tickNo) d.detail 0 d.memSectors else s.memRecord d) false)).mem
        else s.mem)) ∧
    ((s.part r.part).mediaTurn d = false → exec (.descriptorComplete r) s = .next s)) ∧
  (∀ (s : State) (p : Nat) (bytes : List Byte) (first : Bool),
    let x := s.exception p bytes first
    x.1.mem = (s.stores (s.recordPut p bytes first)).mem ∧ x.2 = s.recordNumber p first ∧
    (x.1.part p).excCount = (s.part p).excCount + (if x.2 = 0 then 0 else 1) ∧ OthersKept p s x.1) ∧
  (∀ (s : State) (r : DRef) (d : Desc) (x : NanAt), s.desc r = some d → d.status ≠ some stNanTrap → d.isWait = false →
    (s.part r.part).mirror.hold = false →
    let record := seedTrapBytes true d.tag s.tickNo r.ring d.opcode x.cluster x.engine x.evt
    let t := s.seedTrapAt r x
    t.mem = (s.stores (s.recordPut r.part record true)).mem ∧ (t.part r.part).mirror.hold = true ∧
      (t.part r.part).mirror.trapSeq = s.recordNumber r.part true ∧ (t.part r.part).mirror.trapRecord = record ∧
      (t.part r.part).lent = [] ∧ OthersKept r.part s t ∧
      ∃ e, t.desc r = some e ∧ e.status = (if d.status.isSome then d.status else some stNanTrap))

/-- Said of the state after what the read of a partial write of the entry finds wrong (log entry 40). Where an entry waits
at an enabled completion ring and no stopped ring and no earlier entry of its release group withholds it, no hold stands,
the package is not halted, and the ring lies in the shared window or in the memory of a host whose link carries CXL: with
room in the ring (W - H < E), COMPLETION_ENTRY_WRITE stores the 32 bytes of the first such entry at BASE + 32 × (W mod E),
with PHASE (floor(W/E) + 1) mod 2 and the tick, raises W by one and takes that entry from the queue; with IRQ set it signals
the ring's vector: the message is sent, or its pending bit is set while the vector is masked or the link is down. On a full
ring, or where every entry is withheld, nothing changes. (R184, R198, R199, R180, R187, R259, R263) -/
def Obligations.CompletionEntriesAreWrittenInTurn : Prop :=
  ∀ (s₀ : State) (p m : Nat) (found : List Found), s₀.halted = false →
    let s := s₀.findAll 0 0 found
    let pt := s.part p
    let c := pt.comRing m
    c.enabled = true → (c.loc = 0 ∨ s.linked pt.ent.attach = true) →
    (∀ e, c.waiting.find? (fun x => !pt.withholds x) = some e → pt.mirror.hold = false →
      (c.written - c.consumed).toNat < 2 ^ c.log2 →
      let a := c.base + 32 * (c.written.toNat % 2 ^ c.log2)
      let bytes := leBytes 4 e.tag ++
        leBytes 4 (e.status % 256 + e.ring % 256 * 256 + (c.written.toNat / 2 ^ c.log2 + 1) % 2 * 2 ^ 16 +
          (if e.exc then 2 ^ 17 else 0) + (if e.started then 2 ^ 18 else 0)) ++
        leBytes 8 s.tick.count ++ leBytes 4 e.ticks ++ leBytes 4 (e.overruns % 65536) ++ leBytes 8 e.detail
      Does (.completionEntryWrite p ⟨m, found⟩) s₀ fun t =>
        (c.loc = 0 → t.mem = (s.wrBytes a bytes).mem ∧ t.atts = s.atts) ∧
        (c.loc ≠ 0 → t.atts = (s.hostWr pt.ent.attach a bytes).atts ∧ t.mem = s.mem ∧ t.poison = s.poison) ∧
        ((t.part p).comRing m).written = c.written + 1 ∧
        ((t.part p).comRing m).waiting = c.waiting.filter (fun x => !(x.ring == e.ring && x.num == e.num)) ∧
        (e.irq = false → t.out = s.out ∧ (t.part p).pba = pt.pba) ∧
        (e.irq = true →
          let v := tget MsixEntry.dflt pt.msix c.vector
          if v.masked = false ∧ s.linked pt.ent.attach = true then t.out = s.out ++ [.msi p c.vector v.addr v.data]
          else t.out = s.out ∧ c.vector ∈ (t.part p).pba) ∧
        OthersKept p s t ∧ Only [.parts, .mem, .poison, .atts, .out] s t) ∧
    (2 ^ c.log2 ≤ (c.written - c.consumed).toNat ∨ c.waiting.all pt.withholds = true →
      exec (.completionEntryWrite p ⟨m, found⟩) s₀ = .next s)

/-- For a store of n bytes that lie within the assigned interleaved range of trained memory, reading them gives the bytes
stored, every interleaved address outside them reads as before, a sector covered whole loses its poison, and a sector not
touched keeps its poison mark. (R8, R266, R269, R273, R283) -/
def Obligations.StoredBytesReadBackAndNoOthersChange : Prop :=
  ∀ (s : State) (a : Nat) (bs : List Byte), s.memServes = true → a + bs.length ≤ s.assignEnd → s.assignEnd ≤ reserveBase →
    (s.wrBytes a bs).rdBytes a bs.length = bs ∧
    (∀ b, b < reserveEnd → b < a ∨ a + bs.length ≤ b → (s.wrBytes a bs).rd b = s.rd b) ∧
    (∀ l, l % 64 = 0 → a ≤ l → l + 64 ≤ a + bs.length → (s.wrBytes a bs).isPoison l = false) ∧
    (∀ l, l % 64 = 0 → l < reserveEnd → l + 64 ≤ a ∨ a + bs.length ≤ l → (s.wrBytes a bs).isPoison l = s.isPoison l)

/-- A NOP that may start is started and ends OK. A WAIT_GE or WAIT_EQ that may start, in the state that what its read finds
wrong leaves (log entry 40), is started and tests its word: it ends OK where the word AND MASK is at least (equals) VALUE,
ends MEMORY_UNCORRECTABLE with the line address where the word reads poisoned, and else goes on running undecided. None of
them changes memory, another descriptor or another partition. (R164, R171, R182, R533) -/
def Obligations.NopAndWaitsCompleteAtTheirTest : Prop :=
  let one (s : State) (r : DRef) (t : State) (f : Desc) : Prop := t.desc r = some f ∧ Only [.parts] s t ∧ OthersKept r.part s t ∧
    ∀ r' : DRef, r'.part = r.part → r' ≠ r → t.desc r' = s.desc r'
  let run (s : State) (d : Desc) : Desc := { d with started := true, startTick := s.tick.count, phase := .running }
  (∀ (s : State) (r : DRef) (d : Desc), s.desc r = some d → s.mayStart r.part d = true → d.started = false → d.opcode = 0 →
    Does (.nop r) s fun t => one s r t { run s d with status := some stOk, detail := 0, phase := .ended }) ∧
  (∀ (s₀ : State) (r : DRef) (found : List Found) (d : Desc) (mode : Nat),
    let s := s₀.finds r found
    s.desc r = some d → s.mayStart r.part d = true → d.started = false → d.opcode = 1 → fld (d.w32 0x58) 3 0 = mode → mode < 2 →
    let w := s.rdN (d.addr 0x40) 8 &&& d.w64 0x50
    Does (if mode = 0 then .waitGe ⟨r, found⟩ else .waitEq ⟨r, found⟩) s₀ fun t =>
      match s.poisonIn (d.addr 0x40) 8 with
      | some l => one s r t { run s d with status := some stMemory, detail := l, phase := .ended }
      | none =>
        if (mode = 0 ∧ d.w64 0x48 ≤ w) ∨ (mode = 1 ∧ w = d.w64 0x48) then
          one s r t { run s d with status := some stOk, detail := 0, phase := .ended }
        else one s r t (run s d))

/-- In the state that what its reads find wrong leaves (log entry 40), a FLAG SET or ADD that may start, on a word that does
not read poisoned, stores (word AND NOT MASK) OR (VALUE AND MASK), or word + VALUE modulo 2^64, in the 8 bytes at its
address and nowhere else, and ends OK. Where the word is the ownership word of a registered buffer, an ADD, a SET that finds
OWNER 0, and a SET that is not the release (MASK all ones, VALUE the release value) change no byte and end WINDOW_OWNERSHIP.
(R171, R181, R183, R247) -/
def Obligations.SetAndAddChangeOneFlagWord : Prop :=
  ∀ (s₀ : State) (r : DRef) (found : List Found) (d : Desc) (mode : Nat),
    let s := s₀.finds r found
    s.desc r = some d → s.mayStart r.part d = true → d.started = false →
    d.opcode = 1 → fld (d.w32 0x58) 3 0 = mode → mode = 2 ∨ mode = 3 → s.poisonIn (d.addr 0x40) 8 = none →
    let c : Instr := if mode = 2 then .set ⟨r, found⟩ else .add ⟨r, found⟩
    let a := d.addr 0x40
    let w := s.rdN a 8
    let new := if mode = 3 then (w + d.w64 0x48) % 2 ^ 64
      else (w &&& (2 ^ 64 - 1 - d.w64 0x50)) ||| (d.w64 0x48 &&& d.w64 0x50)
    let owned := (s.part r.part).bufs.any fun e => e.2.flag == a
    let release := mode = 2 ∧ bitOf w 63 = true ∧ d.w64 0x50 = 2 ^ 64 - 1 ∧ d.w64 0x48 = (w % 2 ^ 48 + 1) % 2 ^ 48
    (owned = false ∨ release →
      Does c s₀ fun t => t.mem = (s.wrN a 8 new).mem ∧ (∃ x, t.desc r = some x ∧ x.status = some stOk ∧ x.phase = .ended) ∧
        OthersKept r.part s t ∧ Only [.mem, .poison, .parts] s t) ∧
    (owned = true → ¬ release →
      Does c s₀ fun t => (∃ x, t.desc r = some x ∧ x.status = some stOwnership ∧ x.phase = .ended) ∧
        OthersKept r.part s t ∧ Only [.parts] s t)

/-- For a running slice of a COPY whose source and destination lie in the assigned interleaved range of trained memory
without poison, outside every registered buffer, COPY leaves at the destination of the slice's units (1 MiB each, the last
smaller) the bytes the source held, every other interleaved address as it was, and no descriptor decided. The slice is then
carried out. (R170, R207) -/
def Obligations.CopyMovesItsBytes : Prop :=
  ∀ (s : State) (r : DRef) (d : Desc) (sl : Slice), s.desc r = some d → d.slice = some sl → d.opcode = 2 → sl.ran = false →
    s.halted = false → s.memServes = true → s.assignEnd ≤ reserveBase → s.poison = [] →
    let lo := 2 ^ 20 * sl.first
    let n := min (2 ^ 20 * sl.count) (d.w64 0x50 % 2 ^ 40 - lo)
    let src := d.addr 0x40 + lo
    let dst := d.addr 0x48 + lo
    src + n ≤ s.assignEnd → dst + n ≤ s.assignEnd →
    ((s.part r.part).bufs.all fun e => !s.sharesByte dst n e.2.base e.2.len) = true →
    Does (.copy r) s fun t =>
      t.rdBytes dst n = s.rdBytes src n ∧ (∀ b, b < reserveEnd → b < dst ∨ dst + n ≤ b → t.rd b = s.rd b) ∧
      t.poison = s.poison ∧ t.desc r = some { d with slice := some { sl with ran := true } } ∧ OthersKept r.part s t ∧
      Only [.mem, .poison, .parts, .clbuf, .opbuf, .fresh] s t

/-- For a running slice of a STATE_DUMP whose destination lies in the assigned interleaved range without poison and outside
every registered buffer, in the state that what its reads find leaves (log entry 40): the slice's bytes of the destination
are those bytes of the dump's image, which is its sections in order (unstated fields of records and tags free); every other
byte reads as before; accumulators, residency records, cluster buffers, engines' registers and every other partition are
unchanged. Of its own partition only descriptors change: its own slice is carried out, where no uncorrectable word of
on-chip storage was met, and a FLAG wait on a word it wrote may end; every other descriptor stays as it was. Accumulator
tiles have 1,024 words. While an active STATE_DUMP is in flight, no other descriptor of the partition may start; and a
STATE_DUMP may start only while every active descriptor of the partition is a waiting FLAG. (R189, R191) -/
def Obligations.DumpChangesNothingButItsDestination : Prop :=
  (∀ (s₀ : State) (r : DRef) (found : List Found) (d : Desc) (sl : Slice),
    let s := s₀.finds r found
    s.desc r = some d → d.slice = some sl → d.opcode = 3 → sl.ran = false →
    s.halted = false → s.memServes = true → s.assignEnd ≤ reserveBase → s.poison = [] → (∀ e, e ∈ s.acc → e.2.length = 1024) →
    let lo := d.addr 0x40 + 2 ^ 20 * sl.first
    let hi := d.addr 0x40 + 2 ^ 20 * (sl.first + sl.count)
    hi ≤ s.assignEnd → ((s.part r.part).bufs.all fun e => !s.sharesByte lo (hi - lo) e.2.base e.2.len) = true →
    Does (.stateDump ⟨r, found⟩) s₀ fun t =>
      (∃ x y : Nat, let image := (s.dumpPieces r.part d x y).flatMap fun q => q.read s 0 q.len
        let n := min (2 ^ 20 * sl.count) (image.length - 2 ^ 20 * sl.first)
        t.rdBytes lo n = (image.drop (2 ^ 20 * sl.first)).take n ∧ ∀ b, b < reserveEnd → b < lo ∨ lo + n ≤ b → t.rd b = s.rd b) ∧
      t.acc = s.acc ∧ t.accGen = s.accGen ∧ t.res = s.res ∧ t.clbuf = s.clbuf ∧ t.opbuf = s.opbuf ∧ t.vec = s.vec ∧ t.upd = s.upd ∧
      (sl.chip = none → t.poison = s.poison ∧ t.desc r = some { d with slice := some { sl with ran := true } }) ∧
      { t.part r.part with descs := [] } = { s.part r.part with descs := [] } ∧
      (∀ q e, q.part = r.part → q ≠ r → s.desc q = some e → e.isWait = false → t.desc q = some e) ∧
      OthersKept r.part s t ∧ Only [.mem, .poison, .parts, .fresh] s t) ∧
  (∀ (s : State) (p : Nat) (d e : Desc), e ∈ (s.part p).descs → e.opcode = 3 → e.started = true → e.phase ≠ .done →
    s.mayStart p d = false) ∧
  (∀ (s : State) (p : Nat) (d e : Desc), d.opcode = 3 → s.mayStart p d = true → e ∈ (s.part p).descs → e.started = true →
    e.phase ≠ .done → e.opcode = 1)

/-- For COPY, ACC_SAVE, ACC_RESTORE, MATMUL, the three convolutions, the six poolings, BOX_DECODE, OVERLAP_SUPPRESS, VEC,
XC16_ENCODE, XC16_DECODE, the four attention passes, DECODE_STEP, SEQ_RESUME and the three page releases (these in the state
that what their reads find leaves, log entry 40): in a package not halted, where the named descriptor has the row's opcode
(and FUNC or MODE) and a running slice not yet carried out, the command answers the state its units' meaning gives, with the
slice's clusters' buffers used and the slice marked carried out, and then every started wait of the partition has tested its
word; giving it again changes nothing. Where the descriptor has another opcode, FUNC or MODE, no running slice, or one
carried out already, it changes nothing. A slice of one unit, in a partition with no exception ring and no registered
buffer, leaves as memory just what the unit stores: MATMUL its tile's outputs with the last part, the kept tile in its slot,
residency records unchanged till the completion, and on a NaN the hold with TRAP_SEQ and TRAP_RECORD; a convolution its
chains of reductions or its frequency tile; a pooling winners with their places, averages, or gradients; BOX_DECODE its
boxes; OVERLAP_SUPPRESS the kept boxes; the attention passes scores, weights, values and gradients; DECODE_STEP the appended
rows, OUT, and with the last head the status byte and length; SEQ_RESUME the taken and restored pages; PAGE_RELEASE the
pool, the entries and the context. Padding under MIRROR or REPEAT of an empty dimension is free (log entry 6); a MAX window
without a position is set aside. (R164, R207, R209, R212, R78, R80, R97, R105, R366, R364, R333, R342) -/
def Obligations.SliceCommandsCarryOutTheirUnitsOnce : Prop :=
  ∀ (c : Instr) (r : DRef) (found : List Found) (op : Nat) (sel : Desc → Bool) (f : State → Desc → Slice → DRef → State) (s₀ : State)
    (d : Desc), sliceRun c = some (r, found, op, sel, f) →
    let s := s₀.finds r found
    s.desc r = some d →
    (∀ sl, d.slice = some sl → d.opcode = op → sel d = true → sl.ran = false → s.halted = false →
      Does c s₀ fun t =>
        t = (((f s d sl r).touchClusters sl.clusters).updDesc r
          (fun x => { x with slice := some { sl with ran := true } })).testWaits r.part ∧
        (∀ d', t.desc r = some d' → d'.slice = some { sl with ran := true }) ∧ (found = [] → exec c t = .next t)) ∧
    (d.opcode ≠ op ∨ sel d = false ∨ (∀ sl, d.slice = some sl → sl.ran = true) ∨ s.halted = true → exec c s₀ = .next s) ∧
    (∀ u, d.opcode = op → sel d = true → s.OneUnit r d u → Does c s₀ fun t => d.UnitGives s t r u)

/-- For a running slice of one unit past the first (one slot of one core): ACC_SAVE stores the tile's words, each as a
64-bit container, at the unit's offset past the header, stores no other byte, and changes no slot and no residency record;
ACC_RESTORE sets each word of the tile to bits [47:0] of its container and changes no other tile, no residency record and no
byte of memory. Source and destination lie in the assigned interleaved range without poison and outside registered buffers.
(R107, R108, R109) -/
def Obligations.SavedAccumulatorsRestoreExactly : Prop :=
  ∀ (s : State) (r : DRef) (d : Desc) (sl : Slice) (o : TensorDesc), s.desc r = some d → d.slice = some sl → sl.ran = false →
    s.halted = false → s.memServes = true → s.assignEnd ≤ reserveBase → s.poison = [] → d.td (d.w32 0x40) = some o →
    sl.count = 1 → 0 < sl.first →
    let n := (bitsOf 32 (d.w32 0x44)).length
    let a := o.wd 0 + ceilDiv (16 * d.clusters.length * n) 4096 * 4096 + sl.first * 8192
    let cluster := d.clusters.getD (sl.first / (128 * n)) 0
    let core := sl.first / n % 128
    let slot := (bitsOf 32 (d.w32 0x44)).getD (sl.first % n) 0
    0 < n → a + 8192 ≤ s.assignEnd → ((s.part r.part).bufs.all fun e => !s.sharesByte a 8192 e.2.base e.2.len) = true →
    (d.opcode = 4 → (s.accTile cluster core slot).length = 1024 →
      Does (.accSave r) s fun t =>
        t.rdBytes a 8192 = (s.accTile cluster core slot).flatMap (leBytes 8) ∧
        (∀ b, b < reserveEnd → b < a ∨ a + 8192 ≤ b → t.rd b = s.rd b) ∧ t.acc = s.acc ∧ t.accGen = s.accGen ∧ t.res = s.res) ∧
    (d.opcode = 5 →
      Does (.accRestore r) s fun t =>
        t.accTile cluster core slot = (List.range 1024).map (fun e => s.rdN (a + 8 * e) 8 % 2 ^ 48) ∧
        (∀ c k j, k < 128 → j < 32 → core < 128 → slot < 32 → (c, k, j) ≠ (cluster, core, slot) →
          t.accTile c k j = s.accTile c k j) ∧ t.res = s.res ∧ t.mem = s.mem)

/-- For every block of up to 128 BF16 words whose codes fit 368 bits, the 176-byte slot the encoder writes is read back by
the decoder as exactly those words: signs, fractions, exponents, the escape included. The slot always has 176 bytes with
byte 129 zero. (R113, R114, R115, R116, R120) -/
def Obligations.CodedSlotsDecodeToTheSameWords : Prop :=
  ∀ ws : List Nat, 1 ≤ ws.length → ws.length ≤ 128 → (∀ w, w ∈ ws → w < 65536) → xcFits ws = true →
    (xcSlotBytes ws).length = 176 ∧ (xcSlotBytes ws).getD 129 1 = 0 ∧ xcSlot (xcSlotBytes ws) ws.length = some ws

/-- For every strided tensor whose sizes and strides meet the rule for written tensors (each stride of a dimension larger
than 1 at least the span below it), two different elements occupy disjoint byte ranges. (R160, R161) -/
def Obligations.WrittenTensorsMapNoTwoElementsToOneByte : Prop :=
  ∀ (t : TensorDesc) (w : Nat), stridedWidth t.format = some w → t.injective = true →
    ∀ i j, i < t.count → j < t.count → i ≠ j → t.elemAddr i + w ≤ t.elemAddr j ∨ t.elemAddr j + w ≤ t.elemAddr i

/-- From every state in which each register of a tile engine that is listed has 1,024 words and each mask 32 rows, whatever
command a step runs, the next state has the same form; and the state after reset has it. (R124, R126, R130) -/
def Obligations.EveryStepKeepsTileRegistersWhole : Prop :=
  (∀ s t : State, s.tilesWf → step s = .next t → t.tilesWf) ∧ State.reset.tilesWf

/-- For ADD, SUB, MUL, FMA, MAX, MIN, ABS, NEG, DIV, SQRT, RCP, RSQRT, EXP, EXP2, LOG, LOG2, SIN, COS, TANH, SIGMOID and
ERF, on an engine at a tile of a running VEC slice and with fields the program rules accept: the command completes; each
element of register D that mask K marks (in the view and half named) gets the operation's value of the operands' elements at
the same place, exact and rounded once in a floating view, wrapped in an integer view; unmarked elements, every other
register, every mask and every other engine are unchanged. (R124, R128, R135, R136, R137) -/
def Obligations.TileArithmeticWritesRoundedResults : Prop :=
  ∀ (c : Instr) (p : VecAt) (op : Nat) (i : VInst) (val : VCtx → Nat → Nat → Nat),
    tileArith c = some (p, op, i, val) → TileWrites c p op i halfOf val

/-- For MOV, CONST, SEL, AND, OR, XOR, SHL, SHR and SRA under the same conditions: each marked element of register D gets
the moved, chosen, combined or shifted element, the shift count taken modulo the element width; unmarked elements, every
other register, every mask and every other engine are unchanged; no byte of memory, no poison and no other partition
changes. (R124, R128, R135, R136, R137) -/
def Obligations.TileMovesAndLogicWriteTheirElements : Prop :=
  ∀ (c : Instr) (p : VecAt) (op : Nat) (i : VInst) (val : VCtx → Nat → Nat → Nat),
    tileMoves c = some (p, op, i, val) →
    TileWrites c p op i halfOf val ∧ (∀ s t : State, exec c s = .next t →
      t.mem = s.mem ∧ t.poison = s.poison ∧ OthersKept p.ref.part s t)

/-- For TRN, PERM, SHUF and BCST under the same conditions: each marked element (row, column) of register D gets the element
of register A at (column, row); at the row or column register B names modulo 32; at the row or column rotated by the count;
or of the first column or first row; unmarked elements, every other register, every mask and every other engine are
unchanged. (R135, R136, R137) -/
def Obligations.TilePicksMoveWholeElements : Prop :=
  ∀ (c : Instr) (p : VecAt) (op : Nat) (i : VInst) (val : VCtx → Nat → Nat → Nat),
    tilePicks c = some (p, op, i, val) → TileWrites c p op i halfOf val

/-- For RSUM, RMAX, RMIN and RARGMAX on an engine at a tile of a running VEC slice, with fields the program rules accept:
each marked element of column 0 of D (row 0 for MOD 1) gets the value of the tree in which at stage d = 1, 2, 4, 8, 16 lane
j takes op of itself and lane j + d, over the elements of the line that K0 and K both mark and the identity elsewhere;
RARGMAX carries the index of B; the rest of D, every other register, every mask and every other engine are unchanged. (R135,
R147, R148) -/
def Obligations.LaneReductionsFollowTheFixedTree : Prop :=
  ∀ (c : Instr) (p : VecAt) (op : Nat) (i : VInst) (val : VCtx → Nat → Nat → Nat),
    tileReduces c = some (p, op, i, val) → TileWrites c p op i halfOf val

/-- For LD, IOTA, CVT, PACK and RAND under the same conditions: each marked element of D, in the half the row writes, gets
the slot's element at that position of the tile (+0 outside the tensor); the coordinate or element index of the position;
the element converted by RNE, or by SR with the draw of the position's index; the low bits of the I32 code of the position;
the draw keyed by seed, STEP and IMM at the position's index, where K0 marks too. Unmarked elements, every other register,
every mask and every other engine are unchanged. (R138, R140, R141, R149, R61, R63) -/
def Obligations.LoadsConversionsAndDrawsWriteTheirElements : Prop :=
  ∀ (c : Instr) (p : VecAt) (op : Nat) (i : VInst) (h : VInst → Nat) (val : VCtx → Nat → Nat → Nat),
    tileForms c = some (p, op, i, h, val) → TileWrites c p op i h val

/-- For UNPK under the same conditions, with n the registers a packed view stands for: each element of register D + j (j
below n) that K marks gets the code of packed column 32 j + column of A, zero-extended for MOD 0 and sign-extended for MOD
1; unmarked elements, every register outside D to D + n - 1, and every mask are unchanged, and no byte of memory changes.
(R135, R140) -/
def Obligations.UnpackWritesEveryCodeRegister : Prop :=
  ∀ (p : VecAt) (i : VInst) (s : State) (d : Desc) (x : VCtx), s.tilesWf → s.vecCtx p = some (d, x) →
    d.vecAccepts 0x49 i = true →
    let src := fld i.fn 3 0
    let n := viewCols src / 32
    Does (.vecUnpk p i) s fun t =>
      let e := t.vecEngine p
      e.masks = x.masks ∧ (∀ r, r < i.d ∨ i.d + n ≤ r → tlook e.regs r = tlook x.regs r) ∧ t.mem = s.mem ∧
      ∀ j row col, j < n → row < 32 → col < 32 →
        e.at'' 1 (i.d + j) row col =
          let v := (x.elems src i.a).getD (row * viewCols src + (32 * j + col)) 0
          if x.marked i.k 1 j row col then (if i.md = 1 then ofSigned 32 (toSigned (viewBits src) v) else v)
          else x.at' 1 (i.d + j) row col

/-- For CMP and KOP under the same conditions: bit (row, position) of mask D becomes the predicate of A and B at the element
of the view and half there (CMP, at the positions its view and half cover), or the operation of masks A and B (KOP), where
bit (row, position) of K is 1; every other bit of mask D, every other mask, every register and every byte of memory are
unchanged. (R126, R135, R136, R77) -/
def Obligations.MaskRowsWriteMaskDAlone : Prop :=
  ∀ (p : VecAt) (i : VInst) (s : State) (d : Desc) (x : VCtx), s.tilesWf → s.vecCtx p = some (d, x) →
    (d.vecAccepts 0x30 i = true →
      Does (.vecCmp p i) s fun t =>
        let e := t.vecEngine p
        e.regs = x.regs ∧ (∀ k, k ≠ i.d → tlook e.masks k = tlook x.masks k) ∧ t.mem = s.mem ∧
        ∀ row pos, row < 32 → pos < 64 →
          let lo := if isWide i.typ then 32 * halfOf i else 0
          bitOf (((tlook e.masks i.d).getD []).getD row 0) pos =
            if lo ≤ pos ∧ pos < lo + viewCols i.typ ∧ bitOf ((x.mask i.k).getD row 0) pos = true then
              (if isFloatView i.typ then
                cmpF i.md (viewVal i.typ (x.at' i.typ i.a row (pos - lo))) (viewVal i.typ (x.at' i.typ i.b row (pos - lo)))
               else cmpI i.md (toSigned (viewBits i.typ) (x.at' i.typ i.a row (pos - lo)))
                 (toSigned (viewBits i.typ) (x.at' i.typ i.b row (pos - lo))))
            else bitOf ((x.mask i.d).getD row 0) pos) ∧
    (d.vecAccepts 0x32 i = true →
      Does (.vecKop p i) s fun t =>
        let e := t.vecEngine p
        e.regs = x.regs ∧ (∀ k, k ≠ i.d → tlook e.masks k = tlook x.masks k) ∧ t.mem = s.mem ∧
        ∀ row pos, row < 32 → pos < 64 →
          let a := bitOf ((x.mask i.a).getD row 0) pos
          let b := bitOf ((x.mask i.b).getD row 0) pos
          bitOf (((tlook e.masks i.d).getD []).getD row 0) pos =
            if bitOf ((x.mask i.k).getD row 0) pos = true then
              (if i.md = 0 then a && b else if i.md = 1 then a || b else if i.md = 2 then a != b else a && !b)
            else bitOf ((x.mask i.d).getD row 0) pos)

/-- For ST under the same conditions, in a sound state whose partition has no registered buffer: registers and masks are
unchanged; in the I and B views the bytes of memory are those left by storing, in ascending row and then position, each
element that K0 and K both mark at its element of the slot (the low byte to U8, 2 bytes to BF16, 4 to I32), and no others.
NOP leaves registers, masks and memory unchanged. (R142, R143, R136) -/
def Obligations.StoresWriteMarkedPositionsInOrder : Prop :=
  ∀ (p : VecAt) (i : VInst) (s : State) (d : Desc) (x : VCtx), s.sound → s.tilesWf → s.vecCtx p = some (d, x) →
    (s.part p.ref.part).bufs = [] →
    (d.vecAccepts 0x02 i = true →
      Does (.vecSt p i) s fun t =>
        (t.vecEngine p).regs = x.regs ∧ (t.vecEngine p).masks = x.masks ∧
        ∀ o w, x.slot (fld i.fn 2 0) = some o → stridedWidth o.format = some w → i.typ = 1 ∨ i.typ = 2 →
          t.mem = (foldS (fun (u : State) j =>
            let row := j / viewCols i.typ
            let col := j % viewCols i.typ
            if x.marked 0 i.typ (halfOf i) row col && x.marked i.k i.typ (halfOf i) row col then
              u.wrRaw (o.elemAddr (x.slotIndex o row (posOf i.typ (halfOf i) col))) (leBytes w (x.at' i.typ i.a row col))
            else u) s (List.range (32 * viewCols i.typ))).mem) ∧
    (d.vecAccepts 0x00 i = true →
      Does (.vecNop p i) s fun t => (t.vecEngine p).regs = x.regs ∧ (t.vecEngine p).masks = x.masks ∧ t.mem = s.mem)

/-- For MOV, ADD, SUB, MUL, FMA, DIV, SQRT, RSQRT, RCP, MAX, MIN, ABS, NEG, CMP, SEL, EXP2 and LOG2 on a present update
engine that serves a binding, in a package not halted: the command completes; each lane of V register D for which the
operands have a word gets the operation's value of that lane's operand words (registers, scalars, deltas, 1.0), rounded
once; every other V register, the masters and every other engine are unchanged. (R452, R455, R456) -/
def Obligations.UpdateInstructionsWriteTheirLanes : Prop :=
  ∀ (c : Instr) (p : UpdAt) (i : UInst) (ops : Nat) (f : Nat → Nat → Nat → Nat) (s : State) (b : Binding),
    updLane c = some (p, i, ops, f) → (s.part p.part).binding p.bind = some b → s.halted = false →
    s.updPresent p.engine = true →
    let x := s.updCtx p b
    Does c s fun t =>
      (∀ j a b' c', j < 512 → (x.arg i.a)[j]? = some a → (2 ≤ ops → (x.arg i.b)[j]? = some b') →
        (3 ≤ ops → (x.arg i.c)[j]? = some c') → ((t.engine p.engine).lanes i.d)[j]? = some (f a b' c')) ∧
      (∀ k, k ≠ i.d → tlook (t.engine p.engine).v k = tlook (s.engine p.engine).v k) ∧
      (t.engine p.engine).mh = (s.engine p.engine).mh ∧ (t.engine p.engine).mr = (s.engine p.engine).mr ∧
      (∀ u, u ≠ p.engine → t.engine u = s.engine u)

/-- On a present update engine that serves a binding, in a package not halted: MRD writes each lane of D with the lane's
main word of its master (zero past the masters); MADD replaces each master by M + A rounded once to the master's format
(FP32X split in main word and residue, else FP32 by RNE, or by SR with the draw of the element) and changes no V register;
BSUM and BMAX write every lane of a block of 32 with the value of the fixed tree over the block's lanes; NOP leaves
registers and masters as they are. (R452, R456, R457, R147) -/
def Obligations.MasterAndBlockUpdateRows : Prop :=
  ∀ (p : UpdAt) (i : UInst) (s : State) (b : Binding), (s.part p.part).binding p.bind = some b → s.halted = false →
    s.updPresent p.engine = true →
    let x := s.updCtx p b
    let e := s.engine p.engine
    (e.mh.length ≤ 512 → Does (.updMrd p i) s fun t =>
      (∀ j, j < 512 → ((t.engine p.engine).lanes i.d)[j]? = some (e.mh.getD j 0)) ∧
      (t.engine p.engine).mh = e.mh ∧ (t.engine p.engine).mr = e.mr) ∧
    (Does (.updMadd p i) s fun t =>
      (t.engine p.engine).v = e.v ∧
      ∀ j a, (x.arg i.a)[j]? = some a →
        let m := (if b.master.format = fFP32X then ofX (e.mh.getD j 0) (e.mr.getD j 0) else of32 (e.mh.getD j 0)).add (of32 a)
        if b.master.format = fFP32X then
          (t.engine p.engine).mh[j]? = some (encX m).1 ∧ (t.engine p.engine).mr[j]? = some (encX m).2
        else (t.engine p.engine).mh[j]? = some (m.enc fmt32 (x.sr.map fun k => drawU k (x.base + j)))) ∧
    ((x.arg i.a).length = 512 → (Does (.updBsum p i) s fun t => ∀ j, j < 512 →
      ((t.engine p.engine).lanes i.d)[j]? =
        some (laneTree (fun u v => enc32 ((of32 u).add (of32 v))) fun n => (x.arg i.a).getD (j / 32 * 32 + n) 0)) ∧
      Does (.updBmax p i) s fun t => ∀ j, j < 512 →
        ((t.engine p.engine).lanes i.d)[j]? =
          some (enc32 (laneTree Fp.max fun n => of32 ((x.arg i.a).getD (j / 32 * 32 + n) 0)))) ∧
    (Does (.updNop p i) s fun t => (t.engine p.engine).v = e.v ∧ (t.engine p.engine).mh = e.mh ∧ (t.engine p.engine).mr = e.mr)

/-- For an admitted UPDATE_BIND that may start: where neither its number nor its gradient is bound, the command makes the
binding of its record stand under its number, held by the descriptor until it completes, clears VALID and PARTIAL in the
stamp word of the tree, and the descriptor ends OK; a number that is bound ends it BAD_DESCRIPTOR and leaves memory and
bindings as they are, but for who holds the number's. (It ends MEMORY_UNCORRECTABLE where the stamp word reads poisoned.)
UPDATE_UNBIND takes the binding, which ends when it completes, and ends OK, or BAD_DESCRIPTOR where there is none. For a
running REDUCE_SCATTER with UPDATE 1 in a package not halted, UPDATE_CHUNK of the waiting chunk that arrived first at its
engine takes it from the chunks that wait and counts it as done; a poisoned line in what the chunk reads, or an
uncorrectable word of the engine's store, or a broken binding, marks the update failed and leaves the engines as they are.
Else it has written, before what then is due, what the chunk's passes write (the binding's program over its lanes, then
master, states and working copy, and the leaf digests). REGENERATE that may start ends its descriptor with a status, takes
its binding until it completes, and leaves the engines and every other binding as they are; where nothing is poisoned it has
written the whole working copy, its leaves, the tree and the stamp with VALID 1 and PARTIAL 0. (No exception ring and no
registered buffer, for what is written.) Every other partition is unchanged. The last two act in the state that what their
reads find leaves (log entry 40). (R446, R447, R448, R449, R451, R460, R461, R474) -/
def Obligations.BindingsAreMadeUsedAndEnded : Prop :=
  (∀ (s : State) (r : DRef) (d : Desc), s.MayUpdate r d → d.opcode = 0x600 →
    (∀ b, d.unbind = false → d.newBinding = some b →
      ((s.part r.part).binding d.bindId = none → (s.part r.part).gradBinding b.gradId = none →
        Does (.updateBind r) s fun t => t.EndedWith r (if (s.poisonIn b.tree 8).isSome then stMemory else stOk) ∧
          (t.part r.part).binding d.bindId = some { b with holder := some r } ∧
          (∀ n, n ≠ d.bindId → (t.part r.part).binding n = (s.part r.part).binding n) ∧
          t.mem = (s.wrN b.tree 8 (clearBit (clearBit (s.rdN b.tree 8) 32) 33)).mem ∧
          OthersKept r.part s t ∧ Only [.parts, .mem, .poison] s t) ∧
      ((s.part r.part).binding d.bindId ≠ none →
        Does (.updateBind r) s fun t => t.EndedWith r stBadDescriptor ∧ (t.part r.part).binds = ((s.part r.part).takeBinding d.bindId r).binds ∧
          OthersKept r.part s t ∧ Only [.parts] s t)) ∧
    (d.unbind = true → Does (.updateUnbind r) s fun t =>
      t.EndedWith r (if (s.part r.part).binding d.bindId = none then stBadDescriptor else stOk) ∧
      (t.part r.part).binds = ((s.part r.part).takeBinding d.bindId r).binds ∧ OthersKept r.part s t ∧ Only [.parts] s t)) ∧
  (∀ (s₀ : State) (r : DRef) (found : List Found) (d : Desc) (c : Coll) (u : UpdRun) (b : Binding) (k : Nat) (e : ReadyChunk),
    let s := s₀.metBy r found
    s.collOf r = some (d, c) → d.upd = some u → (s.part r.part).binding u.bind = some b → u.ready.find? (fun q => q.chunk == k) = some e →
    s.firstAtEngine e = true → s.halted = false →
    Does (.updateChunk ⟨r, found⟩ k) s₀ fun t => OthersKept r.part s t ∧ ∃ d' u', t.desc r = some d' ∧ d'.upd = some u' ∧
      u'.doneChunks = u.doneChunks ++ [k] ∧ u'.ready = u.ready.filter (fun q => q.chunk != k) ∧
      (let x := c.chunks.getD k (0, 0, 0)
       let a := x.2.1 - shardAt c.elems c.g x.1
       let lost := b.broken.isSome = true ∨ (chipOf found).isSome = true ∨
         (s.poisonCells (b.chunkCells s a x.2.2 !e.words.isEmpty)).isSome = true
       (lost → u'.failed = true ∧ t.upd = s.upd) ∧
       (¬ lost → (s.part r.part).bare → (b.wc.blk = none → b.wc.format = fBF16) →
         u'.failed = u.failed ∧ (t.engine e.engine).chunks = (s.engine e.engine).chunks + (if e.words.isEmpty then 0 else 1) ∧
         ∃ v : State, v.mem = (b.chunkPut u d s a x.2.2 e.words).mem ∧ v.res = s.res ∧
           t = (v.updDesc r fun y => { y with upd := y.upd.map fun (z : UpdRun) =>
             { z with ready := z.ready.filter fun q => q.chunk != k, doneChunks := z.doneChunks ++ [k] } }).collSettle r))) ∧
  (∀ (s₀ : State) (r : DRef) (found : List Found) (d : Desc) (b : Binding),
    let s := s₀.metBy r found
    s.MayUpdate r d → d.opcode = 0x601 →
    (s.part r.part).binding d.bindId = some b → Does (.regenerate ⟨r, found⟩) s₀ fun t =>
      (∃ d', t.desc r = some d' ∧ d'.phase = .ended ∧ d'.status.isSome = true) ∧ t.upd = s.upd ∧
      (t.part r.part).binds = ((s.part r.part).takeBinding d.bindId r).binds ∧ OthersKept r.part s t ∧
      (let n (k : Nat) : Nat := min redLen (b.master.sz 0 - redLen * k)
       let ks := List.range (ceilDiv (b.master.sz 0) redLen)
       (s.part r.part).bare → s.poison = [] → chipOf found = none → d.slice = none → (b.wc.blk = none → b.wc.format = fBF16) →
       (∀ k, k ∈ ks → s.poisonCells (b.chunkCells s (redLen * k) (n k) false) = none) →
       t.mem = (b.treePut (foldS (fun v k => b.chunkPut ⟨d.bindId, [], [], [], [], false⟩ d v (redLen * k) (n k) []) s ks) d.step).mem))

/-- For an update descriptor that may start, of a partition without registered buffers, whose binding stands, in the state
that what its reads find leaves (log entry 40): COMPUTE stores a header and the leaf digests of the planes it names at its
address, and where none of what it reads or writes is poisoned ends OK. COMPARE ends MEMORY_UNCORRECTABLE at a poisoned
image, BAD_DESCRIPTOR where stamps or leaf counts differ, and OK where all roots agree, memory being unchanged in each case;
where a root differs it stores a divergence record that names the first such image and its first differing leaf, and ends
DIVERGENCE with the partition to halt at the boundary, or OK with its entry marked where the policy reports. SAVE writes the
header, each plane padded, and their digest, and ends OK in unpoisoned assigned memory, else OK or MEMORY_UNCORRECTABLE.
LOAD judges the header first: MEMORY_UNCORRECTABLE where its line is poisoned, BAD_DESCRIPTOR where it differs; then the
rest: MEMORY_UNCORRECTABLE where that is poisoned (this order: log entry 41); nothing is written in these cases. At a digest
that does not match it stores a divergence record, writes nothing else and ends DIVERGENCE; else it writes the planes from
the stream with VALID 0 and PARTIAL 0 in the stamp word and, in unpoisoned assigned memory, ends OK. (R470, R471, R472,
R473, R468, R526) -/
def Obligations.ComparesAndLoadsDecideByDigest : Prop :=
  ∀ (s₀ : State) (r : DRef) (found : List Found) (d : Desc) (b : Binding),
    let s := s₀.finds r found
    s.MayUpdate r d → (s.part r.part).binding d.bindId = some b → (s.part r.part).bufs = [] →
    let planes := b.annealPlanes (bitOf (d.w32 0x40) 11)
    let leaves := s.leafDigests planes
    let area := d.addr 0x48
    let len := imageLen (nLeaf planes)
    let n := dataLen planes
    let w (j o n : Nat) : Nat := s.rdN (area + len * j + o) n
    let root (j : Nat) : List Byte := s.rdBytes (area + len * j + 0x10) 16
    let leaf (j k : Nat) : List Byte := s.rdBytes (area + len * j + 64 + 16 * k) 16
    let clean := s.memServes = true ∧ s.assignEnd ≤ reserveBase ∧ s.poison = [] ∧ area + 128 + n ≤ s.assignEnd ∧
      b.tree + 8 ≤ s.assignEnd ∧ ∀ q, q ∈ planes → q.1 + q.2 ≤ s.assignEnd
    (d.opcode = 0x602 → bitOf (d.w32 0x40) 10 = false → Does (.compute ⟨r, found⟩) s₀ fun t =>
      (∃ v p : Bool, t.mem = (s.stores [(area, treeHeader d.step v p leaves.length
        (rootOf leaves (treeLevels 64 leaves)) ++ leaves.flatten)]).mem) ∧ OthersKept r.part s t ∧
      ((∀ q, q ∈ planes → s.poisonIn q.1 q.2 = none) → s.poisonPart area (64 + leaves.flatten.length) = none →
        t.EndedWith r stOk)) ∧
    (d.opcode = 0x602 → bitOf (d.w32 0x40) 10 = true →
      (∀ l, s.poisonIn area (len * d.annealCount) = some l → Does (.compare ⟨r, found⟩) s₀ fun t => t.EndedWith r stMemory ∧ Only [.parts] s t) ∧
      (s.poisonIn area (len * d.annealCount) = none →
        ((∃ j, j < d.annealCount ∧ (w j 0 4 ≠ w 0 0 4 ∨ w j 8 4 ≠ w 0 8 4)) →
          Does (.compare ⟨r, found⟩) s₀ fun t => t.EndedWith r stBadDescriptor ∧ Only [.parts] s t) ∧
        ((∀ j, j < d.annealCount → w j 0 4 = w 0 0 4 ∧ w j 8 4 = w 0 8 4) →
          ((∀ j, j < d.annealCount → root j = root 0) →
            Does (.compare ⟨r, found⟩) s₀ fun t => t.EndedWith r stOk ∧ Only [.parts] s t) ∧
          (∀ j k, j < d.annealCount → root j ≠ root 0 → (∀ i, i < j → root i = root 0) → k < nLeaf planes → leaf j k ≠ leaf 0 k →
            (∀ i, i < k → leaf j i = leaf 0 i) →
            let pol := if (s.part r.part).page.diverge = 1 then 1 else 0
            Does (.compare ⟨r, found⟩) s₀ fun t => OthersKept r.part s t ∧
              t.mem = (s.stores (s.recordPut r.part (d.divergence s 1 pol j k (w j 0 4)) false)).mem ∧
              (pol = 1 → ∃ e, t.desc r = some e ∧ e.phase = .ended ∧ e.status = some stOk ∧ e.exc = true) ∧
              (pol = 0 → (t.part r.part).haltAtBoundary = true ∧ ∃ e, t.desc r = some e ∧ e.phase = .ended ∧
                e.status = some stDivergence ∧ e.detail = d.bindId + k % 2 ^ 32 * 2 ^ 32))))) ∧
    (d.opcode = 0x603 → bitOf (d.w32 0x40) 10 = false → Does (.save ⟨r, found⟩) s₀ fun t =>
      t.mem = (b.savePut s area d.withState).mem ∧ (t.EndedWith r stOk ∨ t.EndedWith r stMemory) ∧ (clean → t.EndedWith r stOk) ∧
      OthersKept r.part s t) ∧
    (d.opcode = 0x603 → bitOf (d.w32 0x40) 10 = true →
      (∀ l, s.poisonIn area 64 = some l → Does (.load ⟨r, found⟩) s₀ fun t => t.EndedWith r stMemory ∧ Only [.parts] s t) ∧
      (s.poisonIn area 64 = none →
        let same := s.rdBytes area 0x20 = (b.streamHeader d.withState (s.rdN (area + 8) 8)).take 0x20
        (¬ same → Does (.load ⟨r, found⟩) s₀ fun t => t.EndedWith r stBadDescriptor ∧ Only [.parts] s t) ∧
        (∀ l, same → s.poisonIn (area + 64) (64 + n) = some l → Does (.load ⟨r, found⟩) s₀ fun t =>
          t.EndedWith r stMemory ∧ Only [.parts] s t) ∧
        (same → s.poisonIn (area + 64) (64 + n) = none →
          let good := shake256 (s.rdBytes area (64 + n)) = s.rdBytes (area + 64 + n) 32
          (¬ good → Does (.load ⟨r, found⟩) s₀ fun t => t.EndedWith r stDivergence ∧ OthersKept r.part s t ∧
            t.mem = (s.stores (s.recordPut r.part
              (d.divergence s 2 (s.part r.part).policy 0 (2 ^ 64 - 1) (s.rdN (area + 8) 4)) false)).mem) ∧
          (good → Does (.load ⟨r, found⟩) s₀ fun t => OthersKept r.part s t ∧ t.mem = (b.loadPut s area d.withState).mem ∧
            (t.EndedWith r stOk ∨ t.EndedWith r stMemory) ∧ (clean → t.EndedWith r stOk)))))

/-- STREAM_OPEN that may start opens its stream with its codec, engine, limits and context and ends OK where the engine
parses its parameter data, the identifier is free and the partition has room; it ends BAD_DESCRIPTOR at unparsed data and
MEMORY_UNCORRECTABLE at poisoned data. STREAM_CLOSE waits for the ring's earlier samples of the stream, then ends OK with
the stream closed. MEDIA_SAMPLE that may start starts. SAMPLE_START of a ready sample that its engine serves makes it decode
there, its stream held by it, or a hole of cause 5 where its stream is not open. SAMPLE_DECODE_END decides a decoding
sample: what its source decodes to, or a hole of the cause and at the offset the decoding gives; poison in what was read
ends the descriptor MEMORY_UNCORRECTABLE. SAMPLE_COMMIT of a decoded sample or hole with nothing ahead of it commits it, and
counts a hole under its cause. Commands whose reads find errors act in the state that what they find leaves (log entry 40).
(R294, R295, R297, R312, R315, R316, R318, R321, R322, R553) -/
def Obligations.MediaStreamsAndSamplesTakeTheirCourse : Prop :=
  ∀ (s₀ : State) (r : DRef) (found : List Found) (d : Desc),
    let s := s₀.finds r found
    s.desc r = some d →
    let pt := s.part r.part
    let hdr := s.rdBytes (d.addr 0x48) (d.w32 0x50)
    (d.opcode = 0x401 → s.mayStart r.part d = true →
      (∀ l, s.poisonIn (d.addr 0x48) (d.w32 0x50) = some l → Does (.streamOpen r found) s₀ fun t => t.EndedWith r stMemory ∧ Only [.parts] s t) ∧
      (s.poisonIn (d.addr 0x48) (d.w32 0x50) = none →
        (Config.streamParses d.streamCodec hdr = false ∨ pt.stream d.streamId ≠ none → Does (.streamOpen r found) s₀ fun t => t.EndedWith r stBadDescriptor ∧ Only [.parts] s t) ∧
        (Config.streamParses d.streamCodec hdr = true → pt.stream d.streamId = none → pt.streams.length < 64 * countBits 64 pt.ent.video →
          Does (.streamOpen r found) s₀ fun t => t.EndedWith r stOk ∧ OthersKept r.part s t ∧
            (t.part r.part).stream d.streamId =
              some ⟨d.streamCodec, d.streamEngine, d.at' 0x44 2, d.at' 0x46 2, d.addr 0x58, d.addr 0x60, none, hdr⟩ ∧
            ∀ n, n ≠ d.streamId → (t.part r.part).stream n = pt.stream n))) ∧
    (d.opcode = 0x402 → s.halted = false → d.status = none → d.active = true ∨ s.mayStart r.part d = true →
      ((∃ e, e ∈ pt.descs ∧ e.ring = r.ring ∧ e.opcode = 0x400 ∧ e.phase ≠ .done ∧ numLe e.num r.num = true ∧
          e.namesStream d.streamId = true) →
        Does (.streamClose r) s fun t => (t.part r.part).streams = pt.streams ∧
          ∃ d', t.desc r = some d' ∧ d'.started = true ∧ d'.status = none) ∧
      ((∀ e, e ∈ pt.descs → e.ring = r.ring → e.opcode = 0x400 → e.num ≠ r.num ∧
          (e.phase = .done ∨ numLe e.num r.num = false ∨ e.namesStream d.streamId = false)) →
        Does (.streamClose r) s fun t => t.EndedWith r stOk ∧ (t.part r.part).stream d.streamId = none ∧
          ∀ n, n ≠ d.streamId → ((t.part r.part).stream n).isSome = (pt.stream n).isSome)) ∧
    (d.opcode = 0x400 → s.mayStart r.part d = true → exec (.mediaSample r) s = .next (s.updDesc r fun x => x.begin' s.tickNo)) ∧
    (∀ i engine, s.halted = false → pt.sampleReady d i = true → s.mediaPresent (mediaClass (d.sKind i)) engine = true →
      pt.engineTakes d i engine = true → pt.engineBusy (mediaClass (d.sKind i)) engine = false →
      pt.betterSample d i engine = false → Does (.sampleStart r i engine) s fun t => ∃ d', t.desc r = some d' ∧
        (if d.sKind i = 1 ∧ pt.stream (d.sStream i) = none then (d'.sample i).state = .hole ∧ (d'.sample i).cause = 5
         else (d'.sample i).state = .decoding ∧ (d'.sample i).engine = engine ∧
          (d.sKind i = 1 → ((t.part r.part).stream (d.sStream i)).bind (·.holder) = some (r, i)))) ∧
    (∀ i, s.halted = false → d.opcode = 0x400 → d.active = true → d.status = none → (d.sample i).state = .decoding →
      let v := s.decodeSample r.part d i
      (∀ l, s.poisonIn (d.sSrc i) (d.sourceRead i v) = some l → Does (.sampleDecodeEnd r i found) s₀ fun t => t.EndedWith r stMemory) ∧
      (s.poisonIn (d.sSrc i) (d.sourceRead i v) = none → Does (.sampleDecodeEnd r i found) s₀ fun t => Only [.parts] s t ∧
        ∃ d', t.desc r = some d' ∧ d'.status = none ∧ match v with
          | .ok x => (d'.sample i).state = .decoded ∧ (d'.sample i).value = some x
          | .error e => (d'.sample i).state = .hole ∧ (d'.sample i).cause = e.1 ∧ (d'.sample i).offset = e.2)) ∧
    (∀ i o, d.td (d.w32 0x68) = some o → s.halted = false → d.opcode = 0x400 → d.active = true → d.status = none →
      (d.sample i).state = .decoded ∨ (d.sample i).state = .hole → pt.mediaAhead d i = 0 →
      Does (.sampleCommit ⟨r, found⟩ i) s₀ fun t => (∃ d', t.desc r = some d' ∧ (d'.sample i).state = .committed) ∧
        t.media = (if (d.sample i).state = .hole then (s.countHole (d.sample i).cause).media else s.media))

/-- An admitted GATHER, REDUCE_SCATTER, ALL_REDUCE, BROADCAST, BARRIER or PERMUTE that may start, in a package not halted,
is started, with the chunks of its schedule to send; a REDUCE_SCATTER with UPDATE 1 holds its binding. CHUNK_SEND begins the
first ready chunk of a running collective that the quota lets begin and counts it for the tick, and does nothing where none
is ready or the quota is spent. PERMUTE_MOVE marks an arrived round as moved, and a chunk of another length than its move's
decides the descriptor. LATE_REPORT counts one late contribution after LATE_TICKS ticks without progress, and nothing more
until there is progress. Commands whose reads find errors act in the state that what they find leaves (log entry 40). (R411,
R415, R416, R435, R437, R448) -/
def Obligations.CollectivesStartSendMoveAndReportLateness : Prop :=
  (∀ (c : Instr) (r : DRef) (found : List Found) (op : Nat) (s₀ : State) (d : Desc) (k : Coll),
    collStart c = some (r, found, op) →
    let s := s₀.finds r found
    s.desc r = some d →
    d.opcode = op → s.mayStart r.part d = true → d.coll = some k →
    (∀ u, d.upd = some u → (s.part r.part).bindFree u.bind = true) → Does c s₀ fun t => OthersKept r.part s t ∧
      (∃ d' k', t.desc r = some d' ∧ d'.started = true ∧ d'.coll = some k' ∧
        k'.sends.map (·.key) = (d.schedule k).map (·.key)) ∧
      ∀ u b, d.upd = some u → (s.part r.part).binding u.bind = some b →
        ((t.part r.part).binding u.bind).bind (·.holder) = some r) ∧
  (∀ (s₀ : State) (r : DRef) (found : List Found) (d : Desc) (c : Coll),
    let s := s₀.finds r found
    s.collOf r = some (d, c) → s.halted = false →
    ((s.quotaOk r.part d = false ∨ s.firstReady r d c = none) → exec (.chunkSend ⟨r, found⟩) s₀ = .next s) ∧
    (∀ x n, s.quotaOk r.part d = true → s.firstReady r d c = some (x, n) → Does (.chunkSend ⟨r, found⟩) s₀ fun t =>
      (t.part r.part).chunksBegun = (s.part r.part).chunksBegun + 1 ∧ OthersKept r.part s t ∧
      ∃ d' c', t.desc r = some d' ∧ d'.coll = some c' ∧ (c'.sends.map (·.begun))[n]? = some true) ∧
    (∀ round m len, (d.moves.find? fun m => m.recv && m.round == round) = some m → tlook c.arrived round = some len →
      c.moved.contains round = false →
      (∀ x y, x ∈ c.sends → x.acked = false → x.step ≤ round → d.moves[x.key]? = some y →
        overlap y.local' y.len m.local' m.len = false) → Does (.permuteMove ⟨r, found⟩ round) s₀ fun t => OthersKept r.part s t ∧
        ∃ d' c', t.desc r = some d' ∧ d'.coll = some c' ∧ c'.moved = c.moved ++ [round] ∧
          (len ≠ m.len → d'.status.isSome = true)) ∧
    (let stalled := s.tickNo - c.progressTick - 1
     (c.lateReported = true ∨ stalled < d.lateTicks → exec (.lateReport r) s = .next s) ∧
     (c.lateReported = false → d.lateTicks ≤ stalled → Does (.lateReport r) s fun t =>
      (t.part r.part).late = (s.part r.part).late + 1 ∧ OthersKept r.part s t ∧
      ∃ d' c', t.desc r = some d' ∧ d'.coll = some c' ∧ c'.lateReported = true ∧ c'.sends = c.sends)))

/-- A channel frame that the MAC drops changes nothing but that MAC's counters and what is sent out; one that it takes acts
in the state that what its reads find leaves (log entry 40). On an OPEN channel bound to its sender and used by no
descriptor: a DATA frame of any kind whose SEQ is the next expected, nothing being held, raises the expected SEQ by one; one
of kind DATA in range, where no buffer is registered, writes its payload at ADDR; one of kind BASES is kept for the
descriptor to come, or, where a descriptor has ended without it, is that one's and dropped (log entry 29); no other kind
writes memory. A DATA payload out of the partition's range is not written and fails the channel. An ACK whose number lies in
the window takes exactly the acknowledged frames off. A new CH_RESET discards the channel's frames and restarts both
directions at SEQ 0; a repeated one changes no channel. CH_RESET_ACK of the reset in progress opens a rebound channel and
closes any other. (R380, R384, R385, R386, R387, R388, R392, R422) -/
def Obligations.ReceivedFramesActOnTheirChannelInSequence : Prop :=
  ∀ (c : Instr) (f : RxFrame) (found : List Found) (typ : Nat) (kind : Option Nat) (s₀ : State),
    channelFrame c = some (f, found, typ, kind) →
    let s := s₀.findAll 2 0 found
    (s₀.macVerdict f ≠ .take → Does c s₀ fun t => Only [.macs, .out] s₀ t ∧ (∀ m, m ≠ f.mac → t.mac m = s₀.mac m) ∧
      (t.mac f.mac).rxOk = (s₀.mac f.mac).rxOk) ∧
    (s₀.macVerdict f = .take → f.typ = typ → (s.chan f.dstCh).user = none →
      let n := f.dstCh
      let ch := s.chan n
      (∀ k, kind = some k → f.kind = k → f.tx.packed = false → ch.takes f.src = true → f.seq = ch.rxNext → ch.held = [] →
        (s.dataInRange f.dstPart f.tx = true → Does c s₀ fun t => OthersKept f.dstPart s t ∧
          (t.chan n).rxNext = (ch.rxNext + 1) % 2 ^ 32 ∧ (t.chan n).held = [] ∧
          (t.chan n).bases = (if k = 2 ∧ ch.stale = 0 then ch.bases ++ [basesOf f.payload] else ch.bases) ∧
          (t.chan n).stale = (if k = 2 then ch.stale - 1 else ch.stale) ∧
          (k ≠ 0 → t.mem = s.mem) ∧
          (k = 0 → (s.part f.dstPart).bufs = [] → t.mem = (s.wrBytes f.addr f.payload).mem)) ∧
        (s.dataInRange f.dstPart f.tx = false → Does c s₀ fun t => (t.chan n).st = .failed ∧ (t.chan n).rxNext = ch.rxNext)) ∧
      (typ = 1 → ch.takes f.src = true → ch.waiting = [] →
        (let first := (ch.unacked.head?.map (·.seq)).getD ch.txNext
         seqSub f.ackNo first ≤ seqSub ch.txNext first) → Does c s₀ fun t => t.mem = s.mem ∧ t.parts = s.parts ∧
          (t.chan n).unacked.map (·.seq) = (ch.unacked.map (·.seq)).filter (fun q =>
            decide (seqSub q f.ackNo < 2 ^ 31) && !(sackedSeqs f.ackNo f.sackNo).contains q)) ∧
      (typ = 4 → Does c s₀ fun t => t.mem = s.mem ∧ t.parts = s.parts ∧
        (ch.answered.contains (f.src, f.seq) = true → t.chans = s.chans) ∧
        (ch.answered.contains (f.src, f.seq) = false → (t.chan n).txNext = 0 ∧ (t.chan n).rxNext = 0 ∧
          (t.chan n).unacked = [] ∧ (t.chan n).waiting = [] ∧ (t.chan n).held = [])) ∧
      (typ = 5 → ∀ q, ch.resetting = some q → q.to' = f.src → ch.resetNo = f.seq → ch.waiting = [] → Does c s₀ fun t =>
        t.mem = s.mem ∧ t.parts = s.parts ∧
        t.chan n = { ch with resetting := none, peer := q.rebind, st := if q.rebind.isSome then .open' else .closed }))

/-- In a package not halted: ACK_TIMER of an OPEN channel with something to acknowledge leaves nothing due, where a MAC
carries transport, and does nothing on any other. RTO_EXPIRY of an unacknowledged frame of an OPEN channel doubles RTO up to
2 ms, counts the expiry of that frame and keeps it unacknowledged. CHANNEL_FAIL_TIMEOUT of an OPEN channel with
unacknowledged frames makes it FAILED and keeps its numbers. CH_RESET_RETRY changes no channel. CH_RESET_TIMEOUT closes the
channel and binds it to no peer. A MAC_LINK_CHANGE of a MAC of an enabled port after START and step 3, the pads of PD03 not
held, sets the MAC's state, and otherwise does nothing. A PFC frame that is obeyed is counted, and pauses or releases
exactly its priorities. A PAUSE frame does nothing. (R376, R388, R389, R391, R392, R394, R399, R502) -/
def Obligations.ChannelTimersAndLinksKeepTheirRules : Prop :=
  ∀ (s : State), s.halted = false →
    (∀ n, ((s.chan n).ackDue = 0 ∨ (s.chan n).st ≠ .open' → exec (.ackTimer n) s = .next s) ∧
      (∀ p, (s.chan n).ackDue ≠ 0 → (s.chan n).peer = some p → (s.chan n).st = .open' → s.usableMacs ≠ [] → Does (.ackTimer n) s fun t =>
        t.chan n = { s.chan n with ackDue := 0 } ∧ (∀ k, k ≠ n → t.chan k = s.chan k) ∧ Only [.macs, .chans, .fresh, .out] s t)) ∧
    (∀ n seq p u, (s.chan n).peer = some p → (s.chan n).unacked.find? (fun u => u.seq == seq) = some u → (s.chan n).st = .open' →
      (s.chan n).resetting = none → Does (.rtoExpiry n seq) s fun t => (t.chan n).rto = min (2 * (s.chan n).rto) 2000000 ∧
        (t.chan n).unacked = (s.chan n).unacked.map (fun v => if v.seq = seq then { v with resent := true, expiries := v.expiries + 1 } else v) ∧
        (t.chan n).txNext = (s.chan n).txNext ∧ (∀ k, k ≠ n → t.chan k = s.chan k) ∧ Only [.macs, .chans, .fresh, .out] s t) ∧
    (∀ n, (s.chan n).st = .open' → (s.chan n).unacked ≠ [] → Does (.channelFailTimeout n) s fun t =>
      t.chan n = { s.chan n with st := .failed } ∧ (∀ k, k ≠ n → t.chan k = s.chan k)) ∧
    (∀ n, Does (.chResetRetry n) s fun t => t.chans = s.chans ∧ t.parts = s.parts ∧ t.mem = s.mem) ∧
    (∀ n q, (s.chan n).resetting = some q → Does (.chResetTimeout n) s fun t =>
      t.chan n = { s.chan n with st := .closed, peer := none, resetting := none } ∧ ∀ k, k ≠ n → t.chan k = s.chan k) ∧
    (∀ m up, (m ∈ s.enabledMacs → s.fab.started = true → 3 ≤ s.fab.step → bitOf s.pwr.padHeld 3 = false →
        (up = true → s.pins.ref156 = true) →
        Does (.macLinkChange m up) s fun t => (t.mac m).up = up ∧ ∀ k, k ≠ m → (t.mac k).up = (s.mac k).up) ∧
      (m ∉ s.enabledMacs ∨ s.fab.step < 3 ∨ bitOf s.pwr.padHeld 3 = true → exec (.macLinkChange m up) s = .next s)) ∧
    (∀ m prio stop, (s.fab.pfcEn = true → s.transportOn = true → (s.mac m).up = true → Does (.pfcFrame m prio stop) s fun t =>
        (t.mac m).pfcReceived = (s.mac m).pfcReceived + 1 ∧
        (∀ k, k ∈ (t.mac m).paused ↔ if stop = true then k ∈ prio ∨ k ∈ (s.mac m).paused else k ∉ prio ∧ k ∈ (s.mac m).paused) ∧
        (∀ k, k ≠ m → t.mac k = s.mac k) ∧ Only [.macs, .out] s t) ∧
      (s.fab.pfcEn = false → exec (.pfcFrame m prio stop) s = .next s)) ∧
    (∀ m, exec (.pause m) s = .next s)

/-- START takes the split modes into use, once, and only in RUN with management firmware running. FABRIC_LINK_TIMEOUT goes
past step 4 with an enabled MAC up and stops without one; before step 3 is complete it is remembered (log entry 34). A HELLO
of another package joins its MAC; HELLO_WAIT_EXPIRY isolates a MAC that heard none; HELLO_TIMER changes neither channels nor
start-up. A census record of another package puts it into the reachability table of trained memory; one with the own address
and another nonce sets CONFLICT and stops transport. CENSUS_RESEND takes the record from the queue, CENSUS_PERIODIC keeps
the own package in the table. CENSUS_QUIET and CENSUS_LIMIT complete a running census, without and with INCOMPLETE, at step
6, or 7 where the tick is LOCKED. BIND at time t, in the state that what its reads find leaves (log entry 40), shows the
result of its checks and binds the partition to the job exactly where the result is success; UNBIND leaves the partition
without a job. (Its result code is free, log entry 6.) Neither acts where management firmware does not set up the block.
(R401, R402, R403, R404, R405, R406, R407) -/
def Obligations.FabricStartUpCensusAndBinding : Prop :=
  ∀ (s : State),
    (s.fab.started = true ∨ s.setsUp = false → exec .start s = .next s) ∧
    (s.fab.started = false → s.setsUp = true → Does .start s fun t =>
      t.fab.started = true ∧ t.fab.splitUse = s.fab.split ∧ t.fab.split = s.fab.split) ∧
    (s.fab.started = true → s.fab.step = 3 → s.fab.stopped = false → s.halted = false → Does .fabricLinkTimeout s fun t =>
      if (s.enabledMacs.any fun m => (s.mac m).up) = true then 4 ≤ t.fab.step ∧ t.fab.stopped = false
      else t.fab = { s.fab with linkLate := true, stopped := true }) ∧
    (s.fab.started = true → s.fab.step < 3 → s.fab.stopped = false → s.halted = false → Does .fabricLinkTimeout s fun t =>
      t.fab = { s.fab with linkLate := true } ∧ Only [.fab] s t) ∧
    (∀ f, s.macVerdict f = .take → f.typ = 2 → f.srcPkg ≠ s.fab.pkg → Does (.hello f) s fun t =>
      (t.mac f.mac).heard = true ∧ (t.mac f.mac).isolated = false ∧ t.chans = s.chans ∧ t.parts = s.parts) ∧
    (Does .helloTimer s fun t => t.fab = s.fab ∧ t.chans = s.chans ∧ t.mem = s.mem) ∧
    (∀ m, s.transportOn = true → (s.mac m).up = true → (s.mac m).heard = false → 4 ≤ s.fab.step → Does (.helloWaitExpiry m) s fun t =>
      (t.mac m).isolated = true ∧ (t.mac m).heard = false ∧ t.chans = s.chans) ∧
    (∀ f t, s.macVerdict f = .take → f.typ = 3 → f.payload.length = 8 → s.fab.conflict = false →
      Does (.census f t) s fun u => u.now = max s.now t ∧ u.chans = s.chans ∧
        (let pkg := leNat (f.payload.take 2)
         (∀ n, s.fab.nonce = some n → pkg = s.fab.pkg → n ≠ leNat (sliceList f.payload 4 4) → u.fab.conflict = true ∧ u.transportOn = false) ∧
         (pkg = s.fab.pkg → s.fab.nonce = some (leNat (sliceList f.payload 4 4)) → u.fab = s.fab ∧ u.mem = s.mem) ∧
         (pkg ≠ s.fab.pkg → s.memServes = true → bitOf (u.reach pkg) 0 = true))) ∧
    (∀ pkg, s.transportOn = true → (s.fab.queue.any fun q => q.pkg == pkg) = true → Does (.censusResend pkg) s fun t =>
      t.fab = { s.fab with queue := s.fab.queue.filter fun q => q.pkg != pkg } ∧ t.mem = s.mem) ∧
    (s.transportOn = true → s.fab.censusDone = true → Does .censusPeriodic s fun t => t.fab = s.fab ∧
      (s.memServes = true → s.fab.pkg < 65536 → bitOf (t.reach s.fab.pkg) 0 = true)) ∧
    (s.censusRuns = true →
      (s.fab.expect = 0 ∨ s.present = s.fab.expect → Does .censusQuiet s fun t => Only [.fab] s t ∧ t.fab =
        { s.fab with censusDone := true, incomplete := false, step := if s.tick.lock = .locked then 7 else 6 }) ∧
      (s.fab.expect ≠ 0 → s.present ≠ s.fab.expect → Does .censusLimit s fun t => Only [.fab] s t ∧ t.fab =
        { s.fab with censusDone := true, incomplete := true, step := if s.tick.lock = .locked then 7 else 6 })) ∧
    (∀ v found t, s.setsUp = false → exec (.bind ⟨v, found⟩ t) s = .next s ∧ exec (.unbind v) s = .next s) ∧
    (∀ (v : W64) found t, s.halted = false → s.setsUp = true →
      let p := fld v.toNat 46 44
      let w := s.findAll 0 0 found
      let j := w.readJob (v.toNat % 2 ^ 44)
      Does (.bind ⟨v, found⟩ t) s fun u => u.now = max s.now t ∧ u.fab.bindRes = (w.advance t).bindCheck p (v.toNat % 2 ^ 44) ∧
        (∀ q, q ≠ p → (u.part q).job = (w.part q).job) ∧
        (if u.fab.bindRes = 1 then
          ∃ b, (u.part p).job = some ⟨v.toNat % 2 ^ 44, j.id, j.ranks, j.table, j.epoch, j.period, b⟩
         else (u.part p).job = (w.part p).job ∧ u.tick = s.tick)) ∧
    (∀ (v : W64), s.setsUp = true → Does (.unbind v) s fun u => (u.part (fld v.toNat 46 44)).job = none ∧ OthersKept (fld v.toNat 46 44) s u ∧
      Only [.fab, .parts, .fresh] s u)

/-- While the time protocol runs: a PTP frame that its MAC does not take, or of another domain, is only counted at its MAC,
and so is an ignored message; of the others a one-step Sync on the SLAVE port, or the Follow_Up of a two-step one, counts
offsets below 100 ns in a row; 64 lock the tick, and an offset above 1 µs puts a LOCKED tick into HOLDOVER. A two-step Sync
waits for its Follow_Up. A Sync on another port changes nothing else. An Announce of the package itself is only counted; any
other on a usable port leaves the package with the decision of the data sets heard: a SLAVE port's data set is its own and
no worse than the package's. The receipt timeout forgets what its port heard, and a LOCKED tick falls to HOLDOVER where the
SLAVE port timed out and none follows. A grandmaster's Sync and Announce intervals advance their sequence numbers, the Sync
counting as offset 0; a Delay_Req goes out on the SLAVE port and its Delay_Resp sets the path delay; a grandmaster answers a
Delay_Req, with a frame whose bytes follow IEEE 1588 (log entry 50). (R30, R32, R396, R397, R398) -/
def Obligations.TimeMessagesMeasureLockAndElect : Prop :=
  ∀ (s : State), s.ptpOn = true →
    (∀ c f, ptpRow c = some f → s.ptpVerdict f ≠ .take ∨ f.domain ≠ s.fab.domain →
      exec c s = .next (s.countVerdict f.mac (s.ptpVerdict f))) ∧
    (∀ f, s.ptpVerdict f = .take → f.domain = s.fab.domain →
      let m := f.mac
      let k := s.countVerdict m .take
      (∀ t o gm seq, s.ptp.slave = some m →
        (exec (.sync f t o gm true seq) s = .next { k with ptp := { s.ptp with twoStep := tput s.ptp.twoStep m seq } }) ∧
        (Does (.sync f t o gm false seq) s fun u => u.ptp.good = goodAfter s.ptp.good o ∧
          u.tick.lock = lockAfter s.tick.lock (goodAfter s.ptp.good o) o ∧ u.ptp.slave = s.ptp.slave ∧ u.chans = s.chans ∧ u.mem = s.mem) ∧
        (tlook s.ptp.twoStep m = some seq → Does (.followUp f t o gm seq) s fun u => u.ptp.good = goodAfter s.ptp.good o ∧
          u.tick.lock = lockAfter s.tick.lock (goodAfter s.ptp.good o) o ∧ tlook u.ptp.twoStep m = none ∧ u.chans = s.chans ∧
          u.mem = s.mem)) ∧
      (∀ t o gm two seq, s.ptp.slave ≠ some m → exec (.sync f t o gm two seq) s = .next k ∧ exec (.followUp f t o gm seq) s = .next k) ∧
      (∀ a, a.identity = s.clockIdentity ∨ a.sender = s.clockIdentity → exec (.announce f a) s = .next k) ∧
      (∀ a, m ∈ s.usableMacs → a.identity ≠ s.clockIdentity → a.sender ≠ s.clockIdentity → Does (.announce f a) s fun t => Only [.ptp, .rec', .macs] s t ∧ (tlook t.ptp.best m).isSome = true ∧
        (∀ j, j ≠ m → tlook t.ptp.best j = tlook s.ptp.best j) ∧ t.ptp.grandmaster.isSome = true ∧
        (∀ j, t.ptp.slave = some j → ∃ g, (j, g) ∈ t.ptp.best ∧ j ∈ s.usableMacs ∧ t.ptp.grandmaster = some g ∧
          betterSet s.ownSet g = false ∧ (s.fab.clockClass = 0 ∨ 128 ≤ s.fab.clockClass))) ∧
      (∀ who seq rx, (s.isMaster = true → m ∈ s.usableMacs → (s.mac m).paused.contains s.fab.ptpPcp = false →
          exec (.delayReq f who seq rx) s = .next (k.emit (.frame m (k.etherFrame m s.fab.ptpPcp ptpEtype ptpAddr
            (s.ptpHeader m ptpDelayResp 54 seq (logInterval s.fab.logSync) ++ (ptpTime rx ++ beBytes 10 who)))))) ∧
        (s.isMaster = false → exec (.delayReq f who seq rx) s = .next k)) ∧
      (∀ seq delay, s.ptp.slave = some m → s.ptp.delayReq = some seq → exec (.delayResp f seq delay) s =
        .next { k with ptp := { s.ptp with delay := delay, delayReq := none } }) ∧
      (∀ typ, exec (.ptpIgnoredMessage f typ) s = .next k)) ∧
    (∀ m, Does (.announceReceiptTimeout m) s fun t => tlook t.ptp.best m = none ∧ Only [.tick, .ptp, .rec'] s t ∧
      t.tick = (if s.ptp.slave = some m ∧ t.ptp.slave = none ∧ s.tick.lock = .locked then { s.tick with lock := .holdover } else s.tick)) ∧
    (s.isMaster = true → (Does .syncInterval s fun t => t.ptp.syncSeq = (s.ptp.syncSeq + 1) % 65536 ∧
          t.ptp.good = s.ptp.good + 1 ∧ t.tick.lock = lockAfter s.tick.lock (s.ptp.good + 1) 0) ∧
        (Does .announceInterval s fun t => t.ptp = { s.ptp with announceSeq := (s.ptp.announceSeq + 1) % 65536 } ∧
          Only [.ptp, .macs, .out] s t)) ∧
    (s.isMaster = false → exec .syncInterval s = .next s ∧ exec .announceInterval s = .next s) ∧
    (∀ m, s.ptp.slave = some m → (Does .delayReqInterval s fun t => Only [.ptp, .macs, .out] s t ∧
        t.ptp = { s.ptp with delayReq := some s.ptp.delaySeq, delaySeq := (s.ptp.delaySeq + 1) % 65536 }))

/-- A tick period lies between 50 µs and 50,000 µs in steps of 1 µs: where this holds of the period in effect, of an
accepted stage, of a pending RESYNC and of the retention image, it holds after every step. After reset, and after a cold or
warm reset, the period is 1,000 µs, and the reset state obeys the rule. (R24) -/
def Obligations.TickPeriodsStayBetween50And50000Microseconds : Prop :=
  let legal (p : Nat) : Prop := 50 ≤ p ∧ p ≤ 50000
  (∀ s t : State, s.periodsAre legal → step s = .next t → t.periodsAre legal) ∧
  State.reset.tick.period = 1000 ∧ State.reset.periodsAre legal ∧
  ∀ s : State, (Does .coldResetN s fun t => t.tick.period = 1000) ∧ Does .warmResetN s fun t => t.tick.period = 1000

/-- In a package not halted whose tick runs, TICK_BOUNDARY, whatever its rails and what reading the sentry tables finds
wrong, opens the next tick at the end of the present one, freezes the ended tick's snapshot (that the next tick opens before
the snapshot freezes is the model's reading, log entry 26), sets the clock within 800 to 1,800 MHz and lets every
partition's quota count anew. SNAPSHOT_PUBLISH shows each ready partition its frozen snapshot. TICK_STAGE_AT and TICK_EPOCH
do nothing where no firmware runs or the domains are not powered (log entry 19); else TICK_STAGE_AT accepts a legal period
for a tick after the next, and else sets STAGE_REJECT and leaves the stage. TICK_EPOCH at t is refused while a job is bound,
and else sets the epoch and a boundary aligned to it, at least 50 µs and less than 50 µs and a period after t; that the next
tick's period lays out the new epoch's whole grid is the model's choice (log entry 51). WAIT_CYCLE_REPORT counts at most one
cycle, which set counts as one being the model's choice (log entry 57), and changes no descriptor. LANE_REPAIR_END puts
every lane of the channel that was moving on a spare of its own. SWAP_COMPLETE, once no running slice holds units of the
sequence, ends the swap in the state that what its reads find wrong leaves (log entry 40) and keeps which pages the sequence
had. (R23, R27, R31, R33, R36, R210, R225, R285, R372, R441, R493) -/
def Obligations.TheTickAdvancesAndItsCommandsTakeEffect : Prop :=
  ∀ (s : State), s.halted = false →
    (∀ x, s.tick.running = true → Does (.tickBoundary x) s fun t =>
      t.tick.count = s.nextNum ∧ t.tick.start = s.nextBoundary ∧ t.now = max s.now s.nextBoundary ∧ t.tick.pendingResync = none ∧
      t.tick.frozen = some s.tick.count ∧ 800 ≤ t.pwr.fMhz ∧ t.pwr.fMhz ≤ 1800 ∧
      ∀ p, (t.part p).chunksBegun = 0 ∧ (t.part p).use.quota = (s.part p).page.collQuota) ∧
    (∀ n, s.tick.frozen = some n → Does .snapshotPublish s fun t => t.tick.frozen = none ∧
      ∀ p, (s.part p).ent.ready = true → (t.part p).mirror.snapshot = (s.part p).mirror.frozenSnap) ∧
    (s.setsUp = false → ∀ v t, exec (.tickStageAt v) s = .next s ∧ exec (.tickEpoch v t) s = .next s) ∧
    (∀ (v : W64), s.setsUp = true → exec (.tickStageAt v) s = .next (
      if 50 ≤ s.tick.stagePeriod ∧ s.tick.stagePeriod ≤ 50000 ∧ s.nextNum + 1 ≤ v.toNat then
        { s with tick := { s.tick with stageAt := v.toNat, stage := some (s.tick.stagePeriod, v.toNat) } }
      else { s with tick := { s.tick with stageAt := v.toNat, stageReject := true } })) ∧
    (∀ (v : W64) t, s.setsUp = true → 0 < s.nextPeriod → Does (.tickEpoch v t) s fun u => u.now = max s.now t ∧ u.tick.period = s.tick.period ∧
      (if s.jobBound = true then u.tick = { s.tick with epochReject := true }
       else u.tick.epoch = v.toNat ∧ ∃ r, u.tick.pendingResync = some r ∧ r.epoch = v.toNat ∧
        r.at' = v.toNat + r.num * (s.nextPeriod * 1000) ∧ u.now + 50000 ≤ r.at' ∧
        (r.num = 0 ∨ r.at' < u.now + 50000 + s.nextPeriod * 1000))) ∧
    (∀ p, Does (.waitCycleReport p) s fun t => (t.part p).descs = (s.part p).descs ∧ OthersKept p s t ∧
      ((t.part p).mirror.waitCycles = (s.part p).mirror.waitCycles ∨
        (t.part p).mirror.waitCycles = (s.part p).mirror.waitCycles + 1)) ∧
    (∀ st ch, let moving := s.memc.repairing.filter fun e => e.2 == st * 32 + ch
      moving ≠ [] → Does (.laneRepairEnd st ch) s fun t => Only [.memc] s t ∧
      (∀ e, e ∈ moving → tlook t.memc.repairing e.1 = none ∧ tlook t.memc.lanes e.1 = none) ∧
      tget 0 t.memc.spares (st * 32 + ch) = tget 0 s.memc.spares (st * 32 + ch) + moving.length ∧
      bitOf (t.stack st).spared ch = true) ∧
    (∀ p seq found w, let s₀ := s.findAll 0 0 found
      (s₀.part p).swaps.find? (fun w => w.seq == seq) = some w →
      w.running = [] →
      Does (.swapComplete p ⟨seq, found⟩) s fun t => (t.part p).swaps = (s₀.part p).swaps.filter (fun x => !(x == w)) ∧
        tlook (t.part p).swapped seq = some (s₀.validEntries (s₀.seqCtx (s₀.part p) seq)))

/-- In a package not halted: a read over a link that is down and a write that reaches no line change nothing; a read over a
link that is up that reaches no line is answered with poison. A clean read of a line of the committed window answers the
line's 64 bytes and its poison; of a guarded line in a device-owned buffer it answers poison, and a write there is discarded
and counted. With GUARD 0 a write stores its line as one unit. A committed decoder is kept; MODE is taken and nothing else,
where firmware runs and the domains are powered; a vector's table word is taken, and a pending vector that is not masked is
sent once. A buffer commit takes effect whole, with STATE 2, or not at all, with STATE 3 and a cause from 1 to 8.
PART_EXC_BASE is rejected with cause 1 while a ring is enabled. The drowse request keeps to the partition's clusters.
PART_FWU_CMD.START shows STATE busy at once; where firmware runs, that of another partition then fails with code 1, and the
right one copies the image to staging. A register write by firmware reaches its register only as one aligned 64-bit write;
any other, and one by a driver, is rejected with cause 3 at a page's writable register; an aligned write of the DBG block
refuses while debug is enabled, which is the model's choice (log entry 39), as are the order of the causes (23), the
update's busy state while no firmware runs (20) and that what a read finds wrong acts first (40). (R234, R236, R241, R243,
R244, R252, R253, R260, R526, R540, R547, R549) -/
def Obligations.HostsReachTheWindowTheirPagesAndTheRegisters : Prop :=
  ∀ (s : State) (h : Port), s.halted = false →
    (∀ addr ecc, (s.att h.att).up = false → exec (.cxlMemRead h addr ecc) s = .next s) ∧
    (∀ addr ecc, (s.att h.att).up = true → s.hostLine h addr = none → Does (.cxlMemRead h addr ecc) s fun t =>
      Only [.fresh, .out] s t ∧ ∃ l, l.length = 64 ∧ t.out = s.out ++ [.line h l true]) ∧
    (∀ addr line, s.hostLine h addr = none → exec (.cxlMemWrite h addr line) s = .next s) ∧
    (∀ addr p a, (s.att h.att).up = true → s.hostLine h addr = some (p, a) →
      (s.guardedBy p a = none →
        exec (.cxlMemRead h addr .clean) s = .next (s.emit (.line h (s.rdBytes a 64) (s.isPoison a)))) ∧
      (∀ k, s.guardedBy p a = some k →
        (∀ ecc, exec (.cxlMemRead h addr ecc) s = .next (s.emit (.line h (List.replicate 64 0) true))) ∧
        ∀ line, exec (.cxlMemWrite h addr line) s = .next (s.hostDrop p k)) ∧
      ((s.part p).ent.guard = false → ∀ line,
        exec (.cxlMemWrite h addr line) s = .next ((s.wrBytes a (padTo 64 line)).testWaits p))) ∧
    (∀ p mode, (s.setsUp = false → exec (.modeWrite p mode) s = .next s) ∧ (s.setsUp = true → Does (.modeWrite p mode) s fun t =>
      t.part p = { s.part p with ent := { (s.part p).ent with mode := mode } } ∧ OthersKept p s t ∧ Only [.parts] s t)) ∧
    (∀ p, s.portPart h = some p →
      (∀ base, Does (.hdmDecoderCommit h base) s fun t => t.part p = { s.part p with hdm := some base.toNat } ∧
        OthersKept p s t ∧ Only [.parts] s t) ∧
      (∀ vec word (value : W32), Does (.msixTableWrite h vec word value) s fun t =>
        let e := (tget MsixEntry.dflt (s.part p).msix vec).put word value.toNat
        tget MsixEntry.dflt (t.part p).msix vec = e ∧ OthersKept p s t ∧ Only [.parts, .out] s t ∧
        (∀ v, v ≠ vec → tget MsixEntry.dflt (t.part p).msix v = tget MsixEntry.dflt (s.part p).msix v) ∧
        (if (s.part p).pba.contains vec = true ∧ e.masked = false ∧ s.linked (s.part p).ent.attach = true then
          t.out = s.out ++ [.msi p vec e.addr e.data] ∧ (t.part p).pba.contains vec = false
        else t.out = s.out ∧ (t.part p).pba = (s.part p).pba)) ∧
      (∀ (v : W64) found, let s₀ := s.findAll 0 0 found
        let k := v.toNat % 4096
        let n := fld v.toNat 24 12
        let es := (List.range n).map fun i => s₀.bufEntry (s₀.part p) (k + i)
        let after := foldS (fun (l : List (Nat × RegBuf)) (e : BufEntry) =>
          if e.valid then tput l e.k e.buf else tdel l e.k) (s₀.part p).bufs es
        Does (.partBufCommit h ⟨v, found⟩) s fun t => OthersKept p s₀ t ∧ Only [.parts] s₀ t ∧
          (if n = 0 ∨ 4096 < n ∨ 4096 < k + n then t.part p = (s₀.part p).rejectPage 0x30 4
           else if ∀ e, e ∈ es → s₀.bufCause (s₀.part p) after e = 0 then
             (t.part p).bufs = after ∧ (t.part p).page.bufState = 2
           else (t.part p).bufs = (s₀.part p).bufs ∧ (t.part p).page.bufState = 3 ∧
             1 ≤ (t.part p).page.bufCause ∧ (t.part p).page.bufCause ≤ 8)) ∧
      (∀ (v : W64) found, let s₀ := s.findAll 0 0 found
        let a := v.toNat % 2 ^ 44
        Does (.partExcBase h ⟨v, found⟩) s fun t => OthersKept p s₀ t ∧ Only [.parts, .mem, .poison] s₀ t ∧
          ((s₀.part p).quiet = false → t.part p = (s₀.part p).rejectPage 0x18 1 ∧ t.mem = s₀.mem) ∧
          (s₀.excCause (s₀.part p) a = 0 → (t.part p).page.excBase = a ∧ (t.part p).excCount = 0 ∧
            (a ≠ 0 → (t.part p).excLog2 = s₀.rdN (a + 0x10) 8 % 32 ∧ t.mem = ((s₀.wrN a 8 0).wrN (a + 0x18) 8 0).mem))) ∧
      (∀ hi (v : W64), Does (.partDrowse h hi v) s fun t => OthersKept p s t ∧ Only [.parts] s t ∧
        ∀ i, bitOf (t.part p).page.drowse i = (bitOf (s.part p).ent.clusters i &&
          (if hi = true then (if i < 64 then bitOf (s.part p).page.drowse i else decide (i < 80) && bitOf v.toNat (i - 64))
           else if i < 64 then bitOf v.toNat i else bitOf (s.part p).page.drowse i))) ∧
      (∀ (v : W64) found, let s₀ := s.findAll 0 0 found
        let g := (s₀.part p).page
        (g.fwuState = 1 → exec (.partFwuCmd h ⟨v, found⟩) s = .next (s₀.updPart p fun q => q.rejectPage 0xB0 1)) ∧
        (g.fwuState ≠ 1 → bitOf v.toNat 0 = false → exec (.partFwuCmd h ⟨v, found⟩) s = .next s₀) ∧
        (g.fwuState ≠ 1 → bitOf v.toNat 0 = true → Does (.partFwuCmd h ⟨v, found⟩) s fun t => OthersKept p s₀ t ∧
          (s.firmware = false → (t.part p).page = { g with fwuState := 1, fwuCode := 0 } ∧ Only [.parts] s₀ t) ∧
          (s.firmware = true → s₀.mgmt.updatePart ≠ p → t.mem = s₀.mem ∧ t.mgmt = s₀.mgmt ∧
            (t.part p).page = { g with fwuState := 3, fwuCode := 1 }) ∧
          (s.firmware = true → s₀.mgmt.updatePart = p → s₀.mgmt.fwu = none → s₀.fwuBuffer (s₀.part p) = true →
            let img := s₀.rdBytes g.fwuAddr g.fwuLen
            (t.part p).page = { g with fwuState := 1, fwuCode := 0 } ∧ t.mem = (s₀.wrBytes stagingBase img).mem ∧
            t.mgmt.fwu = some ⟨true, some p, img.length, img, (s₀.poisonIn g.fwuAddr g.fwuLen).isSome, g.fwuAddr⟩))) ∧
      (∀ off size (v : W64) found, let s₀ := s.findAll 0 0 found
        off < 0x1000 → pageWritable (off / 8 * 8) = true → size ≠ 8 ∨ off % 8 ≠ 0 →
        exec (.registerWrite (.page h) off size ⟨v, found⟩) s = .next (s₀.updPart p fun q => q.rejectPage off 3)) ∧
      ∀ (v : W64), Does (.registerWrite (.page h) 0x088 8 ⟨v, []⟩) s fun t => OthersKept p s t ∧ Only [.parts] s t ∧
        (t.part p).page = { (s.part p).page with collQuota := v.toNat % 2 ^ 32 }) ∧
    (∀ addr size v, s.firmware = false → exec (.registerWrite .mgmt addr size v) s = .next s) ∧
    (s.firmware = true → ∀ found, let s₀ := s.findAll 0 0 found
      (∀ addr size v, size ≠ 8 ∨ addr % 8 ≠ 0 → (addr - regBase) / 2 ^ 20 ≠ 2 →
        exec (.registerWrite .mgmt addr size ⟨v, found⟩) s = .next s₀) ∧
      (∀ p off size v, s.powered = true → p < 8 → off < 0x1000 → pageWritable (off / 8 * 8) = true → size ≠ 8 ∨ off % 8 ≠ 0 →
        exec (.registerWrite .mgmt (regBase + 0x201000 + p * 0x1000 + off) size ⟨v, found⟩) s =
          .next (s₀.updPart p fun q => q.rejectPage off 3)) ∧
      (∀ n (v : W64), n < 62 → Does (.registerWrite .mgmt (regBase + 0x10 + 8 * n) 8 ⟨v, found⟩) s fun t =>
        tget 0 t.scratch n = v.toNat ∧ (∀ m, m ≠ n → tget 0 t.scratch m = tget 0 s₀.scratch m) ∧ Only [.scratch] s₀ t) ∧
      ∀ addr v, s.powered = true → s.mgmt.dbgEn = true → regBase + 0xD00000 ≤ addr → addr < regBase + 0xE00000 → addr % 8 = 0 →
        exec (.registerWrite .mgmt addr 8 ⟨v, found⟩) s = .refused .debugBlock)

/-- In a package not halted: PARTITION_CREATE and PARTITION_DESTROY do nothing where no firmware runs or the domains are not
powered (log entry 19). PARTITION_CREATE of an entry that fails a check clears VALID and reports the check's number, from 1
to 7; else VALID stands and creation begins; no entry without clusters and none that shares a cluster, a byte of memory, an
engine or a channel with a held partition passes. PARTITION_READY empties the partition's memory, accumulators, operand
buffers and records, and sets READY where creation reported no error; other memory and other partitions are unchanged.
PARTITION_DESTROY of an entry that is not valid changes nothing; of an idle partition it withdraws it at once, and its
expiry in any case. A Function Level Reset takes an idle partition's rings and masks its vectors at once, and its expiry in
any case. A link reset acts where a partition is bound to the attachment, PERST_N as the link reset of its port in RUN and
not at all outside it or while PD02's pads are held, when no link moves either. A link that goes down is noted and changes
no partition; one that comes up leaves the partitions of other attachments. (R103, R231, R236, R237, R238, R239, R262, R263,
R407, R554, R562, R576) -/
def Obligations.PartitionsAreCreatedEndedAndReset : Prop :=
  ∀ (s : State), s.halted = false →
    (s.setsUp = false → ∀ p, exec (.partitionCreate p) s = .next s ∧ exec (.partitionDestroy p) s = .next s) ∧
    (∀ p, s.setsUp = true → (s.part p).held = false →
      let e := s.createError p (s.part p).ent
      e ≤ 7 ∧ ((s.part p).ent.clusters = 0 → e ≠ 0) ∧
      (∀ q, q ∈ s.parts → q.1 ≠ p → q.2.held = true → q.2.ent.clash (s.part p).ent = true → e ≠ 0) ∧
      Does (.partitionCreate p) s fun t => OthersKept p s t ∧
        (if e = 0 then t.part p = { s.part p with ent := { (s.part p).ent with valid := true, error := 0 }, life := .creating } ∧
            t.media = s.media.powerUp (s.part p).ent ∧ Only [.parts, .media] s t
         else t.part p = { s.part p with ent := { (s.part p).ent with valid := false, error := e } } ∧ Only [.parts] s t)) ∧
    (∀ p, (s.part p).life = .creating → s.mayPresent (s.part p).ent.attach = true → Does (.partitionReady p) s fun t =>
      let e := (s.part p).ent
      t.part p = { Part.dflt with ent := { e with ready := e.error == 0 }, life := .ready } ∧ OthersKept p s t ∧
      (∀ a, tget 0 t.mem a = if e.hbmBase ≤ a ∧ a < e.hbmBase + e.hbmSize then 0 else tget 0 s.mem a) ∧
      (∀ x, x ∈ t.opbuf → (s.part p).clusterList.contains x.1 = false) ∧
      (∀ x, x ∈ t.acc → (s.part p).clusterList.contains (x.1 / (32 * coresPerCluster)) = false) ∧
      ∀ x, x ∈ t.res → (s.part p).clusterList.contains (x.1 / 32) = false) ∧
    (∀ p, (s.part p).ent.valid = false → exec (.partitionDestroy p) s = .next s) ∧
    (∀ p, s.setsUp = true → (s.part p).ent.valid = true → (s.part p).descs = [] → (∀ x, x ∈ (s.part p).cq → x.2.waiting = []) →
      (s.part p).mirror.hold = false → (s.part p).ent.chCount = 0 → Does (.partitionDestroy p) s fun t => OthersKept p s t ∧
        t.part p = { Part.dflt with
          ent := { (s.part p).ent with valid := false, ready := false, error := 0 }
          page := (s.part p).page
          excLog2 := (s.part p).excLog2
          excVector := (s.part p).excVector }) ∧
    (∀ p, (s.part p).life = .destroying → Does (.partitionDestroyExpiry p) s fun t =>
      let x := t.part p
      x.ent.valid = false ∧ x.ent.ready = false ∧ x.life = .absent ∧ x.descs = [] ∧ x.sq = [] ∧ x.cq = [] ∧ x.job = none ∧
      x.hdm = none ∧ x.binds = [] ∧ x.streams = []) ∧
    (∀ h p, s.portPart h = some p →
      ((s.part p).life ≠ .ready → exec (.functionLevelReset h) s = .next s) ∧
      ((s.part p).life = .ready → (s.part p).descs = [] → (∀ x, x ∈ (s.part p).cq → x.2.waiting = []) →
        (s.part p).mirror.hold = false → Does (.functionLevelReset h) s fun t => OthersKept p s t ∧ Only [.parts, .vec] s t ∧
          t.part p = { s.part p with
            flrWait := false
            nextGroup := (s.part p).nextGroup + 1
            lent := []
            seqWaits := []
            swaps := []
            sq := []
            cq := []
            msix := (s.part p).msix.map fun e => (e.1, { e.2 with masked := true })
            mirror := Mirror.dflt
            reported := []
            job := none }) ∧
      (∀ att x, (s.parts.filter fun e => e.2.ent.attach == att && e.2.life == .ready) = [(p, x)] →
        exec (.linkReset att) s = exec (.functionLevelReset h) s)) ∧
    (∀ p, (s.part p).flrWait = true → Does (.flrWaitExpiry p) s fun t =>
      let x := t.part p
      x.flrWait = false ∧ x.life = .ready ∧ x.descs = [] ∧ x.sq = [] ∧ x.cq = [] ∧ x.job = none ∧ x.mirror = Mirror.dflt ∧
      ∀ e, e ∈ x.msix → e.2.masked = true) ∧
    (∀ p, (s.part p).flrWait = false → exec (.flrWaitExpiry p) s = .next s) ∧
    (∀ att, (∀ e, e ∈ s.parts → e.2.ent.attach ≠ att) → exec (.linkReset att) s = .next s) ∧
    (∀ q, exec (.perstN q) s = if s.pwr.state = 0 ∧ s.padsHeld 2 = false then exec (.linkReset (2 + q)) s else .next s) ∧
    (s.padsHeld 2 = true → ∀ att up cxl mld, exec (.attachmentLinkChange att up cxl mld) s = .next s) ∧
    (∀ att cxl mld, (s.powered = false → exec (.attachmentLinkChange att true cxl mld) s = .next s) ∧
      (s.padsHeld 2 = false → Does (.attachmentLinkChange att false cxl mld) s fun t => Only [.atts, .rec'] s t ∧
        t.att att = { s.att att with up := false } ∧ ∀ b, b ≠ att → t.att b = s.att b) ∧
      (s.powered = true → s.padsHeld 2 = false → Does (.attachmentLinkChange att true cxl mld) s fun t => Only [.atts, .rec', .parts, .out] s t ∧
        (t.att att).up = true ∧ (t.att att).cxl = (cxl || decide (att < 2)) ∧ (∀ b, b ≠ att → t.att b = s.att b) ∧
        ∀ p, (∀ e, e ∈ s.parts → e.1 = p → e.2.ent.attach ≠ att) → t.part p = s.part p))

/-- TRAIN by running firmware starts training once, in RUN and not in a halted package, with the requests of the retire
record in place. TRAINING_COMPLETE keeps exactly the channels that neither a request nor a fault retires, empties memory
(but for the firmware components in the reserve, once they are loaded), records each retired channel, and is TRAINED from 11
channels on and FAILED below. A patrol scrub does nothing where the engine is off or the sector clean; it counts a corrected
symbol on its stack and lane, marking the lane at the eighth of the tick; beside an erased lane of the pseudo-channel the
symbol is uncorrectable and still counts on its lane, which is the model's reading, and an undetected error stays in the
sector, the model's choice (both log entry 40); an uncorrectable sector is poisoned and counted once. A stack sample is
kept, raises the refresh code, and above 105 °C stops the stack, all access to memory and the package, a halted one too; a
diode sample is kept, and one at TJ_CRIT stops a running package and asserts THERMTRIP; the monitors from 0x200 on are only
kept. Nothing samples outside RUN. A die link that fails stops the package and freezes the recorder, one that retrains is
counted up to 255, and training sets which links are trained and degraded and ends start-up step 2 where all four trained. A
halted package ignores retraining and training; a link that fails there is marked and the package stays stopped. (R276,
R277, R278, R279, R281, R282, R284, R285, R286, R288, R500, R542) -/
def Obligations.MemoryTrainsScrubsAndItsSensorsProtect : Prop :=
  ∀ (s : State),
    (exec .train s = .next (if s.memc.started = true ∨ s.halted = true ∨ s.setsUp = false ∨ s.mgmt.boot ≠ .running then s
      else { s.placeRetire with memc := { s.placeRetire.memc with started := true, training := true } })) ∧
    (∀ faults, s.memc.training = false → exec (.trainingComplete faults) s = .next s) ∧
    (∀ faults, s.memc.training = true → Does (.trainingComplete faults) s fun t =>
      t.memc.healthy = allChannels.filter (fun c => !s.retires faults c.1 c.2) ∧ t.poison = [] ∧
      (s.mgmt.loadPending = true ∨ s.mgmt.flash = [] → t.mem = []) ∧ (∀ a, a < componentBase → tget 0 t.mem a = 0) ∧
      t.memc.training = false ∧ t.memc.trained = decide (11 ≤ t.memc.healthy.length) ∧ t.memc.failed = !t.memc.trained ∧
      (∀ f, f ∈ faults → (2 < f.dataLanes ∨ 1 < f.caLanes ∨ f.other = true) → (f.stack, f.ch) ∉ t.memc.healthy) ∧
      (∀ st ch, bitOf (tget 0 s.memc.retireReq st) ch = true → (st, ch) ∉ t.memc.healthy) ∧
      (s.rec'.frozen = false → t.rec'.nextSeq = s.rec'.nextSeq + BitVec.ofNat 32 (640 - t.memc.healthy.length)) ∧
      Only [.rec', .memc, .mem, .poison, .fab] s t) ∧
    (∀ a, exec (.patrolScrub a .clean) s = .next s) ∧
    (∀ a ecc, (s.halted = true ∨ s.memc.trained = false ∨ s.memc.scrubEn = false) → exec (.patrolScrub a ecc) s = .next s) ∧
    (s.halted = false → s.powered = true → s.memc.trained = true → s.memc.scrubEn = true →
      ∀ a q st ch pc, s.place a = some q → s.sectorHome a = some (st, ch, pc) →
        (∀ lane, let k := laneKey st ch pc lane
          s.otherErased k = false → Does (.patrolScrub a (.corrected lane)) s fun t => Only [.memc, .rec'] s t ∧
            (t.stack st).corrected = (s.stack st).corrected + 1 ∧ (t.lane k).count = (s.lane k).count + 1 ∧
            (7 ≤ (s.lane k).count → (t.lane k).suspect = true) ∧
            ((s.lane k).count < 7 → t.rec' = s.rec' ∧ (t.lane k).suspect = (s.lane k).suspect)) ∧
        (∀ lane, let k := laneKey st ch pc lane
          s.otherErased k = true → s.isPoison a = false → s.ownerOf q = none → q < reserveBase →
            Does (.patrolScrub a (.corrected lane)) s fun t => Only [.memc, .poison, .rec'] s t ∧ t.isPoison a = true ∧
              (t.stack st).uncorrectable = (s.stack st).uncorrectable + 1 ∧ (t.stack st).corrected = (s.stack st).corrected ∧
              (t.lane k).count = (s.lane k).count + 1) ∧
        (∀ b, exec (.patrolScrub a (.undetected b)) s = .next (s.wrRaw (a / 64 * 64) (b.take 64))) ∧
        (s.isPoison a = true → exec (.patrolScrub a .uncorrectable) s = .next s) ∧
        (s.isPoison a = false → Does (.patrolScrub a .uncorrectable) s fun t =>
          (t.stack st).uncorrectable = (s.stack st).uncorrectable + 1 ∧
          (s.ownerOf q = none → q < reserveBase → t.isPoison a = true ∧ Only [.memc, .poison] s t))) ∧
    (∀ st temp, (s.pwr.state ≠ 0 → exec (.stackTempSample st temp) s = .next s) ∧
      (s.pwr.state = 0 → Does (.stackTempSample st temp) s fun t =>
        (t.stack st).temp = temp ∧ tget 0 t.pwr.sensors (0x100 + st) = temp ∧ (∀ x, x ≠ st → t.stack x = s.stack x) ∧
        (if 105 < temp ∧ (s.stack st).down = false then
          t.halted = true ∧ t.pins.thermtrip = true ∧ (t.stack st).down = true ∧ (t.stack st).refresh = 3 ∧ t.memServes = false ∧
          (s.halted = false → t.tick.running = false)
        else Only [.memc, .pwr] s t ∧ (t.stack st).down = (s.stack st).down ∧
          (t.stack st).refresh = if (s.stack st).down = true then 3 else max (s.stack st).refresh (min 2 (refreshCode temp))))) ∧
    (∀ diode temp4, (s.pwr.state ≠ 0 → exec (.dieSensorSample diode temp4) s = .next s) ∧
      (s.pwr.state = 0 → Does (.dieSensorSample diode temp4) s fun t =>
        tget 0 t.pwr.sensors diode = temp4 ∧ (∀ x, x ≠ diode → tget 0 t.pwr.sensors x = tget 0 s.pwr.sensors x) ∧
        (if diode < 0x200 ∧ 4 * s.pwr.tjCrit ≤ temp4 ∧
            (s.halted = false ∨ tget 0 s.pwr.sensors diode < 4 * s.pwr.tjCrit) then
          t.halted = true ∧ t.pins.thermtrip = true ∧ (s.halted = false → t.tick.running = false)
        else Only [.pwr] s t))) ∧
    (s.halted = true → ∀ l dg a b, exec (.dieLinkRetrain l dg) s = .next s ∧
      exec (.dieLinkTrainingComplete a b) s = .next s) ∧
    (s.pwr.state ≠ 0 → ∀ l, exec (.dieLinkFailure l) s = .next s) ∧
    (s.pwr.state = 0 → ∀ l, Does (.dieLinkFailure l) s fun t => t.halted = true ∧ (s.halted = false → t.tick.running = false) ∧
        (t.dieLink l).trained = false ∧
        t.rec'.frozen = true ∧ (s.rec'.frozen = false → t.rec'.freezeSeq = s.rec'.nextSeq) ∧
        ∀ x, x ≠ l → t.dieLink x = s.dieLink x) ∧
    (s.halted = false →
      (∀ l dg, Does (.dieLinkRetrain l dg) s fun t => Only [.links, .rec'] s t ∧
        t.dieLink l = ⟨true, dg, min 255 ((s.dieLink l).retrains + 1)⟩ ∧ ∀ x, x ≠ l → t.dieLink x = s.dieLink x) ∧
      ∀ (a b : List Nat), Does (.dieLinkTrainingComplete a b) s fun t => Only [.links, .fab] s t ∧
        (∀ x, t.dieLink x = if x < 4 then ⟨a.contains x, a.contains x && b.contains x, (s.dieLink x).retrains⟩ else s.dieLink x) ∧
        (s.fab.step = 2 → t.fab = if (List.range 4).all a.contains = true then
          { s.fab with step := 3, stopped := s.fab.stopped || s.fab.linkLate } else s.fab) ∧
        (s.fab.step ≠ 1 → s.fab.step ≠ 2 → t.fab = s.fab))

/-- GO by firmware sets TARGET; without its GO bit or while an entry or exit is in progress it does nothing more. A refused
request reports a code from 1 to 5, a bound job being refused with 1, and the state stays. An accepted request in RUN writes
an image of the registers, takes every attachment's link down and begins the entry; outside RUN it restores an image that
passes its CRC-64, and STATE reads RUN; one that does not pass is discarded with a cold reset. The end of an entry in a
package not halted writes a record, shows the new state and stops PD00's clocks unless a wake source was latched; DORMANT
keeps memory, poison and accumulators, OFF loses them and the map; whether the image's CRC stays good is free. In a halted
package compute is powered down as in OFF and STATE keeps its value. An exit ends once the rails are good, with a record:
the tick runs and every valid partition is ready, or, where REFCLK100 is absent, the domains are held in reset. A wake
source that matches is latched during an entry and otherwise, outside RUN, restarts PD00 and notes its bit; one that does
not match changes nothing. RELEASE clears exactly the written pad holds. That GO while busy stores TARGET only, that code 1
goes before the others, that an address match is latched in an entry, that the thermal bit is noted while PD00 is awake and
that an exit without REFCLK100 is held are the model's readings (log entry 18). (R482, R483, R485, R486, R487, R488, R489,
R490, R491, R495, R517) -/
def Obligations.PackageStatesAreEnteredAndLeft : Prop :=
  ∀ (s : State),
    (∀ v, s.firmware = false → exec (.go v) s = .next s ∧ exec (.release v) s = .next s) ∧
    (∀ (v : W64), s.firmware = true →
      let x := v.toNat % 4
      (bitOf v.toNat 2 = false ∨ s.pwr.busy = true → exec (.go v) s = .next { s with pwr := { s.pwr with target := x } }) ∧
      (bitOf v.toNat 2 = true → s.pwr.busy = false →
        s.goRefuse x ≤ 5 ∧ (s.jobBound = true → s.goRefuse x = 1) ∧
        (s.goRefuse x ≠ 0 → exec (.go v) s = .next { s with pwr := { s.pwr with target := x, refuse := s.goRefuse x } }) ∧
        (s.goRefuse x = 0 → s.pwr.state = 0 → Does (.go v) s fun t =>
          t.pwr.busy = true ∧ t.pwr.entering = some x ∧ t.pwr.target = x ∧ t.pwr.refuse = 0 ∧ t.mem = s.mem ∧ t.parts = s.parts ∧
          (∀ a, a < 4 → (t.att a).up = false) ∧ ∃ i, t.image = some i ∧ i.target = x ∧ i.crcOk = true ∧ i.scratch = s.scratch ∧
            i.period = s.tick.period ∧ i.meas = s.mgmt.meas ∧ i.spares = s.memc.spares) ∧
        (s.goRefuse x = 0 → s.pwr.state ≠ 0 → (∀ i, s.image = some i → i.crcOk = false) → Does (.go v) s fun t =>
          t.pwr.state = 0 ∧ t.mem = [] ∧ t.parts = [] ∧ t.image = none ∧ t.memc.trained = false) ∧
        (s.goRefuse x = 0 → s.pwr.state ≠ 0 → ∀ i, s.image = some i → i.crcOk = true → Does (.go v) s fun t =>
          t.pwr.busy = true ∧ t.pwr.exiting = true ∧ t.pwr.state = 0 ∧ t.image = none ∧ t.scratch = i.scratch ∧
          t.tick.period = i.period ∧ t.media = i.media ∧ t.fab = i.fab ∧ t.mem = s.mem ∧
          t.mgmt.meas = if i.target = 1 then i.meas else List.replicate 8 (List.replicate 64 0))) ∧
      Does (.release v) s fun t => Only [.pwr] s t ∧
        ∀ i, bitOf t.pwr.padHeld i = (bitOf s.pwr.padHeld i && !bitOf v.toNat i)) ∧
    (s.pwr.entering = none → exec .packageStateEntered s = .next s) ∧
    (∀ x, s.pwr.entering = some x → s.halted = false → Does .packageStateEntered s fun t =>
      t.pwr.state = x ∧ t.pwr.busy = false ∧ t.pwr.entering = none ∧ t.pwr.clocksStopped = decide (s.pwr.wakeLatched = 0) ∧
      t.pwr.wakeCause = s.pwr.wakeCause ||| s.pwr.wakeLatched ∧ t.pwr.wakeLatched = 0 ∧ t.tick.running = false ∧ t.macs = [] ∧
      t.chans = [] ∧ (∃ x, x < 2 ∧ t.image = s.image.map fun i => { i with crc := i.crc ^^^ x }) ∧ t.scratch = s.scratch ∧
      (s.rec'.frozen = false → t.rec'.nextSeq = s.rec'.nextSeq + 1) ∧
      (if x = 1 then t.mem = s.mem ∧ t.poison = s.poison ∧ t.acc = s.acc ∧ t.opbuf = s.opbuf ∧ t.res = s.res ∧ t.memc.healthy = s.memc.healthy
       else t.mem = [] ∧ t.poison = [] ∧ t.acc = [] ∧ t.res = [] ∧ t.memc.trained = false)) ∧
    (∀ x, s.pwr.entering = some x → s.halted = true → Does .packageStateEntered s fun t =>
      t.halted = true ∧ t.pwr.state = s.pwr.state ∧ t.pwr.busy = false ∧ t.pwr.entering = none ∧ t.tick.running = false ∧ t.mem = [] ∧
      t.acc = [] ∧ t.res = [] ∧ t.memc.trained = false ∧ t.memc.started = s.memc.started ∧ t.scratch = s.scratch ∧ t.rec' = s.rec') ∧
    (s.pwr.exiting = false ∨ s.pins.mainPwrgd = false → exec .packageStateExitComplete s = .next s) ∧
    (s.pwr.exiting = true → s.pins.mainPwrgd = true → s.pins.ref100 = false → s.pwr.state = 0 → s.pins.heldInReset = false →
      Does .packageStateExitComplete s fun t => t.pins = { s.pins with heldInReset := true } ∧ t.pwr.exiting = false ∧
        t.tick.running = false ∧ t.parts = [] ∧ t.mem = []) ∧
    (s.pwr.exiting = true → s.pins.mainPwrgd = true → s.pins.ref100 = true → Does .packageStateExitComplete s fun t =>
      t.pwr.busy = false ∧ t.pwr.exiting = false ∧ t.tick.running = true ∧ t.tick.period = s.tick.period ∧ t.fab.step = 3 ∧
      Only [.tick, .fab, .parts, .pwr, .rec'] s t ∧ (s.rec'.frozen = false → t.rec'.nextSeq = s.rec'.nextSeq + 1) ∧
      ∀ p, t.part p = if (s.part p).ent.valid = true then
        { s.part p with ent := { (s.part p).ent with ready := true }, life := .ready } else s.part p) ∧
    (∀ c ∈ [(1, Instr.wakeAddressMatch s.pwr.wakeAddr, s.pwr.clocksStopped || s.pwr.entering.isSome),
        (2, Instr.thermalAlert s.pwr.tjWake, s.pwr.thermEn)],
      (c.2.2 = false → exec c.2.1 s = .next s) ∧
      (c.2.2 = true → s.pwr.entering.isSome = true →
        exec c.2.1 s = .next { s with pwr := { s.pwr with wakeLatched := s.pwr.wakeLatched ||| c.1 } }) ∧
      (c.2.2 = true → s.pwr.entering = none → s.pwr.state ≠ 0 → exec c.2.1 s = .next { s with pwr := { s.pwr with
        wakeCause := s.pwr.wakeCause ||| c.1
        clocksStopped := false } })) ∧
    (∀ a, a ≠ s.pwr.wakeAddr → (s.pwr.i3cEn = false ∨ s.mgmt.dynAddr ≠ some a) → exec (.wakeAddressMatch a) s = .next s) ∧
    ∀ a, a < s.pwr.tjWake → exec (.thermalAlert a) s = .next s

/-- A cold reset, by pin or by firmware, empties memory, partitions, channels and scratch, ends a halt, clears THERMTRIP and
starts the boot ROM; recorded events, fuses, the other pins and, in a sound state, the memory of hosts stay. A warm reset
empties partitions and channels too, but keeps memory, poison, scratch, measurements, the debug lock, the watchdog's
EXPIRIES, recorder, fabric nonce and a halt; no lane repair is left in progress. Either leaves domains held whose supplies
or clock a reset out of DORMANT, OFF or an exit does not find as RUN needs them. AON_RESET_N low does what a cold reset does
and holds the boot ROM and the tick, its rise starts them; the loss of the always-on rail empties the recorder as well. In
RUN and no exit, the loss of MAIN_PWRGD or of REFCLK100 holds the other domains in reset, their state lost and device time,
recorder and scratch kept, and a running management stage waits; else it changes the pin alone. The return of both frees the
domains. The loss of REFCLK156 takes every MAC down, its return and REFCLK25 change their pin alone. COLD and WARM do
nothing while no firmware runs. Which domains stay held, what each reset joins and what it keeps (the unfreeze count,
scratch, device time, flash, host memory, EXPIRIES) are the model's readings (log entries 17 and 19). (R280, R504, R517,
R521, R536, R541, R542, R562, R569, R570, R571, R572) -/
def Obligations.ResetsAndSuppliesKeepWhatTheyMust : Prop :=
  ∀ (s : State),
    (s.firmware = false → exec .cold s = .next s ∧ exec .warm s = .next s) ∧
    (s.firmware = true → exec .cold s = exec .coldResetN s ∧ exec .warm s = exec .warmResetN s) ∧
    (∀ c ∈ [Instr.coldResetN, .aonResetN false, .alwaysOnRailLoss], Does c s fun t =>
      t.mem = [] ∧ t.poison = [] ∧ t.parts = [] ∧ t.chans = [] ∧ t.macs = [] ∧ t.scratch = [] ∧ t.acc = [] ∧ t.res = [] ∧
      t.halted = false ∧ t.memc.trained = false ∧ t.image = none ∧
      t.tick = { TickSt.reset with running := c == .coldResetN && !s.staysHeld && !s.pins.aonReset } ∧ t.pins.heldInReset = s.staysHeld ∧ t.fuse = s.fuse ∧ t.out = s.out ∧
      t.pending = s.pending ∧ t.pins.thermtrip = false ∧ t.pins.mainPwrgd = s.pins.mainPwrgd ∧
      t.mgmt.flash = s.mgmt.flash ∧ t.mgmt.meas = List.replicate 8 (List.replicate 64 0) ∧
      t.mgmt.boot = (if c = Instr.coldResetN ∧ s.mgmt.boot ≠ .held then .booting else .held) ∧
      (if c = Instr.alwaysOnRailLoss then t.rec' = Recorder.reset else t.rec' = { s.rec' with unfreezes := 0 }) ∧
      ∀ a, (t.att a).up = false ∧ (hostWf s = true → (t.att a).mem = (s.att a).mem)) ∧
    (Does .warmResetN s fun t =>
      t.mem = s.mem ∧ t.poison = s.poison ∧ t.scratch = s.scratch ∧ t.mgmt.meas = s.mgmt.meas ∧ t.mgmt.dbgLocked = s.mgmt.dbgLocked ∧
      t.rec' = s.rec' ∧ t.fab.nonce = s.fab.nonce ∧ t.halted = s.halted ∧ t.memc.repairing = [] ∧
      t.pins = { s.pins with heldInReset := s.staysHeld } ∧ t.mgmt.expiries = s.mgmt.expiries ∧ t.memc.healthy = s.memc.healthy ∧
      t.memc.trained = s.memc.trained ∧ t.parts = [] ∧ t.chans = [] ∧ t.macs = [] ∧ t.tick = { TickSt.reset with running := !s.staysHeld && !s.pins.aonReset && !s.halted } ∧
      t.mgmt.dbgEn = false ∧ t.fuse = s.fuse ∧ t.pending = s.pending ∧
      ∀ a, (t.att a).up = false ∧ (hostWf s = true → (t.att a).mem = (s.att a).mem)) ∧
    (Does (.aonResetN true) s fun t => Only [.pins, .mgmt, .tick] s t ∧
      t.tick = { s.tick with running := if s.pins.aonReset = true then !s.pins.heldInReset else s.tick.running } ∧ t.pins = { s.pins with aonReset := false } ∧
      t.mgmt = { s.mgmt with boot := if s.mgmt.boot = .held then .booting else s.mgmt.boot }) ∧
    (∀ c ∈ [(Instr.mainPwrgd false, { s.pins with mainPwrgd := false }, s.pins.mainPwrgd),
        (Instr.refclk100Loss, { s.pins with ref100 := false }, true)],
      (s.pwr.state ≠ 0 ∨ s.pins.heldInReset = true ∨ s.pwr.exiting = true ∨ c.2.2 = false → exec c.1 s = .next { s with pins := c.2.1 }) ∧
      (s.pwr.state = 0 → s.pins.heldInReset = false → s.pwr.exiting = false → c.2.2 = true → Does c.1 s fun t =>
        t.pins = { c.2.1 with heldInReset := true } ∧ t.tick.running = false ∧ t.parts = [] ∧ t.chans = [] ∧ t.mem = [] ∧
        t.now = s.now ∧ t.rec' = s.rec' ∧ t.scratch = s.scratch ∧ t.pwr.state = 0 ∧ t.pwr.entering = none ∧
        t.mgmt.boot = (if s.mgmt.boot = .running then .loading else s.mgmt.boot) ∧ t.fuse = s.fuse)) ∧
    (∀ c ∈ [(Instr.mainPwrgd true, { s.pins with mainPwrgd := true }), (Instr.refclk100Return, { s.pins with ref100 := true })],
      (s.pins.heldInReset = false ∨ c.2.mainPwrgd = false ∨ c.2.ref100 = false → exec c.1 s = .next { s with pins := c.2 }) ∧
      (s.pins.heldInReset = true → c.2.mainPwrgd = true → c.2.ref100 = true → Does c.1 s fun t =>
        t.pins = { c.2 with heldInReset := false } ∧ 
        t.tick = { TickSt.reset with start := s.now, running := !s.pins.aonReset && s.mgmt.boot != .recovery } ∧ t.now = s.now ∧
        t.rec' = s.rec' ∧ t.scratch = s.scratch ∧ t.parts = [])) ∧
    (Does .refclk156Loss s fun t => Only [.pins, .macs, .rec'] s t ∧ t.pins = { s.pins with ref156 := false } ∧
      ∀ m, (t.mac m).up = (if m < 32 then false else (s.mac m).up)) ∧
    exec .refclk156Return s = .next { s with pins := { s.pins with ref156 := true } } ∧
    exec .refclk25Loss s = .next { s with pins := { s.pins with ref25 := false } } ∧
    exec .refclk25Return s = .next { s with pins := { s.pins with ref25 := true } }

/-- While firmware runs: FREEZE freezes the recorder; UNFREEZE spills it where memory serves, and clears FROZEN and DROPPED;
a drain of one record stores it in the log at its sequence number modulo 2^20 and of none that is left changes nothing; KICK
restarts the watchdog's period; LOCK disables debug for good. Without firmware these change nothing. A watchdog expiry that
is due, and an uncorrectable error while the processor or its boot ROM executes, restart the processor, or put it into
recovery at the third expiry in 60 s; a corrected error is recorded. BOOT_COMPLETE of an image in flash that fails a step
puts the boot ROM into recovery and leaves the tick stopped before start-up step 1 is done; one that passes runs, with its
version and SVN, and step 1 waits for powered domains. FIRMWARE_UPDATE_COMPLETE of a whole image ends the update: flash
takes an image that verifies and is written, its version pending, and keeps its own otherwise; the driver's page shows code
0, 3 or 4. The slot modulo 2^20, the spill at every unfreeze and a FREEZE that leaves FREEZE_SEQ are the model's readings
(log entry 21), as are the order of the update's codes (20), the corners of the boot (19) and that what a read finds wrong
acts first (40). (R497, R499, R503, R505, R506, R511, R513, R514, R515, R516, R521, R549) -/
def Obligations.ManagementKeepsRecordsBootsAndUpdates : Prop :=
  ∀ (s : State),
    (s.firmware = false → (∀ n, exec (.recorderDrain n) s = .next s) ∧ (∀ t, exec (.watchdogExpiry t) s = .next s) ∧
      (∀ c e, exec (.firmwareUpdateComplete c e) s = .next s) ∧
      exec .freeze s = .next s ∧ exec .unfreeze s = .next s ∧ exec .kick s = .next s ∧ exec .lock s = .next s) ∧
    ((s.pwr.clocksStopped = true ∨ s.mgmt.boot = .held → ∀ u t, exec (.managementEccError u t) s = .next s) ∧
      (s.pwr.clocksStopped = false → s.mgmt.boot ≠ .held →
        (∀ t, Does (.managementEccError false t) s fun u => Only [.now, .rec'] s u ∧
          (s.rec'.frozen = false → u.rec'.nextSeq = s.rec'.nextSeq + 1)) ∧
        ∀ t, Does (.managementEccError true t) s (s.Expired t))) ∧
    (exec .nonceExpiry s = .next { s with mgmt := { s.mgmt with nonce := none } }) ∧
    (s.firmware = true →
      exec .freeze s = .next { s with rec' := { s.rec' with frozen := true } } ∧
      (Does .unfreeze s fun t => Only [.rec', .mem, .poison] s t ∧
        t.rec' = { s.rec' with frozen := false, dropped := 0, unfreezes := s.rec'.unfreezes + 1 } ∧
        t.mem = (if s.powered = true ∧ s.memServes = true then (s.spill s.rec'.unfreezes).mem else s.mem)) ∧
      (s.rec'.drained = s.rec'.nextSeq → exec (.recorderDrain 1) s = .next s) ∧
      (∀ l, s.powered = true → s.memServes = true → (s.rec'.nextSeq - s.rec'.drained).toNat ≤ 32768 →
        s.rec'.drained ≠ s.rec'.nextSeq → s.rec'.find s.rec'.drained.toNat = some l → Does (.recorderDrain 1) s fun t =>
          t.rec' = { s.rec' with drained := s.rec'.drained + 1 } ∧
          t.mem = (s.wrBytes (0x1DFF4000000 + 64 * (s.rec'.drained.toNat % 2 ^ 20)) l).mem) ∧
      exec .kick s = .next { s with mgmt := { s.mgmt with lastKick := s.now } } ∧
      (Does .lock s fun t => Only [.mgmt] s t ∧ t.mgmt.dbgEn = false ∧ t.mgmt.dbgLocked = true ∧
        (s.mgmt.dbgEn = false → t.mgmt.meas = s.mgmt.meas)) ∧
      ∀ t, (t < s.mgmt.lastKick + s.mgmt.wdtPeriod * 1000000 → exec (.watchdogExpiry t) s = .next s) ∧
        (s.mgmt.lastKick + s.mgmt.wdtPeriod * 1000000 ≤ t → Does (.watchdogExpiry t) s (s.Expired t))) ∧
    (∀ b, s.pwr.clocksStopped = true ∨ s.mgmt.boot = .running ∨ s.mgmt.boot = .recovery ∨ s.mgmt.boot = .held →
      exec (.bootComplete b) s = .next s) ∧
    (s.pwr.clocksStopped = false → s.mgmt.boot = .loading → s.mgmt.flashBad = false → s.mgmt.flash ≠ [] → ∀ b,
      Does (.bootComplete b) s fun t => t.mgmt.boot = (if s.powered = true then .running else .loading) ∧
        (s.powered = true → t.mgmt.loadPending = false) ∧ t.mgmt.flash = s.mgmt.flash ∧
        (s.powered = true → b.badSram = none → (s.readImage s.mgmt.flash b).othersOk = true → 1 ≤ t.fab.step)) ∧
    (s.pwr.clocksStopped = false → s.mgmt.boot = .booting ∨ s.mgmt.boot = .restarting → s.mgmt.flashBad = false → s.mgmt.flash ≠ [] → ∀ b,
      let l := s.mgmt.flash
      let f := (s.readImage l b).fault
      (s.imageFault l ≠ 0 → f = s.imageFault l) ∧
      (f ≠ 0 → Does (.bootComplete b) s fun t => t.mgmt = { s.mgmt with boot := .recovery } ∧
        t.tick = { s.tick with running := s.tick.running && !s.mgmt.loadPending } ∧
        Only [.tick, .rec', .mgmt] s t) ∧
      (f = 0 → Does (.bootComplete b) s fun t =>
        t.mgmt.boot = (if s.mgmt.loadPending = true ∧ s.powered = false then .loading else .running) ∧ t.mgmt.version = imageVersion l ∧
        t.mgmt.svn = imageSvn l ∧ t.mgmt.lastKick = s.now ∧ t.mgmt.flash = l ∧
        t.mgmt.pendingVersion = (if s.mgmt.loadPending = true then none else s.mgmt.pendingVersion) ∧
        (s.mgmt.loadPending = true → s.powered = true → b.badSram = none → (s.readImage l b).othersOk = true → 1 ≤ t.fab.step))) ∧
    (s.firmware = true → ∀ c found e, let s₀ := s.findAll 0 0 found
      (s.mgmt.fwu = none → exec (.firmwareUpdateComplete ⟨c, found⟩ e) s = .next s₀) ∧
      ∀ f, s.mgmt.fwu = some f → f.size ≠ 0 → f.image.length = f.size →
        let code := if f.poisoned = true ∨ s.imageFault f.image ≠ 0 then 3 else if c ≠ 0 then 4 else 0
        Does (.firmwareUpdateComplete ⟨c, found⟩ e) s fun t => t.mgmt.fwu = none ∧
          t.mgmt.flash = (if code = 0 then f.image else s.mgmt.flash) ∧
          t.mgmt.pendingVersion = (if code = 0 then some (imageVersion f.image) else s.mgmt.pendingVersion) ∧
          ∀ p, (t.part p).page = if f.part = some p then
            { (s₀.part p).page with fwuState := if code = 0 then 2 else 3, fwuCode := code } else (s₀.part p).page)

/-- Each command of the platform changes nothing without firmware (but for RECORDER_READ in recovery); outside RUN all but
GET_INFO, RECORDER_READ, LOG_READ and POWER_STATE are answered NOT_NOW with a record; a state-changing one without a session
where one is required, NO_SESSION; an unknown COMMAND byte, INVALID. In RUN: a message of the wrong length (by log entry 13)
is INVALID and changes nothing; RECORDER_READ and LOG_READ answer the records left; FREEZE and UNFREEZE act; PARTITION_SET
checks the entry and answers ERROR, at once or when creation ends; PARTITION_CLEAR of an idle partition withdraws it;
FABRIC_SETUP starts the fabric; JOB_BIND does what BIND does; JOB_UNBIND ends the job; PARTITION_MODE, POLICY_SET, FABRIC_ID
before START, TICK_STAGE, GOVERNOR_SET, RETIRE_RECORD and POLICY put their parameters (log entry 13) into registers and
answer SUCCESS; a power state begins or is refused with its code; DEBUG_UNLOCK spends the nonce and enables debug only where
the token verifies; GET_INFO tells the package's state and a new nonce. MCTP identifiers and types are answered (identifiers
8 to 254, codes 2 and 0x80: log entry 16). PLDM reads the latest sample and takes one update, its size and its pieces in
order; activation succeeds only where an image is pending. Which refusals are recorded, their data and who is heard: log
entry 22. (R500, R507, R508, R509, R510, R514, R515, R517, R521, R522, R523) -/
def Obligations.PlatformCommandsAnswerAndTakeEffect : Prop :=
  (∀ (s : State) (m : Msg) time, ∀ c cmd secured, IsPlatform m time c cmd secured →
    (s.firmware = false → s.mgmt.boot ≠ .recovery → exec c s = .next s) ∧
    (s.firmware = true → m.cmd = cmd → s.pwr.state ≠ 0 → sleepCommand cmd = false →
      Answers c s [] cmd m.req 5 [] fun _ => True) ∧
    (s.firmware = true → m.cmd = cmd → s.powered = true → secured = true → s.mgmt.requireSession = true → s.sessionOk m = false →
      exec c s = .next (s.emit (.resp cmd m.req 4 []))) ∧
    (s.firmware = true → s.pwr.state = 0 → m.cmd ∉ commandCodes → exec c s = .next (s.emit (.resp m.cmd m.req 1 []))) ∧
    (s.firmware = true → m.cmd ∈ commandCodes → m.cmd ≠ cmd → exec c s = .next s)) ∧
  (∀ (s : State) (m : Msg), s.mgmt.boot = .recovery → s.pwr.clocksStopped = false → m.cmd = 0x02 → readOk m = true →
    exec (.recorderRead m) s =
      .next (s.emit (.resp 0x02 m.req 0 (s.recorderHead ++ readRecords m fun q => s.rec'.find q)))) ∧
  (∀ (s : State) (m : Msg) time, s.firmware = true → s.powered = true → s.mgmt.requireSession = false ∨ s.sessionOk m = true →
    (∀ c cmd secured, IsPlatform m time c cmd secured → m.cmd = cmd → ¬ LengthOk cmd m.params.length →
      (cmd = 0x05 → s.memServes = true) → (cmd = 0x20 → s.fab.started = false) → exec c s = .next (s.emit (.resp cmd m.req 1 []))) ∧
    (m.cmd = 0x02 → readOk m = true → exec (.recorderRead m) s =
      .next (s.emit (.resp 0x02 m.req 0 (s.recorderHead ++ readRecords m fun q => s.rec'.find q)))) ∧
    (m.cmd = 0x04 → m.params = [] → Answers (.recorderUnfreeze m) s [.mem, .poison] 0x04 m.req 0 [] fun t =>
      t.rec'.frozen = false ∧ t.rec'.dropped = 0 ∧ t.rec'.unfreezes = s.rec'.unfreezes + 1 ∧ t.rec'.nextSeq = s.rec'.nextSeq + 1 ∧
      t.mem = if s.memServes = true then (s.spill s.rec'.unfreezes).mem else s.mem) ∧
    (m.cmd = 0x05 → s.memServes = true → readOk m = true → let s₀ := s.findAll 0 0 m.found
      exec (.logRead m) s = .next (s₀.emit (.resp 0x05 m.req 0 (s₀.recorderHead ++ readRecords m s₀.logFind)))) ∧
    (m.cmd = 0x05 → s.memServes = false → Answers (.logRead m) s [] 0x05 m.req 5 [] fun _ => True) ∧
    (m.cmd = 0x10 → m.params.length = 129 → paramN m 0 1 < 8 → s.halted = false → s.pwr.busy = false → s.waits 0x10 = false →
      let p := paramN m 0 1
      let q := s.part p
      let e := q.ent.carried m
      (q.life = .absent → s.createError p e ≠ 0 → Answers (.partitionSet m) s [.parts] 0x10 m.req 0 (leBytes 1 (s.createError p e))
        fun t => (t.part p).ent = { e with valid := false, error := s.createError p e } ∧ OthersKept p s t) ∧
      (q.life = .absent → s.createError p e = 0 → Does (.partitionSet m) s fun t => t.out = s.out ∧ OthersKept p s t ∧
        (t.part p).ent = { e with valid := true, error := 0 } ∧ (t.part p).life = .creating ∧
        tlook t.mgmt.respWait (0x10 * 8 + p) = some m.req) ∧
      (q.life = .ready ∨ q.life = .resetting → Answers (.partitionSet m) s [.parts] 0x10 m.req 0 (leBytes 1 q.ent.error)
        fun t => OthersKept p s t ∧ (t.part p).ent = { q.ent with mode := fld (paramN m 1 8) 8 7 })) ∧
    (m.cmd = 0x12 → m.params.length = 1 → paramN m 0 1 < 8 → s.halted = false → s.waits 0x12 = false →
      let p := paramN m 0 1
      let q := s.part p
      q.life ≠ .destroying →
      (q.ent.valid = false → exec (.partitionClear m) s = .next (s.emit (.resp 0x12 m.req 0 []))) ∧
      (q.ent.valid = true → q.descs = [] → (∀ x, x ∈ q.cq → x.2.waiting = []) → q.mirror.hold = false → q.ent.chCount = 0 →
        s.waits 0x10 = false → Does (.partitionClear m) s fun t => t.out = s.out ++ [.resp 0x12 m.req 0 []] ∧ OthersKept p s t ∧
          (t.part p).ent = { q.ent with valid := false, ready := false, error := 0 } ∧ (t.part p).life = .absent)) ∧
    (m.cmd = 0x21 → m.params.length = 88 → s.fab.started = false → Does (.fabricSetup m) s fun t =>
      t.fab.started = true ∧ (∀ i, i < 8 → tget 0 t.fab.split i = paramN m (8 * i) 8 % 4 ∧
        tget 0 t.fab.enable i = fld (paramN m (8 * i) 8) 4 4) ∧ t.fab.etype = paramN m 64 8 % 65536 ∧
      t.fab.domain = paramN m 72 8 % 256 ∧ t.fab.hopLimit = paramN m 80 8 % 16 ∧
      ∃ l, t.out = s.out ++ l ++ [.resp 0x21 m.req 0 []]) ∧
    (m.cmd = 0x22 → 73 ≤ m.params.length → paramN m 0 1 < 8 → paramN m 1 8 < 2 ^ 44 →
      let desc := sliceList m.params 9 64
      let placed := (s.placeReserve (paramN m 1 8) desc).placeReserve (leNat (sliceList desc 0x10 8)) (m.params.drop 73)
      ∃ u, exec (.bind ⟨BitVec.ofNat 64 (paramN m 1 8 + paramN m 0 1 * 2 ^ 44 + 2 ^ 48), m.found⟩ time) placed = .next u ∧
        exec (.jobBind m time) s = .next ((if u.fab.bindRes = 1 then u.noteCommand 0x22 (some (paramN m 0 1)) else u.noteRefused 0x22).emit
          (.resp 0x22 m.req 0 (leBytes 1 u.fab.bindRes)))) ∧
    (m.cmd = 0x23 → m.params.length = 1 → paramN m 0 1 < 8 → Answers (.jobUnbind m) s [.fab, .parts, .fresh] 0x23 m.req 0 []
      fun t => (t.part (paramN m 0 1)).job = none ∧ OthersKept (paramN m 0 1) s t) ∧
    (m.cmd = 0x03 → m.params = [] → Answers (.recorderFreeze m) s [] 0x03 m.req 0 [] fun t => t.rec'.frozen = true) ∧
    (m.cmd = 0x11 → m.params.length = 2 → paramN m 0 1 < 8 → paramN m 1 1 < 4 → Answers (.partitionMode m) s [.parts] 0x11 m.req 0 [] fun t =>
      (t.part (paramN m 0 1)).ent.mode = paramN m 1 1 ∧ OthersKept (paramN m 0 1) s t) ∧
    (m.cmd = 0x13 → m.params.length = 3 → paramN m 0 1 < 8 → Answers (.policySet m) s [.parts] 0x13 m.req
      (if (paramN m 1 1 = 0 ∧ paramN m 2 1 < 2) ∨ (paramN m 1 1 = 1 ∧ paramN m 2 1 < 4) then 0 else 1) [] fun t =>
      let q := (s.part (paramN m 0 1)).page
      OthersKept (paramN m 0 1) s t ∧
      (paramN m 1 1 = 0 → paramN m 2 1 < 2 → q.diverge < 4 → (t.part (paramN m 0 1)).page = { q with preempt := paramN m 2 1 }) ∧
      (paramN m 1 1 = 1 → paramN m 2 1 < 4 → q.preempt < 2 → (t.part (paramN m 0 1)).page = { q with diverge := paramN m 2 1 })) ∧
    (m.cmd = 0x20 → m.params.length = 3 → Answers (.fabricId m) s [.fab] 0x20 m.req (if s.fab.started = true then 5 else 0) [] fun t =>
      t.fab = if s.fab.started = true then s.fab else { s.fab with pkg := paramN m 0 3 % 65536, fabric := paramN m 0 3 / 65536 }) ∧
    (m.cmd = 0x24 → m.params.length = 10 → Answers (.tickStage m) s [.tick] 0x24 m.req 0 [] fun t =>
      t.tick.stagePeriod = paramN m 0 2 ∧ t.tick.stageAt = paramN m 2 8) ∧
    (m.cmd = 0x31 → m.params.length = 16 → Answers (.governorSet m) s [.pwr] 0x31 m.req 0 [] fun t =>
      t.pwr = ((s.setPwrGov (paramN m 0 8)).setPwrTherm (paramN m 8 8)).pwr) ∧
    (m.cmd = 0x32 → m.params.length = 81 → paramN m 0 1 = 1 → Answers (.retireRecord m) s [.mgmt] 0x32 m.req 0 [] fun t =>
      t.mgmt.retireRecord = (List.range 20).map fun st => s.mgmt.retireRecord.getD st 0 ||| paramN m (1 + 4 * st) 4) ∧
    (m.cmd = 0x32 → m.params = [0] → Answers (.retireRecord m) s [.mgmt] 0x32 m.req 0 [] fun t => t.mgmt.retireRecord = List.replicate 20 0) ∧
    (m.cmd = 0x41 → m.params.length = 8 → Answers (.policy m) s [.mgmt] 0x41 m.req 0 [] fun t =>
      t.mgmt.requireSession = bitOf (paramN m 0 8) 0) ∧
    (∀ x, m.cmd = 0x30 → m.params = [x] → x.toNat < 4 → s.pwr.busy = false → s.goRefuse x.toNat = 0 → Does (.powerState m) s fun t =>
      t.pwr.busy = true ∧ t.pwr.entering = some x.toNat ∧ ∃ l, t.out = s.out ++ l ++ [.resp 0x30 m.req 0 [0]]) ∧
    (∀ x, m.cmd = 0x30 → m.params = [x] → x.toNat < 4 → s.pwr.busy = false → s.goRefuse x.toNat ≠ 0 →
      Answers (.powerState m) s [.pwr] 0x30 m.req 2 (leBytes 1 (s.goRefuse x.toNat)) fun t => t.pwr.state = 0 ∧ t.pwr.busy = false) ∧
    (m.cmd = 0x40 → m.params.length = 29896 → Does (.debugUnlock m) s fun t => t.mgmt.nonce = none ∧
      t.mgmt.dbgEn = (s.mgmt.dbgEn || s.unlockOk m.params) ∧ Only [.rec', .out, .mgmt] s t) ∧
    (m.cmd = 0x01 → m.params = [] → Does (.getInfo m) s fun t => ∃ nonce, nonce.length = 32 ∧
      t.mgmt = { s.mgmt with nonce := some nonce } ∧ Only [.mgmt, .fresh, .out] s t ∧
      t.out = s.out ++ [.resp 0x01 m.req 0 (leBytes 8 s.mgmtId ++ leBytes 8 s.fuse.serial ++ leBytes 4 s.mgmt.version ++
        leBytes 4 (s.mgmt.pendingVersion.getD 0) ++ leBytes 2 s.mgmt.svn ++ [0] ++ leBytes 1 s.fab.step ++
        leBytes 1 (maskOf ((List.range 8).filter fun p => (s.part p).ent.ready)) ++ nonce)])) ∧
  (∀ (s : State), s.firmware = true →
    (∀ e, exec (.setEndpointId e) s = .next (if 8 ≤ e ∧ e ≤ 254 then
      { s with mgmt := { s.mgmt with eid := e } }.emit (.mctp 0 0 (leBytes 1 e)) else s.emit (.mctp 0 2 []))) ∧
    exec .getEndpointId s = .next (s.emit (.mctp 0 0 (leBytes 1 s.mgmt.eid))) ∧
    exec .getMessageTypeSupport s = .next (s.emit (.mctp 0 0 [0x00, 0x01, 0x05, 0x06, 0x7F])) ∧
    (∀ x, Does (.getMctpVersionSupport x) s fun t => ∃ code data, t.out = s.out ++ [.mctp 0 code data] ∧
      code = if x ∈ [0x00, 0x01, 0x05, 0x06, 0x7F] then 0 else 0x80) ∧
    (∀ a, s.pwr.clocksStopped = false → exec (.dynamicAddressAssignment a) s =
      .next { s with mgmt := { s.mgmt with dynAddr := some (a % 128) } }) ∧
    (s.pwr.state = 0 →
      (∀ k, sensorExists k = true → exec (.getSensorReading k) s = .next (s.emit (.mctp 1 0 (leBytes 4 (tget 0 s.pwr.sensors k))))) ∧
      (∀ r, Does (.getPdr r) s fun t => ∃ d, t.out = s.out ++ [.mctp 1 0 d]) ∧
      (Does .getPdrRepositoryInfo s fun t => ∃ d, t.out = s.out ++ [.mctp 1 0 d]) ∧
      (Does .requestUpdate s fun t => t.out = s.out ++ [.mctp 1 (if s.mgmt.fwu = none then 0 else 1) []] ∧
        t.mgmt.fwu = if s.mgmt.fwu = none then some ⟨false, none, 0, [], false, 0⟩ else s.mgmt.fwu) ∧
      (∀ n, s.pldmUpdate ≠ none → Does (.passComponentTable n) s fun t =>
        t.out = s.out ++ [.mctp 1 (if n = 1 then 0 else 1) []] ∧ (n = 1 → t.mgmt.tableSeen = true)) ∧
      (∀ f n, s.pldmUpdate = some f → s.mgmt.tableSeen = true → f.size = 0 → Does (.updateComponent n) s fun t =>
        t.out = s.out ++ [.mctp 1 (if imageSizeOk n = true then 0 else 1) []] ∧
        (imageSizeOk n = true → t.mgmt.fwu = some { f with size := n })) ∧
      (∀ f piece, s.pldmUpdate = some f → piece ≠ [] → piece.length ≤ 2 ^ 20 → f.image.length + piece.length ≤ f.size →
        Does (.requestFirmwareData f.image.length piece) s fun t => t.mgmt.fwu = some { f with image := f.image ++ piece } ∧
          t.mem = (s.wrBytes (stagingBase + f.image.length) piece).mem ∧ t.mgmt.flash = s.mgmt.flash) ∧
      ∀ b, exec (.activateFirmware b) s = .next (s.emit (.mctp 1 (if b = true ∨ s.mgmt.pendingVersion = none then 1 else 0) []))))

/-- At most four sessions stand after every step that starts with at most four. A requester the engine does not hear changes
nothing. One it hears (request bytes as log entry 14 lays them out) restarts negotiation with GET_VERSION, gives its
capabilities next and its algorithms last, and meets an error out of that order; before algorithms are negotiated the
certificate, measurement and key exchange rows answer an error. After that, GET_DIGESTS, GET_CERTIFICATE and
GET_MEASUREMENTS answer the chains' digests, the chain of a filled slot and the measurements; CHALLENGE signs with slot 0
only; SET_CERTIFICATE fills slot 1 only; KEY_EXCHANGE opens a session with a new identifier that holds the requester's half,
while fewer than four stand. In a session, the encapsulated requests fetch digests and chain, FINISH establishes it or ends
it, and KEY_UPDATE, HEARTBEAT, END_SESSION and, on external ports 0 and 1, CXL_IDE_KM act once it is established and answer
an error before. (R229, R510, R517, R518, R519, R520) -/
def Obligations.SpdmRowsNegotiateAttestAndKeepSessions : Prop :=
  (∀ s t : State, s.sec.sessions.length ≤ 4 → step s = .next t → t.sec.sessions.length ≤ 4) ∧
  (∀ (s : State) (q : Spdm), s.spdmUp q.conn = false → ∀ c ∈ [Instr.getVersion q, .getCapabilities q, .negotiateAlgorithms q, .getDigests q, .getCertificate q, .challenge q, .getMeasurements q,
      .setCertificate q, .keyExchange q, .getEncapsulatedRequest q, .deliverEncapsulatedResponse q, .finish q, .keyUpdate q,
      .heartbeat q, .endSession q, .cxlIdeKm q], exec c s = .next s) ∧
  ∀ (s : State) (q : Spdm), s.spdmUp q.conn = true →
    let b (i : Nat) : Nat := (q.bytes.getD i 0).toNat
    (SpdmAnswer (.getVersion q) s fun t d => d = [0x13] ∧ t.conn q.conn = ⟨1, false, false, 0⟩ ∧
      ∀ c, c ≠ q.conn → t.conn c = s.conn c) ∧
    ((s.conn q.conn).stage = 1 → SpdmAnswer (.getCapabilities q) s fun t _ =>
      t.conn q.conn = ⟨2, bitOf (b 0) 0, bitOf (b 0) 1, 0⟩) ∧
    ((s.conn q.conn).stage ≠ 1 → SpdmError (.getCapabilities q) s) ∧
    ((s.conn q.conn).stage = 2 → b 0 % 16 = 15 → SpdmAnswer (.negotiateAlgorithms q) s fun t _ =>
      t.conn q.conn = { s.conn q.conn with stage := 3, sigSet := b 0 / 16 % 2 }) ∧
    ((s.conn q.conn).stage ≠ 2 ∨ b 0 % 16 ≠ 15 → SpdmError (.negotiateAlgorithms q) s) ∧
    ((s.conn q.conn).stage ≠ 3 → ∀ c ∈ [Instr.getDigests q, .getCertificate q, .challenge q, .getMeasurements q, .setCertificate q,
      .keyExchange q], SpdmError c s) ∧
    ((s.conn q.conn).stage = 3 →
      (SpdmAnswer (.getDigests q) s fun _ d => d = (if s.sec.slot1 = [] then leBytes 1 1 ++ sha3 Config.deviceChain
        else leBytes 1 3 ++ sha3 Config.deviceChain ++ sha3 s.sec.slot1)) ∧
      (b 0 = 0 → SpdmAnswer (.getCertificate q) s fun _ d => d = Config.deviceChain) ∧
      (b 0 = 1 → s.sec.slot1 ≠ [] → SpdmAnswer (.getCertificate q) s fun _ d => d = s.sec.slot1) ∧
      (2 ≤ b 0 ∨ (b 0 = 1 ∧ s.sec.slot1 = []) → SpdmError (.getCertificate q) s) ∧
      (b 0 = 0 → SpdmAnswer (.challenge q) s fun _ d => ∃ r, d = sha3 Config.deviceChain ++ r) ∧
      (b 0 ≠ 0 → SpdmError (.challenge q) s) ∧
      (b 0 = 0xFF → SpdmAnswer (.getMeasurements q) s fun _ d => ∃ r, (bitOf (b 1) 0 = false → r = []) ∧
        d = ((List.range 5).flatMap fun i => leBytes 1 (i + 1) ++ s.mgmt.meas.getD i []) ++ r) ∧
      (5 < b 0 → b 0 ≠ 0xFF → SpdmError (.getMeasurements q) s) ∧
      (b 0 = 1 → 1 < q.bytes.length → SpdmAnswer (.setCertificate q) s fun t _ =>
        t.sec = { s.sec with slot1 := q.bytes.drop 1 }) ∧
      (b 0 ≠ 1 → SpdmError (.setCertificate q) s) ∧
      (4 ≤ s.sec.sessions.length → SpdmError (.keyExchange q) s) ∧
      (s.sec.sessions.length < 4 → 2 ≤ q.bytes.length → SpdmAnswer (.keyExchange q) s fun t _ =>
        ∃ x, t.sec = { s.sec with sessions := s.sec.sessions ++ [x] } ∧ x.conn = q.conn ∧ x.established = false ∧
          x.verified = false ∧ x.wanted = ((s.conn q.conn).mutAuth && (s.conn q.conn).encap) ∧
          x.id % 65536 = leNat (q.bytes.take 2) ∧ ∀ y, y ∈ s.sec.sessions → y.id ≠ x.id)) ∧
    (s.session q = none → ∀ c ∈ [Instr.getEncapsulatedRequest q, .deliverEncapsulatedResponse q, .finish q, .keyUpdate q,
      .heartbeat q, .endSession q, .cxlIdeKm q], SpdmError c s) ∧
    (∀ x, s.session q = some x →
      (x.established = false → x.wanted = true → x.encap < 2 →
        (SpdmAnswer (.getEncapsulatedRequest q) s fun t d => d = [if x.encap = 0 then 0x81 else 0x82] ∧ t.sec = s.sec) ∧
        (SpdmAnswer (.deliverEncapsulatedResponse q) s fun t _ => t.session q = some (x.deliver q.bytes)) ∧
        SpdmError (.finish q) s) ∧
      (x.established = false → x.wanted = false ∨ x.encap = 2 →
        let ok := Config.finishVerify (s.conn q.conn).sigSet x.chain x.id q.bytes
        (ok = true → SpdmAnswer (.finish q) s fun t _ =>
          t.session q = some { x with established := true, verified := x.wanted }) ∧
        (ok = false → Does (.finish q) s fun t => t.session q = none ∧ t.out = s.out ++ [.mctp 5 1 []])) ∧
      (x.established = false → ∀ c ∈ [Instr.keyUpdate q, .heartbeat q, .endSession q, .cxlIdeKm q], SpdmError c s) ∧
      (x.established = true →
        SpdmError (.finish q) s ∧
        (SpdmAnswer (.keyUpdate q) s fun t _ => t.session q = some { x with keyGen := x.keyGen + 1 }) ∧
        (SpdmAnswer (.heartbeat q) s fun t _ => t.sec = s.sec) ∧
        (SpdmAnswer (.endSession q) s fun t _ => t.session q = none ∧ ∀ y, y ∈ s.sec.sessions → y.id ≠ x.id → y ∈ t.sec.sessions) ∧
        (∀ a, doeOf q.conn = some a → (a = 2 ∨ a = 3) → SpdmAnswer (.cxlIdeKm q) s fun t _ =>
          tlook t.sec.ideKeys (a - 2) = some (leNat q.bytes) ∧ t.sec.sessions = s.sec.sessions) ∧
        (doeOf q.conn ≠ some 2 → doeOf q.conn ≠ some 3 → SpdmError (.cxlIdeKm q) s)))
end

