-- ==== Sys2Proof/Laws/Keeps.lean ====
section
/-!
SUPPORT. What every command keeps, as one relation between a state and the state it leads to, and that the named
operations over memory keep it.
-/

namespace Sys2Proof.Machine

/-! ## Tables -/

theorem keysRise_mono {α : Type} {l : List (Nat × α)} : ∀ {a b : Nat}, a ≤ b → keysRise b l = true → keysRise a l = true := by
  cases l with
  | nil => simp [keysRise]
  | cons e t => intro a b h; simp only [keysRise, Bool.and_eq_true, decide_eq_true_eq]; exact fun g => ⟨by omega, g.2⟩

theorem keysRise_filter {α : Type} (p : Nat × α → Bool) : ∀ {l : List (Nat × α)} {lo : Nat},
    keysRise lo l = true → keysRise lo (l.filter p) = true
  | [], _, _ => by simp [keysRise]
  | e :: t, lo, h => by
    simp only [keysRise, Bool.and_eq_true, decide_eq_true_eq] at h
    have ih := keysRise_filter p h.2
    rw [List.filter_cons]
    split
    · simp [keysRise, h.1, ih]
    · exact keysRise_mono (by omega) ih

theorem keysRise_tput {α : Type} (k : Nat) (v : α) : ∀ {l : List (Nat × α)} {lo : Nat},
    lo ≤ k → keysRise lo l = true → keysRise lo (tput l k v) = true
  | [], _, hk, _ => by simp [tput, keysRise, hk]
  | e :: t, lo, hk, h => by
    simp only [keysRise, Bool.and_eq_true, decide_eq_true_eq] at h
    unfold tput
    split
    · simp [keysRise, h.1, keysRise_tput k v (by omega : e.1 + 1 ≤ k) h.2]
    · split
      · subst_vars; simp_all [keysRise]
      · simp [keysRise, hk, h.2]; omega

theorem mem_tput {α : Type} {k : Nat} {v : α} {e : Nat × α} : ∀ {l : List (Nat × α)}, e ∈ tput l k v → e = (k, v) ∨ e ∈ l
  | [], h => by simp_all [tput]
  | d :: t, h => by
    unfold tput at h
    split at h
    · rcases List.mem_cons.1 h with h | h
      · simp [h]
      · rcases mem_tput h with h | h <;> simp [h]
    · split at h <;> simp_all <;> grind

/-- Writing a table keeps its canonical form. -/
theorem twf_tset {α : Type} [DecidableEq α] {d : α} {l : List (Nat × α)} (k : Nat) (v : α) (h : twf d l = true) :
    twf d (tset d l k v) = true := by
  simp only [twf, Bool.and_eq_true, List.all_eq_true, decide_eq_true_eq] at h ⊢
  unfold tset
  split
  · exact ⟨keysRise_filter _ h.1, fun e he => h.2 e ((List.mem_filter.1 he).1)⟩
  · refine ⟨keysRise_tput k v (Nat.zero_le k) h.1, fun e he => ?_⟩
    rcases mem_tput he with rfl | he
    · assumption
    · exact h.2 e he

theorem twf_filter {α : Type} [DecidableEq α] {d : α} {l : List (Nat × α)} (p : Nat × α → Bool) (h : twf d l = true) :
    twf d (l.filter p) = true := by
  simp only [twf, Bool.and_eq_true, List.all_eq_true, decide_eq_true_eq] at h ⊢
  exact ⟨keysRise_filter p h.1, fun e he => h.2 e ((List.mem_filter.1 he).1)⟩

theorem srise_mono {l : List Nat} : ∀ {a b : Nat}, a ≤ b → srise b l = true → srise a l = true := by
  cases l with
  | nil => simp [srise]
  | cons e t => intro a b h; simp only [srise, Bool.and_eq_true, decide_eq_true_eq]; exact fun g => ⟨by omega, g.2⟩

theorem srise_filter (p : Nat → Bool) : ∀ {l : List Nat} {lo : Nat}, srise lo l = true → srise lo (l.filter p) = true
  | [], _, _ => by simp [srise]
  | e :: t, lo, h => by
    simp only [srise, Bool.and_eq_true, decide_eq_true_eq] at h
    have ih := srise_filter p h.2
    rw [List.filter_cons]
    split
    · simp [srise, h.1, ih]
    · exact srise_mono (by omega) ih

theorem srise_sinsert (k : Nat) : ∀ {l : List Nat} {lo : Nat}, lo ≤ k → srise lo l = true → srise lo (sinsert l k) = true
  | [], _, hk, _ => by simp [sinsert, srise, hk]
  | e :: t, lo, hk, h => by
    simp only [srise, Bool.and_eq_true, decide_eq_true_eq] at h
    unfold sinsert
    split
    · simp [srise, h.1, srise_sinsert k (by omega : e + 1 ≤ k) h.2]
    · split
      · simp [srise, h.1, h.2]
      · simp [srise, hk, h.2]; omega

/-! ## The relation -/

/-- A set of parts that leaves out a part. -/
class Spares (m : Field → Bool) (f : Field) : Prop where
  eq : m f = false

/-- What a command keeps: the parts in the set `m`; the queue; the fuses, but that the fused SVN may rise; the canonical forms of stacked memory, poison
and host memories; what has left the package; and, where `k` is true, a halt. -/
structure Keeps (k : Bool) (m : Field → Bool) (s t : State) : Prop where
  same : ∀ f, m f = true → f.same s t
  queue : t.pending = s.pending
  fuse : t.fuse = { s.fuse with svn := t.fuse.svn }
  svn : s.fuse.svn ≤ t.fuse.svn
  mem : Memory.wf s.mem = true → Memory.wf t.mem = true
  poison : srise 0 s.poison = true → srise 0 t.poison = true
  host : hostWf s = true → hostWf t = true
  out : s.out <+: t.out
  fresh : s.fresh ≤ t.fresh
  halt : k = true → s.halted = true → t.halted = true

theorem Field.same_refl (f : Field) (s : State) : f.same s s := by cases f <;> rfl
theorem Field.same_trans {f : Field} {s t u : State} (a : f.same s t) (b : f.same t u) : f.same s u := by
  cases f <;> exact Eq.trans b a

theorem Keeps.refl (k : Bool) (m : Field → Bool) (s : State) : Keeps k m s s :=
  ⟨fun f _ => f.same_refl s, rfl, rfl, Nat.le_refl _, id, id, id, List.prefix_refl _, Nat.le_refl _, fun _ h => h⟩

theorem Keeps.trans {k : Bool} {m : Field → Bool} {s t u : State} (a : Keeps k m s t) (b : Keeps k m t u) : Keeps k m s u :=
  ⟨fun f h => Field.same_trans (a.same f h) (b.same f h), b.queue.trans a.queue, by rw [b.fuse, a.fuse], Nat.le_trans a.svn b.svn,
    b.mem ∘ a.mem, b.poison ∘ a.poison, b.host ∘ a.host, a.out.trans b.out, Nat.le_trans a.fresh b.fresh,
    fun h i => b.halt h (a.halt h i)⟩

/-- A step that leaves alone the fields of which more than equality is kept. -/
theorem Keeps.same' {k : Bool} {m : Field → Bool} {s t : State} (h : ∀ f, m f = true → f.same s t) (queue : t.pending = s.pending)
    (fuse : t.fuse = s.fuse) (mem : t.mem = s.mem) (poison : t.poison = s.poison) (host : t.atts = s.atts) (out : t.out = s.out)
    (fresh : s.fresh ≤ t.fresh) (halt : t.halted = s.halted) : Keeps k m s t := by
  refine ⟨h, queue, by rw [fuse], Nat.le_of_eq (by rw [fuse]), ?_, ?_, ?_, ⟨[], by rw [List.append_nil, out]⟩, fresh, ?_⟩
  · rw [mem]; exact id
  · rw [poison]; exact id
  · unfold hostWf; rw [host]; exact id
  · rw [halt]; exact fun _ h => h

/-- A part that the set leaves out need not agree. -/
theorem Spares.elim {m : Field → Bool} {f : Field} {p : Prop} [i : Spares m f] (h : m f = true) : p := by simp [i.eq] at h

theorem keeps_mk {k : Bool} {m : Field → Bool} {s0 s : State} (h : Keeps k m s0 s) :
    Keeps k m s0 (State.mk s.fuse s.now s.tick s.ptp s.rec' s.mgmt s.sec s.pwr s.pins s.links s.scratch s.media s.collInject s.updInject s.memc s.mem s.poison s.fab s.macs s.chans s.acc s.accGen s.res s.clbuf s.opbuf s.chipFixed s.vec s.upd s.atts s.parts s.served s.image s.halted s.fresh s.out s.pending) :=
  h.trans (Keeps.same' (fun f hf => by cases f <;> first | rfl | exact Spares.elim hf) rfl rfl rfl rfl rfl rfl (Nat.le_refl _) rfl)

theorem keeps_mk_acc {k : Bool} {m : Field → Bool} {s0 s : State} [Spares m .acc] (h : Keeps k m s0 s) {acc} :
    Keeps k m s0 (State.mk s.fuse s.now s.tick s.ptp s.rec' s.mgmt s.sec s.pwr s.pins s.links s.scratch s.media s.collInject s.updInject s.memc s.mem s.poison s.fab s.macs s.chans acc s.accGen s.res s.clbuf s.opbuf s.chipFixed s.vec s.upd s.atts s.parts s.served s.image s.halted s.fresh s.out s.pending) :=
  h.trans (Keeps.same' (fun f hf => by cases f <;> first | rfl | exact Spares.elim hf) rfl rfl rfl rfl rfl rfl (Nat.le_refl _) rfl)

theorem keeps_mk_chans {k : Bool} {m : Field → Bool} {s0 s : State} [Spares m .chans] (h : Keeps k m s0 s) {chans} :
    Keeps k m s0 (State.mk s.fuse s.now s.tick s.ptp s.rec' s.mgmt s.sec s.pwr s.pins s.links s.scratch s.media s.collInject s.updInject s.memc s.mem s.poison s.fab s.macs chans s.acc s.accGen s.res s.clbuf s.opbuf s.chipFixed s.vec s.upd s.atts s.parts s.served s.image s.halted s.fresh s.out s.pending) :=
  h.trans (Keeps.same' (fun f hf => by cases f <;> first | rfl | exact Spares.elim hf) rfl rfl rfl rfl rfl rfl (Nat.le_refl _) rfl)

theorem keeps_mk_chipFixed {k : Bool} {m : Field → Bool} {s0 s : State} [Spares m .chipFixed] (h : Keeps k m s0 s) {chipFixed} :
    Keeps k m s0 (State.mk s.fuse s.now s.tick s.ptp s.rec' s.mgmt s.sec s.pwr s.pins s.links s.scratch s.media s.collInject s.updInject s.memc s.mem s.poison s.fab s.macs s.chans s.acc s.accGen s.res s.clbuf s.opbuf chipFixed s.vec s.upd s.atts s.parts s.served s.image s.halted s.fresh s.out s.pending) :=
  h.trans (Keeps.same' (fun f hf => by cases f <;> first | rfl | exact Spares.elim hf) rfl rfl rfl rfl rfl rfl (Nat.le_refl _) rfl)

theorem keeps_mk_collInject {k : Bool} {m : Field → Bool} {s0 s : State} [Spares m .collInject] (h : Keeps k m s0 s) {collInject} :
    Keeps k m s0 (State.mk s.fuse s.now s.tick s.ptp s.rec' s.mgmt s.sec s.pwr s.pins s.links s.scratch s.media collInject s.updInject s.memc s.mem s.poison s.fab s.macs s.chans s.acc s.accGen s.res s.clbuf s.opbuf s.chipFixed s.vec s.upd s.atts s.parts s.served s.image s.halted s.fresh s.out s.pending) :=
  h.trans (Keeps.same' (fun f hf => by cases f <;> first | rfl | exact Spares.elim hf) rfl rfl rfl rfl rfl rfl (Nat.le_refl _) rfl)

theorem keeps_mk_fab {k : Bool} {m : Field → Bool} {s0 s : State} [Spares m .fab] (h : Keeps k m s0 s) {fab} :
    Keeps k m s0 (State.mk s.fuse s.now s.tick s.ptp s.rec' s.mgmt s.sec s.pwr s.pins s.links s.scratch s.media s.collInject s.updInject s.memc s.mem s.poison fab s.macs s.chans s.acc s.accGen s.res s.clbuf s.opbuf s.chipFixed s.vec s.upd s.atts s.parts s.served s.image s.halted s.fresh s.out s.pending) :=
  h.trans (Keeps.same' (fun f hf => by cases f <;> first | rfl | exact Spares.elim hf) rfl rfl rfl rfl rfl rfl (Nat.le_refl _) rfl)

theorem keeps_mk_fresh {k : Bool} {m : Field → Bool} {s0 s : State} [Spares m .fresh] (h : Keeps k m s0 s) :
    Keeps k m s0 (State.mk s.fuse s.now s.tick s.ptp s.rec' s.mgmt s.sec s.pwr s.pins s.links s.scratch s.media s.collInject s.updInject s.memc s.mem s.poison s.fab s.macs s.chans s.acc s.accGen s.res s.clbuf s.opbuf s.chipFixed s.vec s.upd s.atts s.parts s.served s.image s.halted (s.fresh + 1) s.out s.pending) :=
  h.trans (Keeps.same' (fun f hf => by cases f <;> first | rfl | exact Spares.elim hf) rfl rfl rfl rfl rfl rfl (Nat.le_succ _) rfl)

theorem keeps_mk_links {k : Bool} {m : Field → Bool} {s0 s : State} [Spares m .links] (h : Keeps k m s0 s) {links} :
    Keeps k m s0 (State.mk s.fuse s.now s.tick s.ptp s.rec' s.mgmt s.sec s.pwr s.pins links s.scratch s.media s.collInject s.updInject s.memc s.mem s.poison s.fab s.macs s.chans s.acc s.accGen s.res s.clbuf s.opbuf s.chipFixed s.vec s.upd s.atts s.parts s.served s.image s.halted s.fresh s.out s.pending) :=
  h.trans (Keeps.same' (fun f hf => by cases f <;> first | rfl | exact Spares.elim hf) rfl rfl rfl rfl rfl rfl (Nat.le_refl _) rfl)

theorem keeps_mk_macs {k : Bool} {m : Field → Bool} {s0 s : State} [Spares m .macs] (h : Keeps k m s0 s) {macs} :
    Keeps k m s0 (State.mk s.fuse s.now s.tick s.ptp s.rec' s.mgmt s.sec s.pwr s.pins s.links s.scratch s.media s.collInject s.updInject s.memc s.mem s.poison s.fab macs s.chans s.acc s.accGen s.res s.clbuf s.opbuf s.chipFixed s.vec s.upd s.atts s.parts s.served s.image s.halted s.fresh s.out s.pending) :=
  h.trans (Keeps.same' (fun f hf => by cases f <;> first | rfl | exact Spares.elim hf) rfl rfl rfl rfl rfl rfl (Nat.le_refl _) rfl)

theorem keeps_mk_media {k : Bool} {m : Field → Bool} {s0 s : State} [Spares m .media] (h : Keeps k m s0 s) {media} :
    Keeps k m s0 (State.mk s.fuse s.now s.tick s.ptp s.rec' s.mgmt s.sec s.pwr s.pins s.links s.scratch media s.collInject s.updInject s.memc s.mem s.poison s.fab s.macs s.chans s.acc s.accGen s.res s.clbuf s.opbuf s.chipFixed s.vec s.upd s.atts s.parts s.served s.image s.halted s.fresh s.out s.pending) :=
  h.trans (Keeps.same' (fun f hf => by cases f <;> first | rfl | exact Spares.elim hf) rfl rfl rfl rfl rfl rfl (Nat.le_refl _) rfl)

theorem keeps_mk_memc {k : Bool} {m : Field → Bool} {s0 s : State} [Spares m .memc] (h : Keeps k m s0 s) {memc} :
    Keeps k m s0 (State.mk s.fuse s.now s.tick s.ptp s.rec' s.mgmt s.sec s.pwr s.pins s.links s.scratch s.media s.collInject s.updInject memc s.mem s.poison s.fab s.macs s.chans s.acc s.accGen s.res s.clbuf s.opbuf s.chipFixed s.vec s.upd s.atts s.parts s.served s.image s.halted s.fresh s.out s.pending) :=
  h.trans (Keeps.same' (fun f hf => by cases f <;> first | rfl | exact Spares.elim hf) rfl rfl rfl rfl rfl rfl (Nat.le_refl _) rfl)

theorem keeps_mk_mgmt {k : Bool} {m : Field → Bool} {s0 s : State} [Spares m .mgmt] (h : Keeps k m s0 s) {mgmt} :
    Keeps k m s0 (State.mk s.fuse s.now s.tick s.ptp s.rec' mgmt s.sec s.pwr s.pins s.links s.scratch s.media s.collInject s.updInject s.memc s.mem s.poison s.fab s.macs s.chans s.acc s.accGen s.res s.clbuf s.opbuf s.chipFixed s.vec s.upd s.atts s.parts s.served s.image s.halted s.fresh s.out s.pending) :=
  h.trans (Keeps.same' (fun f hf => by cases f <;> first | rfl | exact Spares.elim hf) rfl rfl rfl rfl rfl rfl (Nat.le_refl _) rfl)

theorem keeps_mk_now {k : Bool} {m : Field → Bool} {s0 s : State} [Spares m .now] (h : Keeps k m s0 s) {now} :
    Keeps k m s0 (State.mk s.fuse now s.tick s.ptp s.rec' s.mgmt s.sec s.pwr s.pins s.links s.scratch s.media s.collInject s.updInject s.memc s.mem s.poison s.fab s.macs s.chans s.acc s.accGen s.res s.clbuf s.opbuf s.chipFixed s.vec s.upd s.atts s.parts s.served s.image s.halted s.fresh s.out s.pending) :=
  h.trans (Keeps.same' (fun f hf => by cases f <;> first | rfl | exact Spares.elim hf) rfl rfl rfl rfl rfl rfl (Nat.le_refl _) rfl)

theorem keeps_mk_parts {k : Bool} {m : Field → Bool} {s0 s : State} [Spares m .parts] (h : Keeps k m s0 s) {parts} :
    Keeps k m s0 (State.mk s.fuse s.now s.tick s.ptp s.rec' s.mgmt s.sec s.pwr s.pins s.links s.scratch s.media s.collInject s.updInject s.memc s.mem s.poison s.fab s.macs s.chans s.acc s.accGen s.res s.clbuf s.opbuf s.chipFixed s.vec s.upd s.atts parts s.served s.image s.halted s.fresh s.out s.pending) :=
  h.trans (Keeps.same' (fun f hf => by cases f <;> first | rfl | exact Spares.elim hf) rfl rfl rfl rfl rfl rfl (Nat.le_refl _) rfl)

theorem keeps_mk_pins {k : Bool} {m : Field → Bool} {s0 s : State} [Spares m .pins] (h : Keeps k m s0 s) {pins} :
    Keeps k m s0 (State.mk s.fuse s.now s.tick s.ptp s.rec' s.mgmt s.sec s.pwr pins s.links s.scratch s.media s.collInject s.updInject s.memc s.mem s.poison s.fab s.macs s.chans s.acc s.accGen s.res s.clbuf s.opbuf s.chipFixed s.vec s.upd s.atts s.parts s.served s.image s.halted s.fresh s.out s.pending) :=
  h.trans (Keeps.same' (fun f hf => by cases f <;> first | rfl | exact Spares.elim hf) rfl rfl rfl rfl rfl rfl (Nat.le_refl _) rfl)

theorem keeps_mk_ptp {k : Bool} {m : Field → Bool} {s0 s : State} [Spares m .ptp] (h : Keeps k m s0 s) {ptp} :
    Keeps k m s0 (State.mk s.fuse s.now s.tick ptp s.rec' s.mgmt s.sec s.pwr s.pins s.links s.scratch s.media s.collInject s.updInject s.memc s.mem s.poison s.fab s.macs s.chans s.acc s.accGen s.res s.clbuf s.opbuf s.chipFixed s.vec s.upd s.atts s.parts s.served s.image s.halted s.fresh s.out s.pending) :=
  h.trans (Keeps.same' (fun f hf => by cases f <;> first | rfl | exact Spares.elim hf) rfl rfl rfl rfl rfl rfl (Nat.le_refl _) rfl)

theorem keeps_mk_pwr {k : Bool} {m : Field → Bool} {s0 s : State} [Spares m .pwr] (h : Keeps k m s0 s) {pwr} :
    Keeps k m s0 (State.mk s.fuse s.now s.tick s.ptp s.rec' s.mgmt s.sec pwr s.pins s.links s.scratch s.media s.collInject s.updInject s.memc s.mem s.poison s.fab s.macs s.chans s.acc s.accGen s.res s.clbuf s.opbuf s.chipFixed s.vec s.upd s.atts s.parts s.served s.image s.halted s.fresh s.out s.pending) :=
  h.trans (Keeps.same' (fun f hf => by cases f <;> first | rfl | exact Spares.elim hf) rfl rfl rfl rfl rfl rfl (Nat.le_refl _) rfl)

theorem keeps_mk_rec {k : Bool} {m : Field → Bool} {s0 s : State} [Spares m .rec'] (h : Keeps k m s0 s) {xrec} :
    Keeps k m s0 (State.mk s.fuse s.now s.tick s.ptp xrec s.mgmt s.sec s.pwr s.pins s.links s.scratch s.media s.collInject s.updInject s.memc s.mem s.poison s.fab s.macs s.chans s.acc s.accGen s.res s.clbuf s.opbuf s.chipFixed s.vec s.upd s.atts s.parts s.served s.image s.halted s.fresh s.out s.pending) :=
  h.trans (Keeps.same' (fun f hf => by cases f <;> first | rfl | exact Spares.elim hf) rfl rfl rfl rfl rfl rfl (Nat.le_refl _) rfl)

theorem keeps_mk_res {k : Bool} {m : Field → Bool} {s0 s : State} [Spares m .res] (h : Keeps k m s0 s) {res} :
    Keeps k m s0 (State.mk s.fuse s.now s.tick s.ptp s.rec' s.mgmt s.sec s.pwr s.pins s.links s.scratch s.media s.collInject s.updInject s.memc s.mem s.poison s.fab s.macs s.chans s.acc s.accGen res s.clbuf s.opbuf s.chipFixed s.vec s.upd s.atts s.parts s.served s.image s.halted s.fresh s.out s.pending) :=
  h.trans (Keeps.same' (fun f hf => by cases f <;> first | rfl | exact Spares.elim hf) rfl rfl rfl rfl rfl rfl (Nat.le_refl _) rfl)

theorem keeps_mk_scratch {k : Bool} {m : Field → Bool} {s0 s : State} [Spares m .scratch] (h : Keeps k m s0 s) {scratch} :
    Keeps k m s0 (State.mk s.fuse s.now s.tick s.ptp s.rec' s.mgmt s.sec s.pwr s.pins s.links scratch s.media s.collInject s.updInject s.memc s.mem s.poison s.fab s.macs s.chans s.acc s.accGen s.res s.clbuf s.opbuf s.chipFixed s.vec s.upd s.atts s.parts s.served s.image s.halted s.fresh s.out s.pending) :=
  h.trans (Keeps.same' (fun f hf => by cases f <;> first | rfl | exact Spares.elim hf) rfl rfl rfl rfl rfl rfl (Nat.le_refl _) rfl)

theorem keeps_mk_sec {k : Bool} {m : Field → Bool} {s0 s : State} [Spares m .sec] (h : Keeps k m s0 s) {sec} :
    Keeps k m s0 (State.mk s.fuse s.now s.tick s.ptp s.rec' s.mgmt sec s.pwr s.pins s.links s.scratch s.media s.collInject s.updInject s.memc s.mem s.poison s.fab s.macs s.chans s.acc s.accGen s.res s.clbuf s.opbuf s.chipFixed s.vec s.upd s.atts s.parts s.served s.image s.halted s.fresh s.out s.pending) :=
  h.trans (Keeps.same' (fun f hf => by cases f <;> first | rfl | exact Spares.elim hf) rfl rfl rfl rfl rfl rfl (Nat.le_refl _) rfl)

theorem keeps_mk_served {k : Bool} {m : Field → Bool} {s0 s : State} [Spares m .served] (h : Keeps k m s0 s) {served} :
    Keeps k m s0 (State.mk s.fuse s.now s.tick s.ptp s.rec' s.mgmt s.sec s.pwr s.pins s.links s.scratch s.media s.collInject s.updInject s.memc s.mem s.poison s.fab s.macs s.chans s.acc s.accGen s.res s.clbuf s.opbuf s.chipFixed s.vec s.upd s.atts s.parts served s.image s.halted s.fresh s.out s.pending) :=
  h.trans (Keeps.same' (fun f hf => by cases f <;> first | rfl | exact Spares.elim hf) rfl rfl rfl rfl rfl rfl (Nat.le_refl _) rfl)

theorem keeps_mk_tick {k : Bool} {m : Field → Bool} {s0 s : State} [Spares m .tick] (h : Keeps k m s0 s) {tick} :
    Keeps k m s0 (State.mk s.fuse s.now tick s.ptp s.rec' s.mgmt s.sec s.pwr s.pins s.links s.scratch s.media s.collInject s.updInject s.memc s.mem s.poison s.fab s.macs s.chans s.acc s.accGen s.res s.clbuf s.opbuf s.chipFixed s.vec s.upd s.atts s.parts s.served s.image s.halted s.fresh s.out s.pending) :=
  h.trans (Keeps.same' (fun f hf => by cases f <;> first | rfl | exact Spares.elim hf) rfl rfl rfl rfl rfl rfl (Nat.le_refl _) rfl)

theorem keeps_mk_upd {k : Bool} {m : Field → Bool} {s0 s : State} [Spares m .upd] (h : Keeps k m s0 s) {upd} :
    Keeps k m s0 (State.mk s.fuse s.now s.tick s.ptp s.rec' s.mgmt s.sec s.pwr s.pins s.links s.scratch s.media s.collInject s.updInject s.memc s.mem s.poison s.fab s.macs s.chans s.acc s.accGen s.res s.clbuf s.opbuf s.chipFixed s.vec upd s.atts s.parts s.served s.image s.halted s.fresh s.out s.pending) :=
  h.trans (Keeps.same' (fun f hf => by cases f <;> first | rfl | exact Spares.elim hf) rfl rfl rfl rfl rfl rfl (Nat.le_refl _) rfl)

theorem keeps_mk_updInject {k : Bool} {m : Field → Bool} {s0 s : State} [Spares m .updInject] (h : Keeps k m s0 s) {updInject} :
    Keeps k m s0 (State.mk s.fuse s.now s.tick s.ptp s.rec' s.mgmt s.sec s.pwr s.pins s.links s.scratch s.media s.collInject updInject s.memc s.mem s.poison s.fab s.macs s.chans s.acc s.accGen s.res s.clbuf s.opbuf s.chipFixed s.vec s.upd s.atts s.parts s.served s.image s.halted s.fresh s.out s.pending) :=
  h.trans (Keeps.same' (fun f hf => by cases f <;> first | rfl | exact Spares.elim hf) rfl rfl rfl rfl rfl rfl (Nat.le_refl _) rfl)

theorem keeps_mk_vec {k : Bool} {m : Field → Bool} {s0 s : State} [Spares m .vec] (h : Keeps k m s0 s) {vec} :
    Keeps k m s0 (State.mk s.fuse s.now s.tick s.ptp s.rec' s.mgmt s.sec s.pwr s.pins s.links s.scratch s.media s.collInject s.updInject s.memc s.mem s.poison s.fab s.macs s.chans s.acc s.accGen s.res s.clbuf s.opbuf s.chipFixed vec s.upd s.atts s.parts s.served s.image s.halted s.fresh s.out s.pending) :=
  h.trans (Keeps.same' (fun f hf => by cases f <;> first | rfl | exact Spares.elim hf) rfl rfl rfl rfl rfl rfl (Nat.le_refl _) rfl)

theorem keeps_mk_now_parts {k : Bool} {m : Field → Bool} {s0 s : State} [Spares m .now] [Spares m .parts] (h : Keeps k m s0 s) {now parts} :
    Keeps k m s0 (State.mk s.fuse now s.tick s.ptp s.rec' s.mgmt s.sec s.pwr s.pins s.links s.scratch s.media s.collInject s.updInject s.memc s.mem s.poison s.fab s.macs s.chans s.acc s.accGen s.res s.clbuf s.opbuf s.chipFixed s.vec s.upd s.atts parts s.served s.image s.halted s.fresh s.out s.pending) :=
  h.trans (Keeps.same' (fun f hf => by cases f <;> first | rfl | exact Spares.elim hf) rfl rfl rfl rfl rfl rfl (Nat.le_refl _) rfl)

theorem keeps_mk_pins_memc {k : Bool} {m : Field → Bool} {s0 s : State} [Spares m .pins] [Spares m .memc] (h : Keeps k m s0 s) {pins memc} :
    Keeps k m s0 (State.mk s.fuse s.now s.tick s.ptp s.rec' s.mgmt s.sec s.pwr pins s.links s.scratch s.media s.collInject s.updInject memc s.mem s.poison s.fab s.macs s.chans s.acc s.accGen s.res s.clbuf s.opbuf s.chipFixed s.vec s.upd s.atts s.parts s.served s.image s.halted s.fresh s.out s.pending) :=
  h.trans (Keeps.same' (fun f hf => by cases f <;> first | rfl | exact Spares.elim hf) rfl rfl rfl rfl rfl rfl (Nat.le_refl _) rfl)

theorem keeps_mk_pwr_image {k : Bool} {m : Field → Bool} {s0 s : State} [Spares m .pwr] [Spares m .image] (h : Keeps k m s0 s) {pwr image} :
    Keeps k m s0 (State.mk s.fuse s.now s.tick s.ptp s.rec' s.mgmt s.sec pwr s.pins s.links s.scratch s.media s.collInject s.updInject s.memc s.mem s.poison s.fab s.macs s.chans s.acc s.accGen s.res s.clbuf s.opbuf s.chipFixed s.vec s.upd s.atts s.parts s.served image s.halted s.fresh s.out s.pending) :=
  h.trans (Keeps.same' (fun f hf => by cases f <;> first | rfl | exact Spares.elim hf) rfl rfl rfl rfl rfl rfl (Nat.le_refl _) rfl)

theorem keeps_mk_pwr_memc {k : Bool} {m : Field → Bool} {s0 s : State} [Spares m .pwr] [Spares m .memc] (h : Keeps k m s0 s) {pwr memc} :
    Keeps k m s0 (State.mk s.fuse s.now s.tick s.ptp s.rec' s.mgmt s.sec pwr s.pins s.links s.scratch s.media s.collInject s.updInject memc s.mem s.poison s.fab s.macs s.chans s.acc s.accGen s.res s.clbuf s.opbuf s.chipFixed s.vec s.upd s.atts s.parts s.served s.image s.halted s.fresh s.out s.pending) :=
  h.trans (Keeps.same' (fun f hf => by cases f <;> first | rfl | exact Spares.elim hf) rfl rfl rfl rfl rfl rfl (Nat.le_refl _) rfl)

theorem keeps_mk_pwr_pins {k : Bool} {m : Field → Bool} {s0 s : State} [Spares m .pwr] [Spares m .pins] (h : Keeps k m s0 s) {pwr pins} :
    Keeps k m s0 (State.mk s.fuse s.now s.tick s.ptp s.rec' s.mgmt s.sec pwr pins s.links s.scratch s.media s.collInject s.updInject s.memc s.mem s.poison s.fab s.macs s.chans s.acc s.accGen s.res s.clbuf s.opbuf s.chipFixed s.vec s.upd s.atts s.parts s.served s.image s.halted s.fresh s.out s.pending) :=
  h.trans (Keeps.same' (fun f hf => by cases f <;> first | rfl | exact Spares.elim hf) rfl rfl rfl rfl rfl rfl (Nat.le_refl _) rfl)

theorem keeps_mk_tick_mgmt {k : Bool} {m : Field → Bool} {s0 s : State} [Spares m .tick] [Spares m .mgmt] (h : Keeps k m s0 s) {tick mgmt} :
    Keeps k m s0 (State.mk s.fuse s.now tick s.ptp s.rec' mgmt s.sec s.pwr s.pins s.links s.scratch s.media s.collInject s.updInject s.memc s.mem s.poison s.fab s.macs s.chans s.acc s.accGen s.res s.clbuf s.opbuf s.chipFixed s.vec s.upd s.atts s.parts s.served s.image s.halted s.fresh s.out s.pending) :=
  h.trans (Keeps.same' (fun f hf => by cases f <;> first | rfl | exact Spares.elim hf) rfl rfl rfl rfl rfl rfl (Nat.le_refl _) rfl)

theorem keeps_mk_tick_parts {k : Bool} {m : Field → Bool} {s0 s : State} [Spares m .tick] [Spares m .parts] (h : Keeps k m s0 s) {tick parts} :
    Keeps k m s0 (State.mk s.fuse s.now tick s.ptp s.rec' s.mgmt s.sec s.pwr s.pins s.links s.scratch s.media s.collInject s.updInject s.memc s.mem s.poison s.fab s.macs s.chans s.acc s.accGen s.res s.clbuf s.opbuf s.chipFixed s.vec s.upd s.atts parts s.served s.image s.halted s.fresh s.out s.pending) :=
  h.trans (Keeps.same' (fun f hf => by cases f <;> first | rfl | exact Spares.elim hf) rfl rfl rfl rfl rfl rfl (Nat.le_refl _) rfl)

theorem keeps_mk_tick_pins {k : Bool} {m : Field → Bool} {s0 s : State} [Spares m .tick] [Spares m .pins] (h : Keeps k m s0 s) {tick pins} :
    Keeps k m s0 (State.mk s.fuse s.now tick s.ptp s.rec' s.mgmt s.sec s.pwr pins s.links s.scratch s.media s.collInject s.updInject s.memc s.mem s.poison s.fab s.macs s.chans s.acc s.accGen s.res s.clbuf s.opbuf s.chipFixed s.vec s.upd s.atts s.parts s.served s.image s.halted s.fresh s.out s.pending) :=
  h.trans (Keeps.same' (fun f hf => by cases f <;> first | rfl | exact Spares.elim hf) rfl rfl rfl rfl rfl rfl (Nat.le_refl _) rfl)

theorem keeps_mk_tick_ptp {k : Bool} {m : Field → Bool} {s0 s : State} [Spares m .tick] [Spares m .ptp] (h : Keeps k m s0 s) {tick ptp} :
    Keeps k m s0 (State.mk s.fuse s.now tick ptp s.rec' s.mgmt s.sec s.pwr s.pins s.links s.scratch s.media s.collInject s.updInject s.memc s.mem s.poison s.fab s.macs s.chans s.acc s.accGen s.res s.clbuf s.opbuf s.chipFixed s.vec s.upd s.atts s.parts s.served s.image s.halted s.fresh s.out s.pending) :=
  h.trans (Keeps.same' (fun f hf => by cases f <;> first | rfl | exact Spares.elim hf) rfl rfl rfl rfl rfl rfl (Nat.le_refl _) rfl)

theorem keeps_mk_vec_upd {k : Bool} {m : Field → Bool} {s0 s : State} [Spares m .vec] [Spares m .upd] (h : Keeps k m s0 s) {vec upd} :
    Keeps k m s0 (State.mk s.fuse s.now s.tick s.ptp s.rec' s.mgmt s.sec s.pwr s.pins s.links s.scratch s.media s.collInject s.updInject s.memc s.mem s.poison s.fab s.macs s.chans s.acc s.accGen s.res s.clbuf s.opbuf s.chipFixed vec upd s.atts s.parts s.served s.image s.halted s.fresh s.out s.pending) :=
  h.trans (Keeps.same' (fun f hf => by cases f <;> first | rfl | exact Spares.elim hf) rfl rfl rfl rfl rfl rfl (Nat.le_refl _) rfl)

theorem keeps_mk_acc_accGen_fresh {k : Bool} {m : Field → Bool} {s0 s : State} [Spares m .acc] [Spares m .accGen] [Spares m .fresh] (h : Keeps k m s0 s) {acc accGen} :
    Keeps k m s0 (State.mk s.fuse s.now s.tick s.ptp s.rec' s.mgmt s.sec s.pwr s.pins s.links s.scratch s.media s.collInject s.updInject s.memc s.mem s.poison s.fab s.macs s.chans acc accGen s.res s.clbuf s.opbuf s.chipFixed s.vec s.upd s.atts s.parts s.served s.image s.halted (s.fresh + 1) s.out s.pending) :=
  h.trans (Keeps.same' (fun f hf => by cases f <;> first | rfl | exact Spares.elim hf) rfl rfl rfl rfl rfl rfl (Nat.le_succ _) rfl)

theorem keeps_mk_clbuf_opbuf_fresh {k : Bool} {m : Field → Bool} {s0 s : State} [Spares m .clbuf] [Spares m .opbuf] [Spares m .fresh] (h : Keeps k m s0 s) {clbuf opbuf} :
    Keeps k m s0 (State.mk s.fuse s.now s.tick s.ptp s.rec' s.mgmt s.sec s.pwr s.pins s.links s.scratch s.media s.collInject s.updInject s.memc s.mem s.poison s.fab s.macs s.chans s.acc s.accGen s.res clbuf opbuf s.chipFixed s.vec s.upd s.atts s.parts s.served s.image s.halted (s.fresh + 1) s.out s.pending) :=
  h.trans (Keeps.same' (fun f hf => by cases f <;> first | rfl | exact Spares.elim hf) rfl rfl rfl rfl rfl rfl (Nat.le_succ _) rfl)

theorem keeps_mk_tick_mgmt_pins {k : Bool} {m : Field → Bool} {s0 s : State} [Spares m .tick] [Spares m .mgmt] [Spares m .pins] (h : Keeps k m s0 s) {tick mgmt pins} :
    Keeps k m s0 (State.mk s.fuse s.now tick s.ptp s.rec' mgmt s.sec s.pwr pins s.links s.scratch s.media s.collInject s.updInject s.memc s.mem s.poison s.fab s.macs s.chans s.acc s.accGen s.res s.clbuf s.opbuf s.chipFixed s.vec s.upd s.atts s.parts s.served s.image s.halted s.fresh s.out s.pending) :=
  h.trans (Keeps.same' (fun f hf => by cases f <;> first | rfl | exact Spares.elim hf) rfl rfl rfl rfl rfl rfl (Nat.le_refl _) rfl)

theorem keeps_mk_tick_mgmt_pwr {k : Bool} {m : Field → Bool} {s0 s : State} [Spares m .tick] [Spares m .mgmt] [Spares m .pwr] (h : Keeps k m s0 s) {tick mgmt pwr} :
    Keeps k m s0 (State.mk s.fuse s.now tick s.ptp s.rec' mgmt s.sec pwr s.pins s.links s.scratch s.media s.collInject s.updInject s.memc s.mem s.poison s.fab s.macs s.chans s.acc s.accGen s.res s.clbuf s.opbuf s.chipFixed s.vec s.upd s.atts s.parts s.served s.image s.halted s.fresh s.out s.pending) :=
  h.trans (Keeps.same' (fun f hf => by cases f <;> first | rfl | exact Spares.elim hf) rfl rfl rfl rfl rfl rfl (Nat.le_refl _) rfl)

theorem keeps_mk_acc_accGen_res_opbuf {k : Bool} {m : Field → Bool} {s0 s : State} [Spares m .acc] [Spares m .accGen] [Spares m .res] [Spares m .opbuf] (h : Keeps k m s0 s) {acc accGen res opbuf} :
    Keeps k m s0 (State.mk s.fuse s.now s.tick s.ptp s.rec' s.mgmt s.sec s.pwr s.pins s.links s.scratch s.media s.collInject s.updInject s.memc s.mem s.poison s.fab s.macs s.chans acc accGen res s.clbuf opbuf s.chipFixed s.vec s.upd s.atts s.parts s.served s.image s.halted s.fresh s.out s.pending) :=
  h.trans (Keeps.same' (fun f hf => by cases f <;> first | rfl | exact Spares.elim hf) rfl rfl rfl rfl rfl rfl (Nat.le_refl _) rfl)

theorem keeps_mk_now_tick_pwr_parts {k : Bool} {m : Field → Bool} {s0 s : State} [Spares m .now] [Spares m .tick] [Spares m .pwr] [Spares m .parts] (h : Keeps k m s0 s) {now tick pwr parts} :
    Keeps k m s0 (State.mk s.fuse now tick s.ptp s.rec' s.mgmt s.sec pwr s.pins s.links s.scratch s.media s.collInject s.updInject s.memc s.mem s.poison s.fab s.macs s.chans s.acc s.accGen s.res s.clbuf s.opbuf s.chipFixed s.vec s.upd s.atts parts s.served s.image s.halted s.fresh s.out s.pending) :=
  h.trans (Keeps.same' (fun f hf => by cases f <;> first | rfl | exact Spares.elim hf) rfl rfl rfl rfl rfl rfl (Nat.le_refl _) rfl)

theorem keeps_mk_tick_pwr_fab_parts {k : Bool} {m : Field → Bool} {s0 s : State} [Spares m .tick] [Spares m .pwr] [Spares m .fab] [Spares m .parts] (h : Keeps k m s0 s) {tick pwr fab parts} :
    Keeps k m s0 (State.mk s.fuse s.now tick s.ptp s.rec' s.mgmt s.sec pwr s.pins s.links s.scratch s.media s.collInject s.updInject s.memc s.mem s.poison fab s.macs s.chans s.acc s.accGen s.res s.clbuf s.opbuf s.chipFixed s.vec s.upd s.atts parts s.served s.image s.halted s.fresh s.out s.pending) :=
  h.trans (Keeps.same' (fun f hf => by cases f <;> first | rfl | exact Spares.elim hf) rfl rfl rfl rfl rfl rfl (Nat.le_refl _) rfl)

theorem keeps_mk_tick_mgmt_pins_memc_fab {k : Bool} {m : Field → Bool} {s0 s : State} [Spares m .tick] [Spares m .mgmt] [Spares m .pins] [Spares m .memc] [Spares m .fab] (h : Keeps k m s0 s) {tick mgmt pins memc fab} :
    Keeps k m s0 (State.mk s.fuse s.now tick s.ptp s.rec' mgmt s.sec s.pwr pins s.links s.scratch s.media s.collInject s.updInject memc s.mem s.poison fab s.macs s.chans s.acc s.accGen s.res s.clbuf s.opbuf s.chipFixed s.vec s.upd s.atts s.parts s.served s.image s.halted s.fresh s.out s.pending) :=
  h.trans (Keeps.same' (fun f hf => by cases f <;> first | rfl | exact Spares.elim hf) rfl rfl rfl rfl rfl rfl (Nat.le_refl _) rfl)

theorem keeps_mk_tick_mgmt_pwr_links_scratch_media_collInject_updInject_memc_fab_image {k : Bool} {m : Field → Bool} {s0 s : State} [Spares m .tick] [Spares m .mgmt] [Spares m .pwr] [Spares m .links] [Spares m .scratch] [Spares m .media] [Spares m .collInject] [Spares m .updInject] [Spares m .memc] [Spares m .fab] [Spares m .image] (h : Keeps k m s0 s) {tick mgmt pwr links scratch media collInject updInject memc fab image} :
    Keeps k m s0 (State.mk s.fuse s.now tick s.ptp s.rec' mgmt s.sec pwr s.pins links scratch media collInject updInject memc s.mem s.poison fab s.macs s.chans s.acc s.accGen s.res s.clbuf s.opbuf s.chipFixed s.vec s.upd s.atts s.parts s.served image s.halted s.fresh s.out s.pending) :=
  h.trans (Keeps.same' (fun f hf => by cases f <;> first | rfl | exact Spares.elim hf) rfl rfl rfl rfl rfl rfl (Nat.le_refl _) rfl)

theorem keeps_ite {k : Bool} {m : Field → Bool} {s0 a b : State} {c : Prop} [Decidable c] (ha : Keeps k m s0 a) (hb : Keeps k m s0 b) :
    Keeps k m s0 (if c then a else b) := by
  split
  · exact ha
  · exact hb

theorem keeps_iteP {α : Type} {k : Bool} {m : Field → Bool} {s0 : State} {a b : State × α} {c : Prop} [Decidable c] (ha : Keeps k m s0 a.1)
    (hb : Keeps k m s0 b.1) : Keeps k m s0 (if c then a else b).1 := by
  split
  · exact ha
  · exact hb

theorem keeps_iteR {k : Bool} {m : Field → Bool} {s0 : State} {a b : Run} {c : Prop} [Decidable c] (ha : Keeps k m s0 a.s)
    (hb : Keeps k m s0 b.s) : Keeps k m s0 (if c then a else b).s := by
  split
  · exact ha
  · exact hb

theorem keeps_foldS {α : Type} {k : Bool} {m : Field → Bool} {s0 : State} {f : State → α → State} (hf : ∀ t a, Keeps k m s0 t → Keeps k m s0 (f t a)) :
    ∀ {l : List α} {s : State}, Keeps k m s0 s → Keeps k m s0 (foldS f s l)
  | [], _, h => h
  | a :: _, _, h => by unfold foldS; exact keeps_foldS hf (hf _ a h)

/-- The same for a fold over a run of an operation. -/
theorem keeps_foldR {α : Type} {k : Bool} {m : Field → Bool} {s0 : State} {f : Run → α → Run} (hf : ∀ w a, Keeps k m s0 w.s → Keeps k m s0 (f w a).s) :
    ∀ {l : List α} {r : Run}, Keeps k m s0 r.s → Keeps k m s0 (foldS f r l).s
  | [], _, h => h
  | a :: _, _, h => by unfold foldS; exact keeps_foldR hf (hf _ a h)

theorem keeps_foldV {α : Type} {k : Bool} {m : Field → Bool} {s0 : State} {f : VCtx → α → VCtx}
    (hf : ∀ w a, Keeps k m s0 w.run.s → Keeps k m s0 (f w a).run.s) :
    ∀ {l : List α} {r : VCtx}, Keeps k m s0 r.run.s → Keeps k m s0 (foldS f r l).run.s
  | [], _, h => h
  | a :: _, _, h => by unfold foldS; exact keeps_foldV hf (hf _ a h)

/-- The same for a fold that also gathers a value. -/
theorem keeps_foldP {α β : Type} {k : Bool} {m : Field → Bool} {s0 : State} {f : State × β → α → State × β}
    (hf : ∀ w a, Keeps k m s0 w.1 → Keeps k m s0 (f w a).1) :
    ∀ {l : List α} {r : State × β}, Keeps k m s0 r.1 → Keeps k m s0 (foldS f r l).1
  | [], _, h => h
  | a :: _, _, h => by unfold foldS; exact keeps_foldP hf (hf _ a h)

theorem keeps_foldRP {α β : Type} {k : Bool} {m : Field → Bool} {s0 : State} {f : Run × β → α → Run × β}
    (hf : ∀ w a, Keeps k m s0 w.1.s → Keeps k m s0 (f w a).1.s) :
    ∀ {l : List α} {r : Run × β}, Keeps k m s0 r.1.s → Keeps k m s0 (foldS f r l).1.s
  | [], _, h => h
  | a :: _, _, h => by unfold foldS; exact keeps_foldRP hf (hf _ a h)

theorem keeps_foldQ {α β : Type} {k : Bool} {m : Field → Bool} {s0 : State} {f : β × State → α → β × State}
    (hf : ∀ w a, Keeps k m s0 w.2 → Keeps k m s0 (f w a).2) :
    ∀ {l : List α} {r : β × State}, Keeps k m s0 r.2 → Keeps k m s0 (foldS f r l).2
  | [], _, h => h
  | a :: _, _, h => by unfold foldS; exact keeps_foldQ hf (hf _ a h)

/-- An outcome whose next state keeps what a command keeps. -/
def OutKeeps (k : Bool) (m : Field → Bool) (s : State) (o : Host.Outcome State Fault Refusal) : Prop := ∀ t, o = .next t → Keeps k m s t

theorem outKeeps_next {k : Bool} {m : Field → Bool} {s t : State} (h : Keeps k m s t) : OutKeeps k m s (.next t) := by
  rintro u ⟨⟩; exact h
theorem outKeeps_refused {k : Bool} {m : Field → Bool} {s : State} {r : Refusal} : OutKeeps k m s (.refused r) := by rintro u ⟨⟩

/-! ## Memory -/

theorem State.emit_keeps {k m s0} [Spares m .out] (s : State) (o : Out) (h : Keeps k m s0 s) : Keeps k m s0 (s.emit o) :=
  h.trans ⟨fun f hf => by cases f <;> first | rfl | exact Spares.elim hf, rfl, rfl, Nat.le_refl _, id, id, id, List.prefix_append _ _, Nat.le_refl _, fun _ h => h⟩

theorem State.free_keeps {k m s0} [Spares m .fresh] (s : State) (h : Keeps k m s0 s) : Keeps k m s0 s.free.2 := by
  exact keeps_mk_fresh h

theorem State.wr_keeps {k m s0} [Spares m .mem] (s : State) (a : Nat) (b : Byte) (h : Keeps k m s0 s) : Keeps k m s0 (s.wr a b) := by
  unfold State.wr
  split
  · exact h.trans ⟨fun f hf => by cases f <;> first | rfl | exact Spares.elim hf, rfl, rfl, Nat.le_refl _, twf_tset _ _, id, id, List.prefix_refl _, Nat.le_refl _, fun _ h => h⟩
  · exact h

theorem State.wrRaw_keeps {k m s0} [Spares m .mem] : ∀ (bs : List Byte) (s : State) (a : Nat), Keeps k m s0 s → Keeps k m s0 (s.wrRaw a bs)
  | [], _, _, h => h
  | b :: bs, s, a, h => State.wrRaw_keeps bs _ _ (State.wr_keeps s a b h)

theorem State.unpoison_keeps {k m s0} [Spares m .poison] (s : State) (a : Nat) (h : Keeps k m s0 s) : Keeps k m s0 (s.unpoison a) := by
  unfold State.unpoison
  split
  · exact h.trans ⟨fun f hf => by cases f <;> first | rfl | exact Spares.elim hf, rfl, rfl, Nat.le_refl _, id, srise_filter _, id, List.prefix_refl _, Nat.le_refl _, fun _ h => h⟩
  · exact h

theorem State.setPoison_keeps {k m s0} [Spares m .poison] (s : State) (a : Nat) (h : Keeps k m s0 s) : Keeps k m s0 (s.setPoison a) := by
  unfold State.setPoison
  split
  · exact h.trans ⟨fun f hf => by cases f <;> first | rfl | exact Spares.elim hf, rfl, rfl, Nat.le_refl _, id, srise_sinsert _ (Nat.zero_le _), id, List.prefix_refl _, Nat.le_refl _, fun _ h => h⟩
  · exact h

theorem State.wrBytes_keeps {k m s0} [Spares m .mem] [Spares m .poison] (s : State) (a : Nat) (bs : List Byte) (h : Keeps k m s0 s) : Keeps k m s0 (s.wrBytes a bs) :=
  keeps_foldS (fun t a => State.unpoison_keeps t a) (State.wrRaw_keeps bs s a h)

theorem State.wrN_keeps {k m s0} [Spares m .mem] [Spares m .poison] (s : State) (a n x : Nat) (h : Keeps k m s0 s) : Keeps k m s0 (s.wrN a n x) :=
  State.wrBytes_keeps s a _ h

theorem State.zeroRange_keeps {k m s0} [Spares m .mem] [Spares m .poison] (s : State) (lo n : Nat) (h : Keeps k m s0 s) : Keeps k m s0 (s.zeroRange lo n) :=
  h.trans ⟨fun f hf => by cases f <;> first | rfl | exact Spares.elim hf, rfl, rfl, Nat.le_refl _, twf_filter _, srise_filter _, id, List.prefix_refl _, Nat.le_refl _, fun _ h => h⟩

theorem Memory.wf_cellsWrite : ∀ (bs : List Byte) (m : List Host.Cell) (a : Nat),
    Memory.wf m = true → Memory.wf (cellsWrite m a bs) = true
  | [], _, _, h => h
  | _ :: bs, _, _, h => Memory.wf_cellsWrite bs _ _ (twf_tset _ _ h)

theorem srise_foldS_serase : ∀ (ls : List Nat) {l : List Nat}, srise 0 l = true →
    srise 0 (foldS (fun l x => serase l (x / 64)) l ls) = true
  | [], _, h => h
  | _ :: ls, _, h => srise_foldS_serase ls (srise_filter _ h)

/-- Setting an attachment whose host memory is in canonical form. -/
theorem State.setAtt_keeps {k m s0} [Spares m .atts] (s : State) (a : Nat) (v : Attach) (h : Keeps k m s0 s)
    (hv : hostWf s = true → (Memory.wf v.mem && srise 0 v.poison) = true) : Keeps k m s0 (s.setAtt a v) := by
  refine h.trans ⟨fun f hf => by cases f <;> first | rfl | exact Spares.elim hf, rfl, rfl, Nat.le_refl _, id, id, fun hs => ?_, List.prefix_refl _, Nat.le_refl _, fun _ h => h⟩
  have hw := Bool.and_eq_true_iff.1 (hv hs)
  simp only [hostWf, Bool.and_eq_true, List.all_eq_true] at hs ⊢
  refine ⟨twf_tset _ _ hs.1, fun e he => ?_⟩
  have hs := hs.2
  simp only [State.setAtt, tset] at he
  split at he
  · exact hs e ((List.mem_filter.1 he).1)
  · rcases mem_tput he with rfl | he
    · exact hw
    · exact hs e he

theorem tlook_mem {α : Type} {k : Nat} {v : α} : ∀ {l : List (Nat × α)}, tlook l k = some v → (k, v) ∈ l
  | [], h => by simp [tlook] at h
  | (j, w) :: t, h => by
    unfold tlook at h
    split at h
    · simp_all
    · exact List.mem_cons_of_mem _ (tlook_mem h)

/-- Each host memory of a sound state and its poison are in canonical form. -/
theorem State.att_wf {s : State} (h : hostWf s = true) (a : Nat) : (Memory.wf (s.att a).mem && srise 0 (s.att a).poison) = true := by
  unfold State.att tget
  cases e : tlook s.atts a with
  | none => rfl
  | some v => exact List.all_eq_true.1 (Bool.and_eq_true_iff.1 h).2 _ (tlook_mem e)

theorem State.hostWr_keeps {k m s0} [Spares m .atts] (s : State) (att a : Nat) (bs : List Byte) (h : Keeps k m s0 s) :
    Keeps k m s0 (s.hostWr att a bs) :=
  State.setAtt_keeps s att _ h fun hs => by
    have g := Bool.and_eq_true_iff.1 (State.att_wf hs att)
    exact Bool.and_eq_true_iff.2 ⟨Memory.wf_cellsWrite bs _ _ g.1, srise_foldS_serase _ g.2⟩

theorem State.hostPoison_keeps {k m s0} [Spares m .atts] (s : State) (att a : Nat) (h : Keeps k m s0 s) :
    Keeps k m s0 (s.hostPoison att a) :=
  State.setAtt_keeps s att _ h fun hs => by
    have g := Bool.and_eq_true_iff.1 (State.att_wf hs att)
    exact Bool.and_eq_true_iff.2 ⟨g.1, srise_sinsert _ (Nat.zero_le _) g.2⟩

theorem State.hostStore_keeps {k m s0} [Spares m .atts] (s : State) (att : Nat) (l : List (Nat × List Byte)) (h : Keeps k m s0 s) :
    Keeps k m s0 (s.hostStore att l) := by
  unfold State.hostStore
  exact keeps_foldS (fun t e ht => State.hostWr_keeps t att e.1 e.2 ht) h

theorem State.noteAccess_keeps {k m s0} [Spares m .mgmt] (s : State) (a n : Nat) (write : Bool) (h : Keeps k m s0 s) :
    Keeps k m s0 (s.noteAccess a n write) := by
  unfold State.noteAccess
  split
  · exact keeps_mk_mgmt h
  · exact h

theorem State.freeEngines_keeps {k m s0} [Spares m .vec] [Spares m .upd] (s : State) (gone : DRef → Bool) (h : Keeps k m s0 s) :
    Keeps k m s0 (s.freeEngines gone) :=
  keeps_mk_vec_upd h

theorem State.setPart_keeps {k m s0} [Spares m .parts] (s : State) (p : Nat) (v : Part) (h : Keeps k m s0 s) : Keeps k m s0 (s.setPart p v) :=
  keeps_mk_parts h
theorem State.updPart_keeps {k m s0} [Spares m .parts] (s : State) (p : Nat) (f : Part → Part) (h : Keeps k m s0 s) : Keeps k m s0 (s.updPart p f) :=
  keeps_mk_parts h
theorem State.updDesc_keeps {k m s0} [Spares m .parts] (s : State) (r : DRef) (f : Desc → Desc) (h : Keeps k m s0 s) : Keeps k m s0 (s.updDesc r f) :=
  keeps_mk_parts h

end Sys2Proof.Machine
end

