-- ==== Sys2Proof/Laws/KeepsFlags.lean ====
section
/-!
SUPPORT. That each function of Machine/Flags.lean keeps what a command keeps (`Keeps`, `OutKeeps`).
-/

namespace Sys2Proof.Machine

theorem State.replaceFatal_keeps {k m s0} [Spares m .rec'] (s) (bytes) (h : Keeps k m s0 s) :
    Keeps k m s0 (State.replaceFatal s bytes) := by
  unfold State.replaceFatal; grind -lia -linarith -ring -order [keeps_mk_rec]

theorem State.record_keeps {k m s0} [Spares m .rec'] (s) (src) (code) (sev) (part) (die) (payload) (h : Keeps k m s0 s) :
    Keeps k m s0 (State.record s src code sev part die payload) := by
  unfold State.record; grind -lia -linarith -ring -order [State.replaceFatal_keeps, keeps_mk_rec]

theorem State.signal_keeps {k m s0} [Spares m .parts] [Spares m .out] (s) (p) (vec) (h : Keeps k m s0 s) :
    Keeps k m s0 (State.signal s p vec) := by
  unfold State.signal; grind -lia -linarith -ring -order [State.setPart_keeps, State.emit_keeps]

theorem State.flushVector_keeps {k m s0} [Spares m .parts] [Spares m .out] (s) (p) (vec) (h : Keeps k m s0 s) :
    Keeps k m s0 (State.flushVector s p vec) := by
  unfold State.flushVector; grind -lia -linarith -ring -order [State.emit_keeps, State.setPart_keeps]

theorem State.testWait_keeps {k m s0} [Spares m .parts] (s) (r) (h : Keeps k m s0 s) :
    Keeps k m s0 (State.testWait s r) := by
  unfold State.testWait; grind -lia -linarith -ring -order [State.updDesc_keeps]

theorem State.testWaits_keeps {k m s0} [Spares m .parts] (s) (p) (h : Keeps k m s0 s) :
    Keeps k m s0 (State.testWaits s p) := by
  unfold State.testWaits; grind -lia -linarith -ring -order [keeps_foldS, State.testWait_keeps]

theorem State.exception_keeps {k m s0} [Spares m .rec'] [Spares m .mem] [Spares m .poison] [Spares m .parts] [Spares m .out] (s) (p) (bytes) (first) (h : Keeps k m s0 s) :
    Keeps k m s0 (State.exception s p bytes first).1 := by
  unfold State.exception
  repeat' first
    | with_reducible assumption
    | with_reducible apply State.record_keeps
    | with_reducible apply State.setPart_keeps
    | with_reducible apply State.wrBytes_keeps
    | with_reducible apply State.wrN_keeps
    | with_reducible apply State.updPart_keeps
    | with_reducible apply State.testWaits_keeps
    | with_reducible apply State.signal_keeps
    | intro _
    | split
    | dsimp only
theorem State.exception_keeps' {k m s0} [Spares m .rec'] [Spares m .mem] [Spares m .poison] [Spares m .parts] [Spares m .out] {s} {p} {bytes} {first} {x t} (eq_ : State.exception s p bytes first = (t, x)) (h : Keeps k m s0 s) : Keeps k m s0 t := by
  have g := State.exception_keeps s p bytes first h
  rw [eq_] at g; exact g

theorem State.freeBelow_keeps {k m s0} [Spares m .fresh] (s) (n) (h : Keeps k m s0 s) :
    Keeps k m s0 (State.freeBelow s n).2 := by
  unfold State.freeBelow; grind -lia -linarith -ring -order [State.free_keeps]
theorem State.freeBelow_keeps' {k m s0} [Spares m .fresh] {s} {n} {x t} (eq_ : State.freeBelow s n = (x, t)) (h : Keeps k m s0 s) : Keeps k m s0 t := by
  have g := State.freeBelow_keeps s n h
  rw [eq_] at g; exact g

theorem State.placeNan_keeps {k m s0} [Spares m .fresh] (s) (e) (h : Keeps k m s0 s) :
    Keeps k m s0 (State.placeNan s e).2 := by
  unfold State.placeNan; grind -lia -linarith -ring -order [State.free_keeps, State.freeBelow_keeps]
theorem State.placeNan_keeps' {k m s0} [Spares m .fresh] {s} {e} {x t} (eq_ : State.placeNan s e = (x, t)) (h : Keeps k m s0 s) : Keeps k m s0 t := by
  have g := State.placeNan_keeps s e h
  rw [eq_] at g; exact g

theorem State.firstNan_keeps {k m s0} [Spares m .fresh] (s) (l) (h : Keeps k m s0 s) :
    Keeps k m s0 (State.firstNan s l).2 := by
  rw [State.firstNan]
  apply keeps_foldQ ?_ h
  intro w e hw
  exact State.placeNan_keeps _ _ hw
theorem State.firstNan_keeps' {k m s0} [Spares m .fresh] {s} {l} {x t} (eq_ : State.firstNan s l = (x, t)) (h : Keeps k m s0 s) : Keeps k m s0 t := by
  have g := State.firstNan_keeps s l h
  rw [eq_] at g; exact g

theorem State.seedTrapAt_keeps {k m s0} [Spares m .rec'] [Spares m .mem] [Spares m .poison] [Spares m .parts] [Spares m .out] (s) (r) (x) (h : Keeps k m s0 s) :
    Keeps k m s0 (State.seedTrapAt s r x) := by
  unfold State.seedTrapAt; grind -lia -linarith -ring -order [State.exception_keeps, State.updPart_keeps, State.updDesc_keeps]

theorem State.seedTraps_keeps {k m s0} [Spares m .rec'] [Spares m .mem] [Spares m .poison] [Spares m .parts] [Spares m .fresh] [Spares m .out] (s) (r) (l) (h : Keeps k m s0 s) :
    Keeps k m s0 (State.seedTraps s r l) := by
  unfold State.seedTraps; grind -lia -linarith -ring -order [State.firstNan_keeps, State.seedTrapAt_keeps]

theorem State.seedTrap_keeps {k m s0} [Spares m .rec'] [Spares m .mem] [Spares m .poison] [Spares m .parts] [Spares m .fresh] [Spares m .out] (s) (r) (e) (h : Keeps k m s0 s) :
    Keeps k m s0 (State.seedTrap s r e) := by
  unfold State.seedTrap; grind -lia -linarith -ring -order [State.seedTraps_keeps]

theorem State.release_keeps {k m s0} [Spares m .parts] (s) (p) (ring) (h : Keeps k m s0 s) :
    Keeps k m s0 (State.release s p ring) := by
  unfold State.release; grind -lia -linarith -ring -order [State.updPart_keeps]

theorem State.releaseAll_keeps {k m s0} [Spares m .parts] (s) (p) (h : Keeps k m s0 s) :
    Keeps k m s0 (State.releaseAll s p) := by
  unfold State.releaseAll; grind -lia -linarith -ring -order [keeps_foldS, State.release_keeps]

theorem State.ringStop_keeps {k m s0} [Spares m .parts] (s) (p) (ring) (h : Keeps k m s0 s) :
    Keeps k m s0 (State.ringStop s p ring) := by
  unfold State.ringStop; grind -lia -linarith -ring -order [State.setPart_keeps]

theorem State.blurSlot_keeps {k m s0} [Spares m .acc] [Spares m .accGen] [Spares m .fresh] (s) (cl) (k_) (h : Keeps k m s0 s) :
    Keeps k m s0 (State.blurSlot s cl k_) := by
  exact keeps_mk_acc_accGen_fresh h

theorem State.voidSlots_keeps {k m s0} [Spares m .acc] [Spares m .accGen] [Spares m .res] [Spares m .fresh] (s) (d) (h : Keeps k m s0 s) :
    Keeps k m s0 (State.voidSlots s d) := by
  unfold State.voidSlots; grind -lia -linarith -ring -order [keeps_foldS, keeps_mk_res, State.blurSlot_keeps]

theorem State.keepTiles_keeps {k m s0} [Spares m .acc] [Spares m .accGen] [Spares m .fresh] (s) (d) (slot) (h : Keeps k m s0 s) :
    Keeps k m s0 (State.keepTiles s d slot) := by
  unfold State.keepTiles; grind -lia -linarith -ring -order [State.blurSlot_keeps, keeps_mk_acc, keeps_foldS]

theorem State.settleSlots_keeps {k m s0} [Spares m .acc] [Spares m .accGen] [Spares m .res] [Spares m .fresh] (s) (d) (st) (h : Keeps k m s0 s) :
    Keeps k m s0 (State.settleSlots s d st) := by
  unfold State.settleSlots; grind -lia -linarith -ring -order [keeps_foldS, keeps_mk_res, State.keepTiles_keeps, State.voidSlots_keeps]

theorem State.completeOne_keeps {k m s0} [Spares m .rec'] [Spares m .mem] [Spares m .poison] [Spares m .acc] [Spares m .accGen] [Spares m .res] [Spares m .vec] [Spares m .upd] [Spares m .parts] [Spares m .fresh] [Spares m .out] (s) (r) (h : Keeps k m s0 s) :
    Keeps k m s0 (State.completeOne s r) := by
  unfold State.completeOne
  dsimp only
  split
  · exact h
  split
  · exact h
  apply State.release_keeps
  apply State.ringStop_keeps
  apply State.freeEngines_keeps
  apply State.settleSlots_keeps
  apply State.updPart_keeps
  apply State.updDesc_keeps
  exact keeps_ite (State.updDesc_keeps _ _ _ (State.exception_keeps _ _ _ _ h)) h

theorem State.failDependants_keeps {k m s0} [Spares m .rec'] [Spares m .mem] [Spares m .poison] [Spares m .acc] [Spares m .accGen] [Spares m .res] [Spares m .vec] [Spares m .upd] [Spares m .parts] [Spares m .fresh] [Spares m .out] (p ring : Nat) (hold : Bool) : ∀ (n : Nat) (s : State), Keeps k m s0 s →
    Keeps k m s0 (s.failDependants p ring hold n)
  | 0, _, h => h
  | n + 1, s, h => by
    unfold State.failDependants
    split
    · exact h
    · exact State.failDependants_keeps p ring hold n _ (State.completeOne_keeps _ _ (State.updDesc_keeps _ _ _ h))

theorem State.takeGroup_keeps {k m s0} [Spares m .parts] (s) (p) (h : Keeps k m s0 s) :
    Keeps k m s0 (State.takeGroup s p).2 := by
  unfold State.takeGroup; grind -lia -linarith -ring -order [State.updPart_keeps]
theorem State.takeGroup_keeps' {k m s0} [Spares m .parts] {s} {p} {x t} (eq_ : State.takeGroup s p = (x, t)) (h : Keeps k m s0 s) : Keeps k m s0 t := by
  have g := State.takeGroup_keeps s p h
  rw [eq_] at g; exact g

theorem State.settleHold_keeps {k m s0} [Spares m .rec'] [Spares m .mem] [Spares m .poison] [Spares m .acc] [Spares m .accGen] [Spares m .res] [Spares m .vec] [Spares m .upd] [Spares m .parts] [Spares m .fresh] [Spares m .out] (s) (p) (h : Keeps k m s0 s) :
    Keeps k m s0 (State.settleHold s p) := by
  unfold State.settleHold
  dsimp only
  split
  · exact h
  · exact State.releaseAll_keeps _ _ (State.updPart_keeps _ _ _ (keeps_foldS (fun t a ht => State.failDependants_keeps _ _ _ _ _ ht) h))

theorem State.complete_keeps {k m s0} [Spares m .rec'] [Spares m .mem] [Spares m .poison] [Spares m .acc] [Spares m .accGen] [Spares m .res] [Spares m .vec] [Spares m .upd] [Spares m .parts] [Spares m .fresh] [Spares m .out] (s) (r) (h : Keeps k m s0 s) :
    Keeps k m s0 (State.complete s r) := by
  unfold State.complete
  exact State.settleHold_keeps _ _ (State.failDependants_keeps _ _ _ _ _ (State.completeOne_keeps _ _ h))

end Sys2Proof.Machine
end

