-- ==== Sys2Proof/Laws/KeepsOperands.lean ====
section
/-!
SUPPORT. That each function of Machine/Operands.lean keeps what a command keeps (`Keeps`, `OutKeeps`).
-/

namespace Sys2Proof.Machine

theorem Run.s_keeps {k m s0}  (self) (h : Keeps k m s0 self.s) :
    Keeps k m s0 (Run.s self) := by
  unfold Run.s; grind -lia -linarith -ring -order []

theorem Run.start_keeps {k m s0}  (s) (part) (kind) (engines) (clusters) (d) (h : Keeps k m s0 s) :
    Keeps k m s0 (Run.start s part kind engines clusters d).s := by
  unfold Run.start; grind -lia -linarith -ring -order []

theorem Run.reads_keeps {k m s0}  (r) (l) (h : Keeps k m s0 r.s) :
    Keeps k m s0 (Run.reads r l).s := by
  unfold Run.reads; grind -lia -linarith -ring -order [Run.s_keeps]

theorem Run.readsElems_keeps {k m s0}  (r) (t) (l) (h : Keeps k m s0 r.s) :
    Keeps k m s0 (Run.readsElems r t l).s := by
  unfold Run.readsElems; grind -lia -linarith -ring -order [Run.reads_keeps, Run.s_keeps]

theorem Run.wr_keeps {k m s0} [Spares m .mem] (r) (a) (bs) (h : Keeps k m s0 r.s) :
    Keeps k m s0 (Run.wr r a bs).s := by
  unfold Run.wr; grind -lia -linarith -ring -order [State.wrRaw_keeps, Run.s_keeps]

theorem Run.wrN_keeps {k m s0} [Spares m .mem] (r) (a) (n) (x) (h : Keeps k m s0 r.s) :
    Keeps k m s0 (Run.wrN r a n x).s := by
  unfold Run.wrN; grind -lia -linarith -ring -order [Run.wr_keeps]

theorem Run.raise_keeps {k m s0}  (r) (l) (h : Keeps k m s0 r.s) :
    Keeps k m s0 (Run.raise r l).s := by
  unfold Run.raise; grind -lia -linarith -ring -order [Run.s_keeps]

theorem Run.endUnit_keeps {k m s0}  (r) (h : Keeps k m s0 r.s) :
    Keeps k m s0 (Run.endUnit r).s := by
  unfold Run.endUnit; grind -lia -linarith -ring -order [Run.s_keeps]

theorem State.addSentry_keeps {k m s0} [Spares m .parts] (s) (p) (id) (f) (h : Keeps k m s0 s) :
    Keeps k m s0 (State.addSentry s p id f) := by
  unfold State.addSentry; grind -lia -linarith -ring -order [State.updPart_keeps]

theorem Run.writeElem_keeps {k m s0} [Spares m .mem] [Spares m .parts] (r) (t) (i) (x) (src) (h : Keeps k m s0 r.s) :
    Keeps k m s0 (Run.writeElem r t i x src).s := by
  unfold Run.writeElem; grind -lia -linarith -ring -order [Run.wrN_keeps, State.addSentry_keeps, Run.s_keeps, Run.raise_keeps]

theorem Run.writeBlock_keeps {k m s0} [Spares m .mem] [Spares m .parts] (r) (t) (k_) (i) (xs) (src) (h : Keeps k m s0 r.s) :
    Keeps k m s0 (Run.writeBlock r t k_ i xs src).s := by
  unfold Run.writeBlock; grind -lia -linarith -ring -order [Run.s_keeps, Run.reads_keeps, Run.wr_keeps, Run.wrN_keeps, State.addSentry_keeps, Run.raise_keeps]

theorem Run.settlePoison_keeps {k m s0} [Spares m .poison] (r) (h : Keeps k m s0 r.s) :
    Keeps k m s0 (Run.settlePoison r).s := by
  unfold Run.settlePoison; grind -lia -linarith -ring -order [Run.s_keeps, keeps_foldS, keeps_foldR, State.unpoison_keeps]

theorem State.lateWrites_keeps {k m s0} [Spares m .mem] [Spares m .poison] [Spares m .fresh] (s) (p) (wrote) (h : Keeps k m s0 s) :
    Keeps k m s0 (State.lateWrites s p wrote) := by
  unfold State.lateWrites; grind -lia -linarith -ring -order [keeps_foldS, State.freeBelow_keeps, State.wrN_keeps]

theorem State.blurMem_keeps {k m s0} [Spares m .mem] [Spares m .fresh] (s) (a) (n) (h : Keeps k m s0 s) :
    Keeps k m s0 (State.blurMem s a n) := by
  have g := State.wrRaw_keeps ((List.range n).map (Config.clusterByte (s.fresh + 1))) s a h
  exact ⟨fun f hf => by cases f <;> first | exact g.same _ hf | exact Spares.elim hf, g.queue, g.fuse, g.svn, g.mem, g.poison, g.host, g.out, Nat.le_succ_of_le h.fresh, g.halt⟩

theorem Run.finish_keeps {k m s0} [Spares m .rec'] [Spares m .mem] [Spares m .poison] [Spares m .parts] [Spares m .fresh] [Spares m .out] (r) (ref) (h : Keeps k m s0 r.s) :
    Keeps k m s0 (Run.finish r ref) := by
  unfold Run.finish
  extract_lets r1 s1 s2
  have h1 : Keeps k m s0 s1 := State.lateWrites_keeps _ _ _ (Run.settlePoison_keeps _ (Run.endUnit_keeps _ h))
  refine State.seedTraps_keeps _ _ _ ?_
  unfold s2
  split
  · exact h1
  · exact State.updDesc_keeps _ _ _ (keeps_foldS (fun t a ht => State.setPoison_keeps t a ht) h1)

theorem State.moveBytes_keeps {k m s0} [Spares m .mem] [Spares m .poison] (s) (src) (dst) (n) (h : Keeps k m s0 s) :
    Keeps k m s0 (State.moveBytes s src dst n).1 := by
  unfold State.moveBytes; grind -lia -linarith -ring -order [State.wrBytes_keeps, keeps_foldS, State.setPoison_keeps]
theorem State.moveBytes_keeps' {k m s0} [Spares m .mem] [Spares m .poison] {s} {src} {dst} {n} {x t} (eq_ : State.moveBytes s src dst n = (t, x)) (h : Keeps k m s0 s) : Keeps k m s0 t := by
  have g := State.moveBytes_keeps s src dst n h
  rw [eq_] at g; exact g

theorem State.noteBad_keeps {k m s0} [Spares m .parts] (s) (r) (l) (h : Keeps k m s0 s) :
    Keeps k m s0 (State.noteBad s r l) := by
  unfold State.noteBad; grind -lia -linarith -ring -order [State.updDesc_keeps]

theorem State.touchClusters_keeps {k m s0} [Spares m .clbuf] [Spares m .opbuf] [Spares m .fresh] (s) (cl) (h : Keeps k m s0 s) :
    Keeps k m s0 (State.touchClusters s cl) := by
  unfold State.touchClusters
  split
  · exact h
  · exact keeps_mk_clbuf_opbuf_fresh h

end Sys2Proof.Machine
end

