-- ==== Sys2Proof/Laws/KeepsSched.lean ====
section
/-!
SUPPORT. That each function of Machine/Sched.lean keeps what a command keeps (`Keeps`, `OutKeeps`).
-/

namespace Sys2Proof.Machine

theorem State.advance_keeps {k m s0} [Spares m .now] [Spares m .parts] (s) (t) (h : Keeps k m s0 s) :
    Keeps k m s0 (State.advance s t) := by
  unfold State.advance; grind -lia -linarith -ring -order [keeps_mk_now, keeps_mk_now_parts, keeps_foldS]

theorem State.baseRate_keeps {k m s0} [Spares m .fresh] (s) (p) (d) (nc) (h : Keeps k m s0 s) :
    Keeps k m s0 (State.baseRate s p d nc).2 := by
  unfold State.baseRate; grind -lia -linarith -ring -order [State.free_keeps]
theorem State.baseRate_keeps' {k m s0} [Spares m .fresh] {s} {p} {d} {nc} {x t} (eq_ : State.baseRate s p d nc = (x, t)) (h : Keeps k m s0 s) : Keeps k m s0 t := by
  have g := State.baseRate_keeps s p d nc h
  rw [eq_] at g; exact g

theorem State.beginSlice_keeps {k m s0} [Spares m .parts] (s) (r) (d) (cl) (k_) (t) (chip) (h : Keeps k m s0 s) :
    Keeps k m s0 (State.beginSlice s r d cl k_ t chip) := by
  unfold State.beginSlice; grind -lia -linarith -ring -order [State.updDesc_keeps]

theorem State.sizeSlice_keeps {k m s0} [Spares m .parts] [Spares m .fresh] (s) (r) (d) (cl) (t) (chip) (h : Keeps k m s0 s) :
    Keeps k m s0 (State.sizeSlice s r d cl t chip) := by
  unfold State.sizeSlice; grind -lia -linarith -ring -order [State.baseRate_keeps, State.beginSlice_keeps, State.updDesc_keeps]

theorem State.runSlice_keeps {k m s0} [Spares m .clbuf] [Spares m .opbuf] [Spares m .parts] [Spares m .fresh] (s : State) (r : DRef) (op : Nat) (f : State → Desc → Slice → State)
    (hf : ∀ t d sl, Keeps k m s0 t → Keeps k m s0 (f t d sl)) (h : Keeps k m s0 s) : Keeps k m s0 (s.runSlice r op f) := by
  unfold State.runSlice
  split
  · exact h
  split
  · exact h
  split
  · exact h
  exact State.testWaits_keeps _ _ (State.updDesc_keeps _ _ _ (State.touchClusters_keeps _ _ (hf _ _ _ h)))

end Sys2Proof.Machine
end

