-- ==== Sys2Proof/Laws/KeepsEcc.lean ====
section
/-!
SUPPORT. That each function of Machine/Ecc.lean keeps what a command keeps (`Keeps`, `OutKeeps`).
-/

namespace Sys2Proof.Machine

theorem State.updStack_keeps {k m s0} [Spares m .memc] (s) (st) (f) (h : Keeps k m s0 s) :
    Keeps k m s0 (State.updStack s st f) := by
  unfold State.updStack; grind -lia -linarith -ring -order [keeps_mk_memc]

theorem State.updLane_keeps {k m s0} [Spares m .memc] (s) (k_) (f) (h : Keeps k m s0 s) :
    Keeps k m s0 (State.updLane s k_ f) := by
  unfold State.updLane; grind -lia -linarith -ring -order [keeps_mk_memc]

theorem State.retirePending_keeps {k m s0} [Spares m .rec'] [Spares m .memc] (s) (st) (ch) (h : Keeps k m s0 s) :
    Keeps k m s0 (State.retirePending s st ch) := by
  unfold State.retirePending; grind -lia -linarith -ring -order [State.record_keeps, State.updStack_keeps]

theorem State.markSuspect_keeps {k m s0} [Spares m .rec'] [Spares m .memc] (s) (k_) (h : Keeps k m s0 s) :
    Keeps k m s0 (State.markSuspect s k_) := by
  unfold State.markSuspect; grind -lia -linarith -ring -order [State.record_keeps, State.retirePending_keeps, State.updLane_keeps]

theorem State.laneError_keeps {k m s0} [Spares m .rec'] [Spares m .memc] (s) (k_) (h : Keeps k m s0 s) :
    Keeps k m s0 (State.laneError s k_) := by
  unfold State.laneError; grind -lia -linarith -ring -order [State.updLane_keeps, State.markSuspect_keeps]

theorem State.breakUse_keeps {k m s0} [Spares m .parts] (s) (a) (a2') (h : Keeps k m s0 s) :
    Keeps k m s0 (State.breakUse s a a2') := by
  unfold State.breakUse; grind -lia -linarith -ring -order [State.updPart_keeps, State.updDesc_keeps]

theorem State.reserveLoss_keeps {k m s0} [Spares m .rec'] [Spares m .poison] [Spares m .parts] [Spares m .fresh] (s) (a) (h : Keeps k m s0 s) :
    Keeps k m s0 (State.reserveLoss s a) := by
  unfold State.reserveLoss; grind -lia -linarith -ring -order [State.record_keeps, keeps_mk_parts, State.unpoison_keeps, State.freeBelow_keeps, State.breakUse_keeps]

theorem State.poisonSector_keeps {k m s0} [Spares m .rec'] [Spares m .memc] [Spares m .mem] [Spares m .poison] [Spares m .parts] [Spares m .fresh] [Spares m .out] (s) (a) (finder) (tag) (h : Keeps k m s0 s) :
    Keeps k m s0 (State.poisonSector s a finder tag) := by
  unfold State.poisonSector; grind -lia -linarith -ring -order [State.updStack_keeps, State.setPoison_keeps, State.exception_keeps, State.reserveLoss_keeps]

theorem State.readSector_keeps {k m s0} [Spares m .rec'] [Spares m .memc] [Spares m .mem] [Spares m .poison] [Spares m .parts] [Spares m .fresh] [Spares m .out] (s) (a) (ecc) (finder) (tag) (h : Keeps k m s0 s) :
    Keeps k m s0 (State.readSector s a ecc finder tag) := by
  unfold State.readSector; grind -lia -linarith -ring -order [State.laneError_keeps, State.poisonSector_keeps, State.updStack_keeps, State.wrRaw_keeps]

theorem State.findAll_keeps {k m s0} [Spares m .rec'] [Spares m .memc] [Spares m .mem] [Spares m .poison] [Spares m .chipFixed] [Spares m .parts] [Spares m .fresh] [Spares m .out] (s) (finder) (tag) (l) (h : Keeps k m s0 s) :
    Keeps k m s0 (State.findAll s finder tag l) := by
  unfold State.findAll; grind -lia -linarith -ring -order [keeps_foldS, State.readSector_keeps, keeps_mk_chipFixed]

theorem State.foundBy_keeps {k m s0} [Spares m .rec'] [Spares m .memc] [Spares m .mem] [Spares m .poison] [Spares m .chipFixed] [Spares m .parts] [Spares m .fresh] [Spares m .out] (s) (r) (l) (h : Keeps k m s0 s) :
    Keeps k m s0 (State.foundBy s r l) := by
  unfold State.foundBy; grind -lia -linarith -ring -order [State.findAll_keeps, State.updDesc_keeps]

theorem State.finds_keeps {k m s0} [Spares m .rec'] [Spares m .memc] [Spares m .mem] [Spares m .poison] [Spares m .chipFixed] [Spares m .parts] [Spares m .fresh] [Spares m .out] (s) (r) (l) (h : Keeps k m s0 s) :
    Keeps k m s0 (State.finds s r l) := by
  unfold State.finds; grind -lia -linarith -ring -order [State.foundBy_keeps, State.findAll_keeps]

end Sys2Proof.Machine
end

