-- ==== Sys2Proof/Laws/KeepsMatrix.lean ====
section
/-!
SUPPORT. That each function of Machine/Matrix.lean keeps what a command keeps (`Keeps`, `OutKeeps`).
-/

namespace Sys2Proof.Machine

theorem State.setAccTile_keeps {k m s0} [Spares m .acc] (s) (cluster) (core) (slot) (l) (h : Keeps k m s0 s) :
    Keeps k m s0 (State.setAccTile s cluster core slot l) := by
  unfold State.setAccTile; grind -lia -linarith -ring -order [keeps_mk_acc]

theorem Run.writeMatrix_keeps {k m s0} [Spares m .mem] (r) (o) (i) (x) (h : Keeps k m s0 r.s) :
    Keeps k m s0 (Run.writeMatrix r o i x).s := by
  unfold Run.writeMatrix; grind -lia -linarith -ring -order [Run.wrN_keeps]

theorem Run.matReads_keeps {k m s0}  (r) (a) (b) (c?) (la) (lb) (lc) (h : Keeps k m s0 r.s) :
    Keeps k m s0 (Run.matReads r a b c? la lb lc).s := by
  unfold Run.matReads; grind -lia -linarith -ring -order [Run.readsElems_keeps]

theorem Run.note_keeps {k m s0}  (r) (l) (h : Keeps k m s0 r.s) :
    Keeps k m s0 (Run.note r l).s := by
  unfold Run.note; grind -lia -linarith -ring -order [Run.s_keeps]

theorem Run.matStore_keeps {k m s0} [Spares m .mem] (r) (o?) (b2) (b3) (res) (h : Keeps k m s0 r.s) :
    Keeps k m s0 (Run.matStore r o? b2 b3 res).s := by
  unfold Run.matStore
  split
  · exact keeps_foldR (fun w v hw => Run.writeMatrix_keeps _ _ _ _ hw) h
  · exact h

theorem Run.matKeep_keeps {k m s0} [Spares m .acc] [Spares m .fresh] (r) (cluster) (core) (slot) (res) (h : Keeps k m s0 r.s) :
    Keeps k m s0 (Run.matKeep r cluster core slot res).s := by
  exact keeps_mk_fresh (State.setAccTile_keeps _ _ _ _ _ h)

theorem Run.matUnit_keeps {k m s0} [Spares m .mem] [Spares m .acc] [Spares m .fresh] (r) (d) (a) (b) (u) (h : Keeps k m s0 r.s) :
    Keeps k m s0 (Run.matUnit r d a b u).s := by
  unfold Run.matUnit
  dsimp only
  have h2 : ∀ c1 la lb lc l, Keeps k m s0 ((r.matReads a b c1 la lb lc).note l).s := fun c1 la lb lc l =>
    Run.note_keeps _ _ (Run.matReads_keeps _ _ _ _ _ _ _ h)
  split
  · exact h2 ..
  · split
    · exact Run.matKeep_keeps _ _ _ _ _ (Run.matStore_keeps _ _ _ _ _ (Run.note_keeps _ _ (h2 ..)))
    · exact Run.matStore_keeps _ _ _ _ _ (Run.note_keeps _ _ (h2 ..))

theorem runMatmul_keeps {k m s0} [Spares m .rec'] [Spares m .mem] [Spares m .poison] [Spares m .acc] [Spares m .parts] [Spares m .fresh] [Spares m .out] (s) (d) (sl) (r) (h : Keeps k m s0 s) :
    Keeps k m s0 (runMatmul s d sl r) := by
  unfold runMatmul; grind -lia -linarith -ring -order [Run.start_keeps, Run.finish_keeps, keeps_foldS, keeps_foldR, Run.matUnit_keeps]

theorem execMatmul_keeps {k m s0} [Spares m .rec'] [Spares m .mem] [Spares m .poison] [Spares m .acc] [Spares m .clbuf] [Spares m .opbuf] [Spares m .parts] [Spares m .fresh] [Spares m .out] (r) (s) (h : Keeps k m s0 s) :
    OutKeeps k m s0 (execMatmul r s) := by
  unfold execMatmul; grind -lia -linarith -ring -order [State.runSlice_keeps, runMatmul_keeps, outKeeps_next]

theorem runAccSave_keeps {k m s0} [Spares m .rec'] [Spares m .mem] [Spares m .poison] [Spares m .parts] [Spares m .fresh] [Spares m .out] (s) (d) (sl) (r) (h : Keeps k m s0 s) :
    Keeps k m s0 (runAccSave s d sl r) := by
  unfold runAccSave; grind -lia -linarith -ring -order [State.free_keeps, Run.start_keeps, Run.wr_keeps, Run.finish_keeps, keeps_foldS, keeps_foldR, Run.s_keeps]

theorem execAccSave_keeps {k m s0} [Spares m .rec'] [Spares m .mem] [Spares m .poison] [Spares m .clbuf] [Spares m .opbuf] [Spares m .parts] [Spares m .fresh] [Spares m .out] (r) (s) (h : Keeps k m s0 s) :
    OutKeeps k m s0 (execAccSave r s) := by
  unfold execAccSave; grind -lia -linarith -ring -order [State.runSlice_keeps, runAccSave_keeps, outKeeps_next]

theorem State.setResident_keeps {k m s0} [Spares m .res] (s) (cluster) (slot) (rec) (h : Keeps k m s0 s) :
    Keeps k m s0 (State.setResident s cluster slot rec) := by
  unfold State.setResident; grind -lia -linarith -ring -order [keeps_mk_res]

theorem Run.accRestoreHeader_keeps {k m s0} [Spares m .res] (r) (d) (base) (h : Keeps k m s0 r.s) :
    Keeps k m s0 (Run.accRestoreHeader r d base).s := by
  unfold Run.accRestoreHeader; grind -lia -linarith -ring -order [Run.reads_keeps, Run.s_keeps, keeps_foldS, keeps_foldR, State.setResident_keeps]

theorem Run.accRestoreUnit_keeps {k m s0} [Spares m .acc] (r) (d) (base) (u) (h : Keeps k m s0 r.s) :
    Keeps k m s0 (Run.accRestoreUnit r d base u).s := by
  unfold Run.accRestoreUnit; grind -lia -linarith -ring -order [Run.reads_keeps, Run.s_keeps, State.setAccTile_keeps]

theorem runAccRestore_keeps {k m s0} [Spares m .rec'] [Spares m .mem] [Spares m .poison] [Spares m .acc] [Spares m .res] [Spares m .parts] [Spares m .fresh] [Spares m .out] (s) (d) (sl) (r) (h : Keeps k m s0 s) :
    Keeps k m s0 (runAccRestore s d sl r) := by
  unfold runAccRestore
  split
  · exact h
  dsimp only
  split
  · exact State.updDesc_keeps _ _ _ (Run.finish_keeps _ _ (Run.reads_keeps _ _ h))
  refine Run.finish_keeps _ _ (keeps_foldR (fun w u hw => Run.accRestoreUnit_keeps _ _ _ _ hw) ?_)
  exact keeps_iteR (Run.accRestoreHeader_keeps _ _ _ h) h

theorem execAccRestore_keeps {k m s0} [Spares m .rec'] [Spares m .mem] [Spares m .poison] [Spares m .acc] [Spares m .res] [Spares m .clbuf] [Spares m .opbuf] [Spares m .parts] [Spares m .fresh] [Spares m .out] (r) (s) (h : Keeps k m s0 s) :
    OutKeeps k m s0 (execAccRestore r s) := by
  unfold execAccRestore; grind -lia -linarith -ring -order [State.runSlice_keeps, runAccRestore_keeps, outKeeps_next]

end Sys2Proof.Machine
end

