-- ==== Sys2Proof/Laws/KeepsLocal.lean ====
section
/-!
SUPPORT. That each function of Machine/Local.lean keeps what a command keeps (`Keeps`, `OutKeeps`).
-/

namespace Sys2Proof.Machine

theorem State.startOp_keeps {k m s0} [Spares m .parts] (s : State) (r : DRef) (op : Nat) (f : State → Desc → State)
    (hf : ∀ t d, Keeps k m s0 t → Keeps k m s0 (f t d)) (h : Keeps k m s0 s) : Keeps k m s0 (s.startOp r op f) := by
  unfold State.startOp
  split
  · exact h
  · exact keeps_ite (hf _ _ (State.updDesc_keeps _ _ _ h)) h

theorem execNop_keeps {k m s0} [Spares m .parts] (r) (s) (h : Keeps k m s0 s) :
    OutKeeps k m s0 (execNop r s) := by
  unfold execNop; grind -lia -linarith -ring -order [State.startOp_keeps, State.updDesc_keeps, outKeeps_next]

theorem State.startWait_keeps {k m s0} [Spares m .parts] (s) (r) (mode) (h : Keeps k m s0 s) :
    Keeps k m s0 (State.startWait s r mode) := by
  unfold State.startWait; grind -lia -linarith -ring -order [State.startOp_keeps, State.testWait_keeps]

theorem execWaitGe_keeps {k m s0} [Spares m .rec'] [Spares m .memc] [Spares m .mem] [Spares m .poison] [Spares m .chipFixed] [Spares m .parts] [Spares m .fresh] [Spares m .out] (r) (s) (h : Keeps k m s0 s) :
    OutKeeps k m s0 (execWaitGe r s) := by
  unfold execWaitGe; grind -lia -linarith -ring -order [State.startWait_keeps, State.finds_keeps, outKeeps_next]

theorem execWaitEq_keeps {k m s0} [Spares m .rec'] [Spares m .memc] [Spares m .mem] [Spares m .poison] [Spares m .chipFixed] [Spares m .parts] [Spares m .fresh] [Spares m .out] (r) (s) (h : Keeps k m s0 s) :
    OutKeeps k m s0 (execWaitEq r s) := by
  unfold execWaitEq; grind -lia -linarith -ring -order [State.startWait_keeps, State.finds_keeps, outKeeps_next]

theorem State.flagWrite_keeps {k m s0} [Spares m .mem] [Spares m .poison] [Spares m .parts] (s) (r) (mode) (h : Keeps k m s0 s) :
    Keeps k m s0 (State.flagWrite s r mode) := by
  unfold State.flagWrite; grind -lia -linarith -ring -order [State.startOp_keeps, State.updDesc_keeps, State.testWaits_keeps, State.wrN_keeps]

theorem execSet_keeps {k m s0} [Spares m .rec'] [Spares m .memc] [Spares m .mem] [Spares m .poison] [Spares m .chipFixed] [Spares m .parts] [Spares m .fresh] [Spares m .out] (r) (s) (h : Keeps k m s0 s) :
    OutKeeps k m s0 (execSet r s) := by
  unfold execSet; grind -lia -linarith -ring -order [State.flagWrite_keeps, State.finds_keeps, outKeeps_next]

theorem execAdd_keeps {k m s0} [Spares m .rec'] [Spares m .memc] [Spares m .mem] [Spares m .poison] [Spares m .chipFixed] [Spares m .parts] [Spares m .fresh] [Spares m .out] (r) (s) (h : Keeps k m s0 s) :
    OutKeeps k m s0 (execAdd r s) := by
  unfold execAdd; grind -lia -linarith -ring -order [State.flagWrite_keeps, State.finds_keeps, outKeeps_next]

theorem runCopy_keeps {k m s0} [Spares m .mem] [Spares m .poison] [Spares m .parts] [Spares m .fresh] (s) (d) (sl) (r) (h : Keeps k m s0 s) :
    Keeps k m s0 (runCopy s d sl r) := by
  unfold runCopy; grind -lia -linarith -ring -order [State.moveBytes_keeps, State.noteBad_keeps, State.lateWrites_keeps]

theorem execCopy_keeps {k m s0} [Spares m .mem] [Spares m .poison] [Spares m .clbuf] [Spares m .opbuf] [Spares m .parts] [Spares m .fresh] (r) (s) (h : Keeps k m s0 s) :
    OutKeeps k m s0 (execCopy r s) := by
  unfold execCopy; grind -lia -linarith -ring -order [State.runSlice_keeps, runCopy_keeps, outKeeps_next]

theorem State.dumpChip_keeps {k m s0} [Spares m .poison] [Spares m .parts] [Spares m .fresh] (s) (r) (c) (lines) (h : Keeps k m s0 s) :
    Keeps k m s0 (State.dumpChip s r c lines) := by
  unfold State.dumpChip; grind -lia -linarith -ring -order [State.freeBelow_keeps, State.updDesc_keeps, State.setPoison_keeps]

theorem runDump_keeps {k m s0} [Spares m .mem] [Spares m .poison] [Spares m .parts] [Spares m .fresh] (s) (d) (sl) (r) (h : Keeps k m s0 s) :
    Keeps k m s0 (runDump s d sl r) := by
  unfold runDump
  extract_lets a
  split
  rename_i x s1 e1
  split
  rename_i y s2 e2
  extract_lets cuts bytes bad s3 s4 s5
  have h1 : Keeps k m s0 s1 := by
    have g := State.free_keeps s h
    rw [e1] at g
    exact g
  have h2 : Keeps k m s0 s2 := by
    have g := State.free_keeps s1 h1
    rw [e2] at g
    exact g
  have h4 : Keeps k m s0 s4 := keeps_foldS (fun t a ht => State.setPoison_keeps t a ht) (State.wrBytes_keeps _ _ _ h2)
  have h5 : Keeps k m s0 s5 := State.noteBad_keeps _ _ _ (State.lateWrites_keeps _ _ _ h4)
  split
  · exact State.dumpChip_keeps _ _ _ _ h5
  · exact h5

theorem State.dumpRow_keeps {k m s0} [Spares m .mem] [Spares m .poison] [Spares m .parts] [Spares m .fresh] (s) (r) (h : Keeps k m s0 s) :
    Keeps k m s0 (State.dumpRow s r) := by
  unfold State.dumpRow; grind -lia -linarith -ring -order [State.testWaits_keeps, State.updDesc_keeps, runDump_keeps]

theorem execStateDump_keeps {k m s0} [Spares m .rec'] [Spares m .memc] [Spares m .mem] [Spares m .poison] [Spares m .chipFixed] [Spares m .parts] [Spares m .fresh] [Spares m .out] (r) (s) (h : Keeps k m s0 s) :
    OutKeeps k m s0 (execStateDump r s) := by
  unfold execStateDump; grind -lia -linarith -ring -order [State.dumpRow_keeps, State.finds_keeps, outKeeps_next]

end Sys2Proof.Machine
end

