-- ==== Sys2Proof/Laws/KeepsXc16.lean ====
section
/-!
SUPPORT. That each function of Machine/Xc16.lean keeps what a command keeps (`Keeps`, `OutKeeps`).
-/

namespace Sys2Proof.Machine

theorem Run.xcEncodeBlock_keeps {k m s0} [Spares m .mem] (r) (o) (s) (t) (ovf) (b) (h : Keeps k m s0 r.s) (h : Keeps k m s0 s) :
    Keeps k m s0 (Run.xcEncodeBlock r o s t ovf b).s := by
  unfold Run.xcEncodeBlock; grind -lia -linarith -ring -order [Run.wr_keeps, Run.wrN_keeps]

theorem runXc16Encode_keeps {k m s0} [Spares m .rec'] [Spares m .mem] [Spares m .poison] [Spares m .parts] [Spares m .fresh] [Spares m .out] (s) (d) (sl) (r) (h : Keeps k m s0 s) :
    Keeps k m s0 (runXc16Encode s d sl r) := by
  unfold runXc16Encode; grind -lia -linarith -ring -order [Run.start_keeps, State.updDesc_keeps, Run.finish_keeps, Run.readsElems_keeps, keeps_foldS, keeps_foldR, Run.xcEncodeBlock_keeps]

theorem execXc16Encode_keeps {k m s0} [Spares m .rec'] [Spares m .mem] [Spares m .poison] [Spares m .clbuf] [Spares m .opbuf] [Spares m .parts] [Spares m .fresh] [Spares m .out] (r) (s) (h : Keeps k m s0 s) :
    OutKeeps k m s0 (execXc16Encode r s) := by
  unfold execXc16Encode; grind -lia -linarith -ring -order [State.runSlice_keeps, runXc16Encode_keeps, outKeeps_next]

theorem Run.xcDecodeGroup_keeps {k m s0} [Spares m .mem] (r) (t) (o) (g) (h : Keeps k m s0 r.s) :
    Keeps k m s0 (Run.xcDecodeGroup r t o g).s := by
  unfold Run.xcDecodeGroup; grind -lia -linarith -ring -order [Run.readsElems_keeps, Run.s_keeps, keeps_foldS, keeps_foldR, Run.wrN_keeps, Run.endUnit_keeps, Run.raise_keeps]

theorem runXc16Decode_keeps {k m s0} [Spares m .rec'] [Spares m .mem] [Spares m .poison] [Spares m .parts] [Spares m .fresh] [Spares m .out] (s) (d) (sl) (r) (h : Keeps k m s0 s) :
    Keeps k m s0 (runXc16Decode s d sl r) := by
  unfold runXc16Decode; grind -lia -linarith -ring -order [Run.start_keeps, Run.finish_keeps, keeps_foldS, keeps_foldR, Run.xcDecodeGroup_keeps]

theorem execXc16Decode_keeps {k m s0} [Spares m .rec'] [Spares m .mem] [Spares m .poison] [Spares m .clbuf] [Spares m .opbuf] [Spares m .parts] [Spares m .fresh] [Spares m .out] (r) (s) (h : Keeps k m s0 s) :
    OutKeeps k m s0 (execXc16Decode r s) := by
  unfold execXc16Decode; grind -lia -linarith -ring -order [State.runSlice_keeps, runXc16Decode_keeps, outKeeps_next]

end Sys2Proof.Machine
end

