-- ==== Sys2Proof/Laws/KeepsVector.lean ====
section
/-!
SUPPORT. That each function of Machine/Vector.lean keeps what a command keeps (`Keeps`, `OutKeeps`).
-/

namespace Sys2Proof.Machine

theorem VCtx.run_keeps {k m s0}  (self) (h : Keeps k m s0 self.run.s) :
    Keeps k m s0 (VCtx.run self).s := by
  unfold VCtx.run; grind -lia -linarith -ring -order []

theorem VCtx.put_keeps {k m s0}  (x) (typ) (h_) (k_) (d) (vals) (h : Keeps k m s0 x.run.s) :
    Keeps k m s0 (VCtx.put x typ h_ k_ d vals).run.s := by
  unfold VCtx.put; grind -lia -linarith -ring -order [VCtx.run_keeps]

theorem VCtx.raiseAt_keeps {k m s0}  (x) (cause) (i) (typ) (h_) (k_) (flags) (h : Keeps k m s0 x.run.s) :
    Keeps k m s0 (VCtx.raiseAt x cause i typ h_ k_ flags).run.s := by
  unfold VCtx.raiseAt; grind -lia -linarith -ring -order [Run.raise_keeps, VCtx.run_keeps]

theorem VCtx.opNop_keeps {k m s0}  (x) (h : Keeps k m s0 x.run.s) :
    Keeps k m s0 (VCtx.opNop x).run.s := by
  unfold VCtx.opNop; grind -lia -linarith -ring -order []

theorem VCtx.opLd_keeps {k m s0}  (x) (i) (h : Keeps k m s0 x.run.s) :
    Keeps k m s0 (VCtx.opLd x i).run.s := by
  unfold VCtx.opLd; grind -lia -linarith -ring -order [Run.reads_keeps, VCtx.run_keeps, Run.s_keeps, VCtx.raiseAt_keeps, VCtx.put_keeps]

theorem Run.storeBlocks_keeps {k m s0} [Spares m .mem] [Spares m .parts] (r : Run) (t : TensorDesc) (b : Blk) (vals) (h : Keeps k m s0 r.s) :
    Keeps k m s0 (r.storeBlocks t b vals).1.s := by
  rw [Run.storeBlocks]
  apply keeps_foldRP ?_ h
  intro w e hw
  exact Run.writeBlock_keeps _ t b e.2 _ _ hw

theorem VCtx.opSt_keeps {k m s0} [Spares m .mem] [Spares m .parts] (x) (i) (h : Keeps k m s0 x.run.s) :
    Keeps k m s0 (VCtx.opSt x i).run.s := by
  unfold VCtx.opSt; grind -lia -linarith -ring -order [Run.storeBlocks_keeps, VCtx.run_keeps, Run.raise_keeps, keeps_foldS, keeps_foldV, keeps_foldR, Run.writeElem_keeps, Run.s_keeps, Run.wrN_keeps]

theorem VCtx.opMov_keeps {k m s0}  (x) (i) (h : Keeps k m s0 x.run.s) :
    Keeps k m s0 (VCtx.opMov x i).run.s := by
  unfold VCtx.opMov; grind -lia -linarith -ring -order [VCtx.put_keeps]

theorem VCtx.opConst_keeps {k m s0}  (x) (i) (h : Keeps k m s0 x.run.s) :
    Keeps k m s0 (VCtx.opConst x i).run.s := by
  unfold VCtx.opConst; grind -lia -linarith -ring -order [VCtx.put_keeps]

theorem VCtx.opIota_keeps {k m s0}  (x) (i) (h : Keeps k m s0 x.run.s) :
    Keeps k m s0 (VCtx.opIota x i).run.s := by
  unfold VCtx.opIota; grind -lia -linarith -ring -order [VCtx.put_keeps]

theorem VCtx.putF_keeps {k m s0}  (x) (i) (res) (h : Keeps k m s0 x.run.s) :
    Keeps k m s0 (VCtx.putF x i res).run.s := by
  unfold VCtx.putF; grind -lia -linarith -ring -order [VCtx.raiseAt_keeps, VCtx.put_keeps]

theorem VCtx.un_keeps {k m s0}  (x) (i) (f) (h : Keeps k m s0 x.run.s) :
    Keeps k m s0 (VCtx.un x i f).run.s := by
  unfold VCtx.un; grind -lia -linarith -ring -order [VCtx.putF_keeps]

theorem VCtx.bin_keeps {k m s0}  (x) (i) (f) (h : Keeps k m s0 x.run.s) :
    Keeps k m s0 (VCtx.bin x i f).run.s := by
  unfold VCtx.bin; grind -lia -linarith -ring -order [VCtx.putF_keeps]

theorem VCtx.intBin_keeps {k m s0}  (x) (i) (f) (h : Keeps k m s0 x.run.s) :
    Keeps k m s0 (VCtx.intBin x i f).run.s := by
  unfold VCtx.intBin; grind -lia -linarith -ring -order [VCtx.put_keeps]

theorem VCtx.intUn_keeps {k m s0}  (x) (i) (f) (h : Keeps k m s0 x.run.s) :
    Keeps k m s0 (VCtx.intUn x i f).run.s := by
  unfold VCtx.intUn; grind -lia -linarith -ring -order [VCtx.put_keeps]

theorem VCtx.opAdd_keeps {k m s0}  (x) (i) (h : Keeps k m s0 x.run.s) :
    Keeps k m s0 (VCtx.opAdd x i).run.s := by
  unfold VCtx.opAdd; grind -lia -linarith -ring -order [VCtx.bin_keeps, VCtx.intBin_keeps]

theorem VCtx.opSub_keeps {k m s0}  (x) (i) (h : Keeps k m s0 x.run.s) :
    Keeps k m s0 (VCtx.opSub x i).run.s := by
  unfold VCtx.opSub; grind -lia -linarith -ring -order [VCtx.bin_keeps, VCtx.intBin_keeps]

theorem VCtx.opMul_keeps {k m s0}  (x) (i) (h : Keeps k m s0 x.run.s) :
    Keeps k m s0 (VCtx.opMul x i).run.s := by
  unfold VCtx.opMul; grind -lia -linarith -ring -order [VCtx.bin_keeps, VCtx.intBin_keeps]

theorem VCtx.opFma_keeps {k m s0}  (x) (i) (h : Keeps k m s0 x.run.s) :
    Keeps k m s0 (VCtx.opFma x i).run.s := by
  unfold VCtx.opFma; grind -lia -linarith -ring -order [VCtx.putF_keeps]

theorem VCtx.opMax_keeps {k m s0}  (x) (i) (h : Keeps k m s0 x.run.s) :
    Keeps k m s0 (VCtx.opMax x i).run.s := by
  unfold VCtx.opMax; grind -lia -linarith -ring -order [VCtx.bin_keeps, VCtx.intBin_keeps]

theorem VCtx.opMin_keeps {k m s0}  (x) (i) (h : Keeps k m s0 x.run.s) :
    Keeps k m s0 (VCtx.opMin x i).run.s := by
  unfold VCtx.opMin; grind -lia -linarith -ring -order [VCtx.bin_keeps, VCtx.intBin_keeps]

theorem VCtx.opAbs_keeps {k m s0}  (x) (i) (h : Keeps k m s0 x.run.s) :
    Keeps k m s0 (VCtx.opAbs x i).run.s := by
  unfold VCtx.opAbs; grind -lia -linarith -ring -order [VCtx.un_keeps, VCtx.intUn_keeps]

theorem VCtx.opNeg_keeps {k m s0}  (x) (i) (h : Keeps k m s0 x.run.s) :
    Keeps k m s0 (VCtx.opNeg x i).run.s := by
  unfold VCtx.opNeg; grind -lia -linarith -ring -order [VCtx.un_keeps, VCtx.intUn_keeps]

theorem VCtx.opDiv_keeps {k m s0}  (x) (i) (h : Keeps k m s0 x.run.s) :
    Keeps k m s0 (VCtx.opDiv x i).run.s := by
  unfold VCtx.opDiv; grind -lia -linarith -ring -order [VCtx.bin_keeps]

theorem VCtx.opSqrt_keeps {k m s0}  (x) (i) (h : Keeps k m s0 x.run.s) :
    Keeps k m s0 (VCtx.opSqrt x i).run.s := by
  unfold VCtx.opSqrt; grind -lia -linarith -ring -order [VCtx.un_keeps]

theorem VCtx.opRcp_keeps {k m s0}  (x) (i) (h : Keeps k m s0 x.run.s) :
    Keeps k m s0 (VCtx.opRcp x i).run.s := by
  unfold VCtx.opRcp; grind -lia -linarith -ring -order [VCtx.un_keeps]

theorem VCtx.opRsqrt_keeps {k m s0}  (x) (i) (h : Keeps k m s0 x.run.s) :
    Keeps k m s0 (VCtx.opRsqrt x i).run.s := by
  unfold VCtx.opRsqrt; grind -lia -linarith -ring -order [VCtx.un_keeps]

theorem VCtx.opFun_keeps {k m s0}  (x) (i) (f) (h : Keeps k m s0 x.run.s) :
    Keeps k m s0 (VCtx.opFun x i f).run.s := by
  unfold VCtx.opFun; grind -lia -linarith -ring -order [VCtx.un_keeps]

theorem VCtx.opCmp_keeps {k m s0}  (x) (i) (h : Keeps k m s0 x.run.s) :
    Keeps k m s0 (VCtx.opCmp x i).run.s := by
  unfold VCtx.opCmp; grind -lia -linarith -ring -order [VCtx.run_keeps]

theorem VCtx.opSel_keeps {k m s0}  (x) (i) (h : Keeps k m s0 x.run.s) :
    Keeps k m s0 (VCtx.opSel x i).run.s := by
  unfold VCtx.opSel; grind -lia -linarith -ring -order [VCtx.put_keeps]

theorem VCtx.opKop_keeps {k m s0}  (x) (i) (h : Keeps k m s0 x.run.s) :
    Keeps k m s0 (VCtx.opKop x i).run.s := by
  unfold VCtx.opKop; grind -lia -linarith -ring -order [VCtx.run_keeps]

theorem VCtx.bitBin_keeps {k m s0}  (x) (i) (f) (h : Keeps k m s0 x.run.s) :
    Keeps k m s0 (VCtx.bitBin x i f).run.s := by
  unfold VCtx.bitBin; grind -lia -linarith -ring -order [VCtx.put_keeps]

theorem VCtx.opAnd_keeps {k m s0}  (x) (i) (h : Keeps k m s0 x.run.s) :
    Keeps k m s0 (VCtx.opAnd x i).run.s := by
  unfold VCtx.opAnd; grind -lia -linarith -ring -order [VCtx.bitBin_keeps]

theorem VCtx.opOr_keeps {k m s0}  (x) (i) (h : Keeps k m s0 x.run.s) :
    Keeps k m s0 (VCtx.opOr x i).run.s := by
  unfold VCtx.opOr; grind -lia -linarith -ring -order [VCtx.bitBin_keeps]

theorem VCtx.opXor_keeps {k m s0}  (x) (i) (h : Keeps k m s0 x.run.s) :
    Keeps k m s0 (VCtx.opXor x i).run.s := by
  unfold VCtx.opXor; grind -lia -linarith -ring -order [VCtx.bitBin_keeps]

theorem VCtx.opShl_keeps {k m s0}  (x) (i) (h : Keeps k m s0 x.run.s) :
    Keeps k m s0 (VCtx.opShl x i).run.s := by
  unfold VCtx.opShl; grind -lia -linarith -ring -order [VCtx.put_keeps]

theorem VCtx.opShr_keeps {k m s0}  (x) (i) (h : Keeps k m s0 x.run.s) :
    Keeps k m s0 (VCtx.opShr x i).run.s := by
  unfold VCtx.opShr; grind -lia -linarith -ring -order [VCtx.put_keeps]

theorem VCtx.opSra_keeps {k m s0}  (x) (i) (h : Keeps k m s0 x.run.s) :
    Keeps k m s0 (VCtx.opSra x i).run.s := by
  unfold VCtx.opSra; grind -lia -linarith -ring -order [VCtx.intUn_keeps]

theorem VCtx.opCvt_keeps {k m s0}  (x) (i) (h : Keeps k m s0 x.run.s) :
    Keeps k m s0 (VCtx.opCvt x i).run.s := by
  unfold VCtx.opCvt; grind -lia -linarith -ring -order [VCtx.run_keeps, VCtx.put_keeps, VCtx.raiseAt_keeps]

theorem VCtx.opPack_keeps {k m s0}  (x) (i) (h : Keeps k m s0 x.run.s) :
    Keeps k m s0 (VCtx.opPack x i).run.s := by
  unfold VCtx.opPack; grind -lia -linarith -ring -order [VCtx.put_keeps]

theorem VCtx.opUnpk_keeps {k m s0}  (x) (i) (h : Keeps k m s0 x.run.s) :
    Keeps k m s0 (VCtx.opUnpk x i).run.s := by
  unfold VCtx.opUnpk; grind -lia -linarith -ring -order [keeps_foldS, keeps_foldV, VCtx.put_keeps]

theorem VCtx.pick_keeps {k m s0}  (x) (i) (f) (h : Keeps k m s0 x.run.s) :
    Keeps k m s0 (VCtx.pick x i f).run.s := by
  unfold VCtx.pick; grind -lia -linarith -ring -order [VCtx.put_keeps]

theorem VCtx.opTrn_keeps {k m s0}  (x) (i) (h : Keeps k m s0 x.run.s) :
    Keeps k m s0 (VCtx.opTrn x i).run.s := by
  unfold VCtx.opTrn; grind -lia -linarith -ring -order [VCtx.pick_keeps]

theorem VCtx.opPerm_keeps {k m s0}  (x) (i) (h : Keeps k m s0 x.run.s) :
    Keeps k m s0 (VCtx.opPerm x i).run.s := by
  unfold VCtx.opPerm; grind -lia -linarith -ring -order [VCtx.pick_keeps]

theorem VCtx.opShuf_keeps {k m s0}  (x) (i) (h : Keeps k m s0 x.run.s) :
    Keeps k m s0 (VCtx.opShuf x i).run.s := by
  unfold VCtx.opShuf; grind -lia -linarith -ring -order [VCtx.pick_keeps]

theorem VCtx.opBcst_keeps {k m s0}  (x) (i) (h : Keeps k m s0 x.run.s) :
    Keeps k m s0 (VCtx.opBcst x i).run.s := by
  unfold VCtx.opBcst; grind -lia -linarith -ring -order [VCtx.pick_keeps]

theorem VCtx.reduce_keeps {k m s0}      {α : Type} (x : VCtx) (i : VInst) (ident : α) (val : Nat → Nat → α) (op : α → α → α)
    (out : α → Nat × Bool) (h : Keeps k m s0 x.run.s) : Keeps k m s0 (x.reduce i ident val op out).run.s :=
  VCtx.raiseAt_keeps _ _ _ _ _ _ _ (VCtx.put_keeps _ _ _ _ _ _ h)

theorem VCtx.opRsum_keeps {k m s0}  (x) (i) (h : Keeps k m s0 x.run.s) :
    Keeps k m s0 (VCtx.opRsum x i).run.s := by
  unfold VCtx.opRsum; grind -lia -linarith -ring -order [VCtx.reduce_keeps]

theorem VCtx.opRmax_keeps {k m s0}  (x) (i) (h : Keeps k m s0 x.run.s) :
    Keeps k m s0 (VCtx.opRmax x i).run.s := by
  unfold VCtx.opRmax; grind -lia -linarith -ring -order [VCtx.reduce_keeps]

theorem VCtx.opRmin_keeps {k m s0}  (x) (i) (h : Keeps k m s0 x.run.s) :
    Keeps k m s0 (VCtx.opRmin x i).run.s := by
  unfold VCtx.opRmin; grind -lia -linarith -ring -order [VCtx.reduce_keeps]

theorem VCtx.opRargmax_keeps {k m s0}  (x) (i) (h : Keeps k m s0 x.run.s) :
    Keeps k m s0 (VCtx.opRargmax x i).run.s := by
  unfold VCtx.opRargmax; grind -lia -linarith -ring -order [VCtx.reduce_keeps]

theorem VCtx.opRand_keeps {k m s0}  (x) (i) (h : Keeps k m s0 x.run.s) :
    Keeps k m s0 (VCtx.opRand x i).run.s := by
  unfold VCtx.opRand; grind -lia -linarith -ring -order [VCtx.run_keeps, VCtx.put_keeps]

theorem vecStep_keeps {k m s0} [Spares m .mem] [Spares m .parts] (op) (i) (x) (h : Keeps k m s0 x.run.s) :
    Keeps k m s0 (vecStep op i x).run.s := by
  unfold vecStep; grind -lia -linarith -ring -order [VCtx.opLd_keeps, VCtx.opSt_keeps, VCtx.opMov_keeps, VCtx.opConst_keeps, VCtx.opIota_keeps, VCtx.opAdd_keeps, VCtx.opSub_keeps, VCtx.opMul_keeps, VCtx.opFma_keeps, VCtx.opMax_keeps, VCtx.opMin_keeps, VCtx.opAbs_keeps, VCtx.opNeg_keeps, VCtx.opDiv_keeps, VCtx.opSqrt_keeps, VCtx.opRcp_keeps, VCtx.opRsqrt_keeps, VCtx.opFun_keeps, VCtx.opCmp_keeps, VCtx.opSel_keeps, VCtx.opKop_keeps, VCtx.opAnd_keeps, VCtx.opOr_keeps, VCtx.opXor_keeps, VCtx.opShl_keeps, VCtx.opShr_keeps, VCtx.opSra_keeps, VCtx.opCvt_keeps, VCtx.opPack_keeps, VCtx.opUnpk_keeps, VCtx.opTrn_keeps, VCtx.opPerm_keeps, VCtx.opShuf_keeps, VCtx.opBcst_keeps, VCtx.opRsum_keeps, VCtx.opRmax_keeps, VCtx.opRmin_keeps, VCtx.opRargmax_keeps, VCtx.opRand_keeps, VCtx.opNop_keeps]

theorem Desc.vecCtx_keeps {k m s0}  (d) (run) (g) (j) (h : Keeps k m s0 run.s) :
    Keeps k m s0 (Desc.vecCtx d run g j).run.s := by
  unfold Desc.vecCtx; grind -lia -linarith -ring -order []

theorem VCtx.runTile_keeps {k m s0} [Spares m .mem] [Spares m .parts] (x) (j) (l) (h : Keeps k m s0 x.run.s) :
    Keeps k m s0 (VCtx.runTile x j l).run.s := by
  unfold VCtx.runTile; grind -lia -linarith -ring -order [keeps_foldS, keeps_foldV, vecStep_keeps, VCtx.run_keeps]

theorem Run.vecGroup_keeps {k m s0} [Spares m .mem] [Spares m .parts] (r) (d) (g) (h : Keeps k m s0 r.s) :
    Keeps k m s0 (Run.vecGroup r d g).s := by
  unfold Run.vecGroup; grind -lia -linarith -ring -order [Desc.vecCtx_keeps, VCtx.runTile_keeps, keeps_foldS, keeps_foldV, keeps_foldR, Run.endUnit_keeps, VCtx.run_keeps]

theorem runVec_keeps {k m s0} [Spares m .rec'] [Spares m .mem] [Spares m .poison] [Spares m .parts] [Spares m .fresh] [Spares m .out] (s) (d) (sl) (r) (h : Keeps k m s0 s) :
    Keeps k m s0 (runVec s d sl r) := by
  unfold runVec; grind -lia -linarith -ring -order [Run.finish_keeps, keeps_foldS, keeps_foldR, Run.vecGroup_keeps, Run.start_keeps]

theorem execVec_keeps {k m s0} [Spares m .rec'] [Spares m .mem] [Spares m .poison] [Spares m .clbuf] [Spares m .opbuf] [Spares m .parts] [Spares m .fresh] [Spares m .out] (r) (s) (h : Keeps k m s0 s) :
    OutKeeps k m s0 (execVec r s) := by
  unfold execVec; grind -lia -linarith -ring -order [State.runSlice_keeps, runVec_keeps, outKeeps_next]

theorem State.vecCtx_state {s : State} {p : VecAt} {d : Desc} {x : VCtx} (e : s.vecCtx p = some (d, x)) : x.run.s = s := by
  unfold State.vecCtx at e
  grind [Desc.vecCtx, Run.start]

theorem State.vecRow_keeps {k m s0} [Spares m .rec'] [Spares m .mem] [Spares m .poison] [Spares m .clbuf] [Spares m .opbuf] [Spares m .vec] [Spares m .parts] [Spares m .fresh] [Spares m .out] (s : State) (p : VecAt) (op : Nat) (i : VInst) (f : VCtx → VCtx)
    (hf : ∀ x : VCtx, Keeps k m s0 x.run.s → Keeps k m s0 (f x).run.s) (h : Keeps k m s0 s) : Keeps k m s0 (s.vecRow p op i f) := by
  unfold State.vecRow
  split
  · exact h
  · rename_i d x e
    have hx := hf x (by rw [State.vecCtx_state e]; exact h)
    exact keeps_ite (State.testWaits_keeps _ _ (keeps_mk_vec (State.touchClusters_keeps _ _ (Run.finish_keeps _ _ hx)))) h

theorem execVecNop_keeps {k m s0} [Spares m .rec'] [Spares m .mem] [Spares m .poison] [Spares m .clbuf] [Spares m .opbuf] [Spares m .vec] [Spares m .parts] [Spares m .fresh] [Spares m .out] (p) (i) (s) (h : Keeps k m s0 s) :
    OutKeeps k m s0 (execVecNop p i s) := by
  unfold execVecNop; grind -lia -linarith -ring -order [State.vecRow_keeps, VCtx.opNop_keeps, outKeeps_next]

theorem execVecLd_keeps {k m s0} [Spares m .rec'] [Spares m .mem] [Spares m .poison] [Spares m .clbuf] [Spares m .opbuf] [Spares m .vec] [Spares m .parts] [Spares m .fresh] [Spares m .out] (p) (i) (s) (h : Keeps k m s0 s) :
    OutKeeps k m s0 (execVecLd p i s) := by
  unfold execVecLd; grind -lia -linarith -ring -order [State.vecRow_keeps, VCtx.opLd_keeps, outKeeps_next]

theorem execVecSt_keeps {k m s0} [Spares m .rec'] [Spares m .mem] [Spares m .poison] [Spares m .clbuf] [Spares m .opbuf] [Spares m .vec] [Spares m .parts] [Spares m .fresh] [Spares m .out] (p) (i) (s) (h : Keeps k m s0 s) :
    OutKeeps k m s0 (execVecSt p i s) := by
  unfold execVecSt; grind -lia -linarith -ring -order [State.vecRow_keeps, VCtx.opSt_keeps, outKeeps_next]

theorem execVecMov_keeps {k m s0} [Spares m .rec'] [Spares m .mem] [Spares m .poison] [Spares m .clbuf] [Spares m .opbuf] [Spares m .vec] [Spares m .parts] [Spares m .fresh] [Spares m .out] (p) (i) (s) (h : Keeps k m s0 s) :
    OutKeeps k m s0 (execVecMov p i s) := by
  unfold execVecMov; grind -lia -linarith -ring -order [State.vecRow_keeps, VCtx.opMov_keeps, outKeeps_next]

theorem execVecConst_keeps {k m s0} [Spares m .rec'] [Spares m .mem] [Spares m .poison] [Spares m .clbuf] [Spares m .opbuf] [Spares m .vec] [Spares m .parts] [Spares m .fresh] [Spares m .out] (p) (i) (s) (h : Keeps k m s0 s) :
    OutKeeps k m s0 (execVecConst p i s) := by
  unfold execVecConst; grind -lia -linarith -ring -order [State.vecRow_keeps, VCtx.opConst_keeps, outKeeps_next]

theorem execVecIota_keeps {k m s0} [Spares m .rec'] [Spares m .mem] [Spares m .poison] [Spares m .clbuf] [Spares m .opbuf] [Spares m .vec] [Spares m .parts] [Spares m .fresh] [Spares m .out] (p) (i) (s) (h : Keeps k m s0 s) :
    OutKeeps k m s0 (execVecIota p i s) := by
  unfold execVecIota; grind -lia -linarith -ring -order [State.vecRow_keeps, VCtx.opIota_keeps, outKeeps_next]

theorem execVecAdd_keeps {k m s0} [Spares m .rec'] [Spares m .mem] [Spares m .poison] [Spares m .clbuf] [Spares m .opbuf] [Spares m .vec] [Spares m .parts] [Spares m .fresh] [Spares m .out] (p) (i) (s) (h : Keeps k m s0 s) :
    OutKeeps k m s0 (execVecAdd p i s) := by
  unfold execVecAdd; grind -lia -linarith -ring -order [State.vecRow_keeps, VCtx.opAdd_keeps, outKeeps_next]

theorem execVecSub_keeps {k m s0} [Spares m .rec'] [Spares m .mem] [Spares m .poison] [Spares m .clbuf] [Spares m .opbuf] [Spares m .vec] [Spares m .parts] [Spares m .fresh] [Spares m .out] (p) (i) (s) (h : Keeps k m s0 s) :
    OutKeeps k m s0 (execVecSub p i s) := by
  unfold execVecSub; grind -lia -linarith -ring -order [State.vecRow_keeps, VCtx.opSub_keeps, outKeeps_next]

theorem execVecMul_keeps {k m s0} [Spares m .rec'] [Spares m .mem] [Spares m .poison] [Spares m .clbuf] [Spares m .opbuf] [Spares m .vec] [Spares m .parts] [Spares m .fresh] [Spares m .out] (p) (i) (s) (h : Keeps k m s0 s) :
    OutKeeps k m s0 (execVecMul p i s) := by
  unfold execVecMul; grind -lia -linarith -ring -order [State.vecRow_keeps, VCtx.opMul_keeps, outKeeps_next]

theorem execVecFma_keeps {k m s0} [Spares m .rec'] [Spares m .mem] [Spares m .poison] [Spares m .clbuf] [Spares m .opbuf] [Spares m .vec] [Spares m .parts] [Spares m .fresh] [Spares m .out] (p) (i) (s) (h : Keeps k m s0 s) :
    OutKeeps k m s0 (execVecFma p i s) := by
  unfold execVecFma; grind -lia -linarith -ring -order [State.vecRow_keeps, VCtx.opFma_keeps, outKeeps_next]

theorem execVecMax_keeps {k m s0} [Spares m .rec'] [Spares m .mem] [Spares m .poison] [Spares m .clbuf] [Spares m .opbuf] [Spares m .vec] [Spares m .parts] [Spares m .fresh] [Spares m .out] (p) (i) (s) (h : Keeps k m s0 s) :
    OutKeeps k m s0 (execVecMax p i s) := by
  unfold execVecMax; grind -lia -linarith -ring -order [State.vecRow_keeps, VCtx.opMax_keeps, outKeeps_next]

theorem execVecMin_keeps {k m s0} [Spares m .rec'] [Spares m .mem] [Spares m .poison] [Spares m .clbuf] [Spares m .opbuf] [Spares m .vec] [Spares m .parts] [Spares m .fresh] [Spares m .out] (p) (i) (s) (h : Keeps k m s0 s) :
    OutKeeps k m s0 (execVecMin p i s) := by
  unfold execVecMin; grind -lia -linarith -ring -order [State.vecRow_keeps, VCtx.opMin_keeps, outKeeps_next]

theorem execVecAbs_keeps {k m s0} [Spares m .rec'] [Spares m .mem] [Spares m .poison] [Spares m .clbuf] [Spares m .opbuf] [Spares m .vec] [Spares m .parts] [Spares m .fresh] [Spares m .out] (p) (i) (s) (h : Keeps k m s0 s) :
    OutKeeps k m s0 (execVecAbs p i s) := by
  unfold execVecAbs; grind -lia -linarith -ring -order [State.vecRow_keeps, VCtx.opAbs_keeps, outKeeps_next]

theorem execVecNeg_keeps {k m s0} [Spares m .rec'] [Spares m .mem] [Spares m .poison] [Spares m .clbuf] [Spares m .opbuf] [Spares m .vec] [Spares m .parts] [Spares m .fresh] [Spares m .out] (p) (i) (s) (h : Keeps k m s0 s) :
    OutKeeps k m s0 (execVecNeg p i s) := by
  unfold execVecNeg; grind -lia -linarith -ring -order [State.vecRow_keeps, VCtx.opNeg_keeps, outKeeps_next]

theorem execVecDiv_keeps {k m s0} [Spares m .rec'] [Spares m .mem] [Spares m .poison] [Spares m .clbuf] [Spares m .opbuf] [Spares m .vec] [Spares m .parts] [Spares m .fresh] [Spares m .out] (p) (i) (s) (h : Keeps k m s0 s) :
    OutKeeps k m s0 (execVecDiv p i s) := by
  unfold execVecDiv; grind -lia -linarith -ring -order [State.vecRow_keeps, VCtx.opDiv_keeps, outKeeps_next]

theorem execVecSqrt_keeps {k m s0} [Spares m .rec'] [Spares m .mem] [Spares m .poison] [Spares m .clbuf] [Spares m .opbuf] [Spares m .vec] [Spares m .parts] [Spares m .fresh] [Spares m .out] (p) (i) (s) (h : Keeps k m s0 s) :
    OutKeeps k m s0 (execVecSqrt p i s) := by
  unfold execVecSqrt; grind -lia -linarith -ring -order [State.vecRow_keeps, VCtx.opSqrt_keeps, outKeeps_next]

theorem execVecRcp_keeps {k m s0} [Spares m .rec'] [Spares m .mem] [Spares m .poison] [Spares m .clbuf] [Spares m .opbuf] [Spares m .vec] [Spares m .parts] [Spares m .fresh] [Spares m .out] (p) (i) (s) (h : Keeps k m s0 s) :
    OutKeeps k m s0 (execVecRcp p i s) := by
  unfold execVecRcp; grind -lia -linarith -ring -order [State.vecRow_keeps, VCtx.opRcp_keeps, outKeeps_next]

theorem execVecRsqrt_keeps {k m s0} [Spares m .rec'] [Spares m .mem] [Spares m .poison] [Spares m .clbuf] [Spares m .opbuf] [Spares m .vec] [Spares m .parts] [Spares m .fresh] [Spares m .out] (p) (i) (s) (h : Keeps k m s0 s) :
    OutKeeps k m s0 (execVecRsqrt p i s) := by
  unfold execVecRsqrt; grind -lia -linarith -ring -order [State.vecRow_keeps, VCtx.opRsqrt_keeps, outKeeps_next]

theorem execVecExp_keeps {k m s0} [Spares m .rec'] [Spares m .mem] [Spares m .poison] [Spares m .clbuf] [Spares m .opbuf] [Spares m .vec] [Spares m .parts] [Spares m .fresh] [Spares m .out] (p) (i) (s) (h : Keeps k m s0 s) :
    OutKeeps k m s0 (execVecExp p i s) := by
  unfold execVecExp; grind -lia -linarith -ring -order [State.vecRow_keeps, VCtx.opFun_keeps, outKeeps_next]

theorem execVecExp2_keeps {k m s0} [Spares m .rec'] [Spares m .mem] [Spares m .poison] [Spares m .clbuf] [Spares m .opbuf] [Spares m .vec] [Spares m .parts] [Spares m .fresh] [Spares m .out] (p) (i) (s) (h : Keeps k m s0 s) :
    OutKeeps k m s0 (execVecExp2 p i s) := by
  unfold execVecExp2; grind -lia -linarith -ring -order [State.vecRow_keeps, VCtx.opFun_keeps, outKeeps_next]

theorem execVecLog_keeps {k m s0} [Spares m .rec'] [Spares m .mem] [Spares m .poison] [Spares m .clbuf] [Spares m .opbuf] [Spares m .vec] [Spares m .parts] [Spares m .fresh] [Spares m .out] (p) (i) (s) (h : Keeps k m s0 s) :
    OutKeeps k m s0 (execVecLog p i s) := by
  unfold execVecLog; grind -lia -linarith -ring -order [State.vecRow_keeps, VCtx.opFun_keeps, outKeeps_next]

theorem execVecLog2_keeps {k m s0} [Spares m .rec'] [Spares m .mem] [Spares m .poison] [Spares m .clbuf] [Spares m .opbuf] [Spares m .vec] [Spares m .parts] [Spares m .fresh] [Spares m .out] (p) (i) (s) (h : Keeps k m s0 s) :
    OutKeeps k m s0 (execVecLog2 p i s) := by
  unfold execVecLog2; grind -lia -linarith -ring -order [State.vecRow_keeps, VCtx.opFun_keeps, outKeeps_next]

theorem execVecSin_keeps {k m s0} [Spares m .rec'] [Spares m .mem] [Spares m .poison] [Spares m .clbuf] [Spares m .opbuf] [Spares m .vec] [Spares m .parts] [Spares m .fresh] [Spares m .out] (p) (i) (s) (h : Keeps k m s0 s) :
    OutKeeps k m s0 (execVecSin p i s) := by
  unfold execVecSin; grind -lia -linarith -ring -order [State.vecRow_keeps, VCtx.opFun_keeps, outKeeps_next]

theorem execVecCos_keeps {k m s0} [Spares m .rec'] [Spares m .mem] [Spares m .poison] [Spares m .clbuf] [Spares m .opbuf] [Spares m .vec] [Spares m .parts] [Spares m .fresh] [Spares m .out] (p) (i) (s) (h : Keeps k m s0 s) :
    OutKeeps k m s0 (execVecCos p i s) := by
  unfold execVecCos; grind -lia -linarith -ring -order [State.vecRow_keeps, VCtx.opFun_keeps, outKeeps_next]

theorem execVecTanh_keeps {k m s0} [Spares m .rec'] [Spares m .mem] [Spares m .poison] [Spares m .clbuf] [Spares m .opbuf] [Spares m .vec] [Spares m .parts] [Spares m .fresh] [Spares m .out] (p) (i) (s) (h : Keeps k m s0 s) :
    OutKeeps k m s0 (execVecTanh p i s) := by
  unfold execVecTanh; grind -lia -linarith -ring -order [State.vecRow_keeps, VCtx.opFun_keeps, outKeeps_next]

theorem execVecSigmoid_keeps {k m s0} [Spares m .rec'] [Spares m .mem] [Spares m .poison] [Spares m .clbuf] [Spares m .opbuf] [Spares m .vec] [Spares m .parts] [Spares m .fresh] [Spares m .out] (p) (i) (s) (h : Keeps k m s0 s) :
    OutKeeps k m s0 (execVecSigmoid p i s) := by
  unfold execVecSigmoid; grind -lia -linarith -ring -order [State.vecRow_keeps, VCtx.opFun_keeps, outKeeps_next]

theorem execVecErf_keeps {k m s0} [Spares m .rec'] [Spares m .mem] [Spares m .poison] [Spares m .clbuf] [Spares m .opbuf] [Spares m .vec] [Spares m .parts] [Spares m .fresh] [Spares m .out] (p) (i) (s) (h : Keeps k m s0 s) :
    OutKeeps k m s0 (execVecErf p i s) := by
  unfold execVecErf; grind -lia -linarith -ring -order [State.vecRow_keeps, VCtx.opFun_keeps, outKeeps_next]

theorem execVecCmp_keeps {k m s0} [Spares m .rec'] [Spares m .mem] [Spares m .poison] [Spares m .clbuf] [Spares m .opbuf] [Spares m .vec] [Spares m .parts] [Spares m .fresh] [Spares m .out] (p) (i) (s) (h : Keeps k m s0 s) :
    OutKeeps k m s0 (execVecCmp p i s) := by
  unfold execVecCmp; grind -lia -linarith -ring -order [State.vecRow_keeps, VCtx.opCmp_keeps, outKeeps_next]

theorem execVecSel_keeps {k m s0} [Spares m .rec'] [Spares m .mem] [Spares m .poison] [Spares m .clbuf] [Spares m .opbuf] [Spares m .vec] [Spares m .parts] [Spares m .fresh] [Spares m .out] (p) (i) (s) (h : Keeps k m s0 s) :
    OutKeeps k m s0 (execVecSel p i s) := by
  unfold execVecSel; grind -lia -linarith -ring -order [State.vecRow_keeps, VCtx.opSel_keeps, outKeeps_next]

theorem execVecKop_keeps {k m s0} [Spares m .rec'] [Spares m .mem] [Spares m .poison] [Spares m .clbuf] [Spares m .opbuf] [Spares m .vec] [Spares m .parts] [Spares m .fresh] [Spares m .out] (p) (i) (s) (h : Keeps k m s0 s) :
    OutKeeps k m s0 (execVecKop p i s) := by
  unfold execVecKop; grind -lia -linarith -ring -order [State.vecRow_keeps, VCtx.opKop_keeps, outKeeps_next]

theorem execVecAnd_keeps {k m s0} [Spares m .rec'] [Spares m .mem] [Spares m .poison] [Spares m .clbuf] [Spares m .opbuf] [Spares m .vec] [Spares m .parts] [Spares m .fresh] [Spares m .out] (p) (i) (s) (h : Keeps k m s0 s) :
    OutKeeps k m s0 (execVecAnd p i s) := by
  unfold execVecAnd; grind -lia -linarith -ring -order [State.vecRow_keeps, VCtx.opAnd_keeps, outKeeps_next]

theorem execVecOr_keeps {k m s0} [Spares m .rec'] [Spares m .mem] [Spares m .poison] [Spares m .clbuf] [Spares m .opbuf] [Spares m .vec] [Spares m .parts] [Spares m .fresh] [Spares m .out] (p) (i) (s) (h : Keeps k m s0 s) :
    OutKeeps k m s0 (execVecOr p i s) := by
  unfold execVecOr; grind -lia -linarith -ring -order [State.vecRow_keeps, VCtx.opOr_keeps, outKeeps_next]

theorem execVecXor_keeps {k m s0} [Spares m .rec'] [Spares m .mem] [Spares m .poison] [Spares m .clbuf] [Spares m .opbuf] [Spares m .vec] [Spares m .parts] [Spares m .fresh] [Spares m .out] (p) (i) (s) (h : Keeps k m s0 s) :
    OutKeeps k m s0 (execVecXor p i s) := by
  unfold execVecXor; grind -lia -linarith -ring -order [State.vecRow_keeps, VCtx.opXor_keeps, outKeeps_next]

theorem execVecShl_keeps {k m s0} [Spares m .rec'] [Spares m .mem] [Spares m .poison] [Spares m .clbuf] [Spares m .opbuf] [Spares m .vec] [Spares m .parts] [Spares m .fresh] [Spares m .out] (p) (i) (s) (h : Keeps k m s0 s) :
    OutKeeps k m s0 (execVecShl p i s) := by
  unfold execVecShl; grind -lia -linarith -ring -order [State.vecRow_keeps, VCtx.opShl_keeps, outKeeps_next]

theorem execVecShr_keeps {k m s0} [Spares m .rec'] [Spares m .mem] [Spares m .poison] [Spares m .clbuf] [Spares m .opbuf] [Spares m .vec] [Spares m .parts] [Spares m .fresh] [Spares m .out] (p) (i) (s) (h : Keeps k m s0 s) :
    OutKeeps k m s0 (execVecShr p i s) := by
  unfold execVecShr; grind -lia -linarith -ring -order [State.vecRow_keeps, VCtx.opShr_keeps, outKeeps_next]

theorem execVecSra_keeps {k m s0} [Spares m .rec'] [Spares m .mem] [Spares m .poison] [Spares m .clbuf] [Spares m .opbuf] [Spares m .vec] [Spares m .parts] [Spares m .fresh] [Spares m .out] (p) (i) (s) (h : Keeps k m s0 s) :
    OutKeeps k m s0 (execVecSra p i s) := by
  unfold execVecSra; grind -lia -linarith -ring -order [State.vecRow_keeps, VCtx.opSra_keeps, outKeeps_next]

theorem execVecCvt_keeps {k m s0} [Spares m .rec'] [Spares m .mem] [Spares m .poison] [Spares m .clbuf] [Spares m .opbuf] [Spares m .vec] [Spares m .parts] [Spares m .fresh] [Spares m .out] (p) (i) (s) (h : Keeps k m s0 s) :
    OutKeeps k m s0 (execVecCvt p i s) := by
  unfold execVecCvt; grind -lia -linarith -ring -order [State.vecRow_keeps, VCtx.opCvt_keeps, outKeeps_next]

theorem execVecPack_keeps {k m s0} [Spares m .rec'] [Spares m .mem] [Spares m .poison] [Spares m .clbuf] [Spares m .opbuf] [Spares m .vec] [Spares m .parts] [Spares m .fresh] [Spares m .out] (p) (i) (s) (h : Keeps k m s0 s) :
    OutKeeps k m s0 (execVecPack p i s) := by
  unfold execVecPack; grind -lia -linarith -ring -order [State.vecRow_keeps, VCtx.opPack_keeps, outKeeps_next]

theorem execVecUnpk_keeps {k m s0} [Spares m .rec'] [Spares m .mem] [Spares m .poison] [Spares m .clbuf] [Spares m .opbuf] [Spares m .vec] [Spares m .parts] [Spares m .fresh] [Spares m .out] (p) (i) (s) (h : Keeps k m s0 s) :
    OutKeeps k m s0 (execVecUnpk p i s) := by
  unfold execVecUnpk; grind -lia -linarith -ring -order [State.vecRow_keeps, VCtx.opUnpk_keeps, outKeeps_next]

theorem execVecTrn_keeps {k m s0} [Spares m .rec'] [Spares m .mem] [Spares m .poison] [Spares m .clbuf] [Spares m .opbuf] [Spares m .vec] [Spares m .parts] [Spares m .fresh] [Spares m .out] (p) (i) (s) (h : Keeps k m s0 s) :
    OutKeeps k m s0 (execVecTrn p i s) := by
  unfold execVecTrn; grind -lia -linarith -ring -order [State.vecRow_keeps, VCtx.opTrn_keeps, outKeeps_next]

theorem execVecPerm_keeps {k m s0} [Spares m .rec'] [Spares m .mem] [Spares m .poison] [Spares m .clbuf] [Spares m .opbuf] [Spares m .vec] [Spares m .parts] [Spares m .fresh] [Spares m .out] (p) (i) (s) (h : Keeps k m s0 s) :
    OutKeeps k m s0 (execVecPerm p i s) := by
  unfold execVecPerm; grind -lia -linarith -ring -order [State.vecRow_keeps, VCtx.opPerm_keeps, outKeeps_next]

theorem execVecShuf_keeps {k m s0} [Spares m .rec'] [Spares m .mem] [Spares m .poison] [Spares m .clbuf] [Spares m .opbuf] [Spares m .vec] [Spares m .parts] [Spares m .fresh] [Spares m .out] (p) (i) (s) (h : Keeps k m s0 s) :
    OutKeeps k m s0 (execVecShuf p i s) := by
  unfold execVecShuf; grind -lia -linarith -ring -order [State.vecRow_keeps, VCtx.opShuf_keeps, outKeeps_next]

theorem execVecBcst_keeps {k m s0} [Spares m .rec'] [Spares m .mem] [Spares m .poison] [Spares m .clbuf] [Spares m .opbuf] [Spares m .vec] [Spares m .parts] [Spares m .fresh] [Spares m .out] (p) (i) (s) (h : Keeps k m s0 s) :
    OutKeeps k m s0 (execVecBcst p i s) := by
  unfold execVecBcst; grind -lia -linarith -ring -order [State.vecRow_keeps, VCtx.opBcst_keeps, outKeeps_next]

theorem execVecRsum_keeps {k m s0} [Spares m .rec'] [Spares m .mem] [Spares m .poison] [Spares m .clbuf] [Spares m .opbuf] [Spares m .vec] [Spares m .parts] [Spares m .fresh] [Spares m .out] (p) (i) (s) (h : Keeps k m s0 s) :
    OutKeeps k m s0 (execVecRsum p i s) := by
  unfold execVecRsum; grind -lia -linarith -ring -order [State.vecRow_keeps, VCtx.opRsum_keeps, outKeeps_next]

theorem execVecRmax_keeps {k m s0} [Spares m .rec'] [Spares m .mem] [Spares m .poison] [Spares m .clbuf] [Spares m .opbuf] [Spares m .vec] [Spares m .parts] [Spares m .fresh] [Spares m .out] (p) (i) (s) (h : Keeps k m s0 s) :
    OutKeeps k m s0 (execVecRmax p i s) := by
  unfold execVecRmax; grind -lia -linarith -ring -order [State.vecRow_keeps, VCtx.opRmax_keeps, outKeeps_next]

theorem execVecRmin_keeps {k m s0} [Spares m .rec'] [Spares m .mem] [Spares m .poison] [Spares m .clbuf] [Spares m .opbuf] [Spares m .vec] [Spares m .parts] [Spares m .fresh] [Spares m .out] (p) (i) (s) (h : Keeps k m s0 s) :
    OutKeeps k m s0 (execVecRmin p i s) := by
  unfold execVecRmin; grind -lia -linarith -ring -order [State.vecRow_keeps, VCtx.opRmin_keeps, outKeeps_next]

theorem execVecRargmax_keeps {k m s0} [Spares m .rec'] [Spares m .mem] [Spares m .poison] [Spares m .clbuf] [Spares m .opbuf] [Spares m .vec] [Spares m .parts] [Spares m .fresh] [Spares m .out] (p) (i) (s) (h : Keeps k m s0 s) :
    OutKeeps k m s0 (execVecRargmax p i s) := by
  unfold execVecRargmax; grind -lia -linarith -ring -order [State.vecRow_keeps, VCtx.opRargmax_keeps, outKeeps_next]

theorem execVecRand_keeps {k m s0} [Spares m .rec'] [Spares m .mem] [Spares m .poison] [Spares m .clbuf] [Spares m .opbuf] [Spares m .vec] [Spares m .parts] [Spares m .fresh] [Spares m .out] (p) (i) (s) (h : Keeps k m s0 s) :
    OutKeeps k m s0 (execVecRand p i s) := by
  unfold execVecRand; grind -lia -linarith -ring -order [State.vecRow_keeps, VCtx.opRand_keeps, outKeeps_next]

end Sys2Proof.Machine
end

