-- ==== Sys2Proof/Laws/KeepsConv.lean ====
section
/-!
SUPPORT. That each function of Machine/Conv.lean keeps what a command keeps (`Keeps`, `OutKeeps`).
-/

namespace Sys2Proof.Machine

theorem convZero_keeps {k m s0} [Spares m .rec'] [Spares m .mem] [Spares m .poison] [Spares m .parts] [Spares m .fresh] [Spares m .out] (s) (p) (d) (h : Keeps k m s0 s) :
    Keeps k m s0 (convZero s p d) := by
  unfold convZero; grind -lia -linarith -ring -order [keeps_foldS, keeps_foldR, Run.wrN_keeps, Run.start_keeps, Run.finish_keeps]

theorem Run.convUnit_keeps {k m s0} [Spares m .mem] (r) (d) (a) (b) (o) (c?) (pad) (u) (h : Keeps k m s0 r.s) :
    Keeps k m s0 (Run.convUnit r d a b o c? pad u).s := by
  unfold Run.convUnit; grind -lia -linarith -ring -order [Run.s_keeps, Run.reads_keeps, keeps_foldS, keeps_foldR, Run.writeMatrix_keeps]

theorem Run.noteMade_keeps {k m s0}  (r) (o) (i) (made) (h : Keeps k m s0 r.s) :
    Keeps k m s0 (Run.noteMade r o i made).s := by
  unfold Run.noteMade; grind -lia -linarith -ring -order [Run.note_keeps]

theorem Run.freqUnit_keeps {k m s0} [Spares m .mem] (r) (d) (a) (b) (o) (c?) (pad) (u) (h : Keeps k m s0 r.s) :
    Keeps k m s0 (Run.freqUnit r d a b o c? pad u).s := by
  unfold Run.freqUnit
  extract_lets q fwd own ch nch bf wd
  split
  split
  extract_lets nx ny
  split
  extract_lets coords
  refine keeps_foldR (fun w c hw => ?_) h
  extract_lets i
  split
  rename_i init cells e
  split
  rename_i xs ws e'
  extract_lets -lift w1 nans
  have h1 : Keeps k m s0 w1.s := Run.reads_keeps _ _ (Run.readsElems_keeps _ _ _ (Run.readsElems_keeps _ _ _ hw))
  clear_value w1
  split
  · exact Run.wrN_keeps _ _ _ _ (Run.noteMade_keeps _ _ _ _ h1)
  · exact Run.wrN_keeps _ _ _ _ (Run.note_keeps _ _ h1)

theorem runConv_keeps {k m s0} [Spares m .rec'] [Spares m .mem] [Spares m .poison] [Spares m .parts] [Spares m .fresh] [Spares m .out] (s) (d) (sl) (r) (h : Keeps k m s0 s) :
    Keeps k m s0 (runConv s d sl r) := by
  unfold runConv; grind -lia -linarith -ring -order [State.free_keeps, Run.start_keeps, Run.finish_keeps, keeps_foldS, keeps_foldR, Run.freqUnit_keeps, Run.convUnit_keeps]

theorem execConvFwd_keeps {k m s0} [Spares m .rec'] [Spares m .mem] [Spares m .poison] [Spares m .clbuf] [Spares m .opbuf] [Spares m .parts] [Spares m .fresh] [Spares m .out] (r) (s) (h : Keeps k m s0 s) :
    OutKeeps k m s0 (execConvFwd r s) := by
  unfold execConvFwd; grind -lia -linarith -ring -order [State.runSlice_keeps, runConv_keeps, outKeeps_next]

theorem execConvDgrad_keeps {k m s0} [Spares m .rec'] [Spares m .mem] [Spares m .poison] [Spares m .clbuf] [Spares m .opbuf] [Spares m .parts] [Spares m .fresh] [Spares m .out] (r) (s) (h : Keeps k m s0 s) :
    OutKeeps k m s0 (execConvDgrad r s) := by
  unfold execConvDgrad; grind -lia -linarith -ring -order [State.runSlice_keeps, runConv_keeps, outKeeps_next]

theorem execConvWgrad_keeps {k m s0} [Spares m .rec'] [Spares m .mem] [Spares m .poison] [Spares m .clbuf] [Spares m .opbuf] [Spares m .parts] [Spares m .fresh] [Spares m .out] (r) (s) (h : Keeps k m s0 s) :
    OutKeeps k m s0 (execConvWgrad r s) := by
  unfold execConvWgrad; grind -lia -linarith -ring -order [State.runSlice_keeps, runConv_keeps, outKeeps_next]

theorem Run.writeMade_keeps {k m s0} [Spares m .mem] [Spares m .parts] (r) (o) (i) (w) (made) (h : Keeps k m s0 r.s) :
    Keeps k m s0 (Run.writeMade r o i w made).s := by
  unfold Run.writeMade; grind -lia -linarith -ring -order [Run.raise_keeps, Run.writeElem_keeps]

theorem Run.poolOut_keeps {k m s0} [Spares m .mem] [Spares m .parts] [Spares m .fresh] (r) (d) (t) (o) (x?) (pad) (c) (h : Keeps k m s0 r.s) :
    Keeps k m s0 (Run.poolOut r d t o x? pad c).s := by
  unfold Run.poolOut; grind -lia -linarith -ring -order [Run.reads_keeps, Run.s_keeps, Run.raise_keeps, State.free_keeps, Run.writeMade_keeps, Run.wrN_keeps]

theorem Run.poolBack_keeps {k m s0} [Spares m .mem] [Spares m .parts] (r) (d) (t) (o) (x?) (c) (h : Keeps k m s0 r.s) :
    Keeps k m s0 (Run.poolBack r d t o x? c).s := by
  unfold Run.poolBack; grind -lia -linarith -ring -order [Run.s_keeps, Run.reads_keeps, Run.raise_keeps, Run.writeMade_keeps]

theorem Run.poolUnit_keeps {k m s0} [Spares m .mem] [Spares m .parts] [Spares m .fresh] (r) (d) (t) (o) (x?) (pad) (u) (h : Keeps k m s0 r.s) :
    Keeps k m s0 (Run.poolUnit r d t o x? pad u).s := by
  unfold Run.poolUnit; grind -lia -linarith -ring -order [Run.endUnit_keeps, keeps_foldS, keeps_foldR, Run.poolOut_keeps, Run.poolBack_keeps]

theorem runPool_keeps {k m s0} [Spares m .rec'] [Spares m .mem] [Spares m .poison] [Spares m .parts] [Spares m .fresh] [Spares m .out] (s) (d) (sl) (r) (h : Keeps k m s0 s) :
    Keeps k m s0 (runPool s d sl r) := by
  unfold runPool; grind -lia -linarith -ring -order [State.free_keeps, Run.finish_keeps, keeps_foldS, keeps_foldR, Run.poolUnit_keeps, Run.start_keeps]

theorem State.poolRow_keeps {k m s0} [Spares m .rec'] [Spares m .mem] [Spares m .poison] [Spares m .clbuf] [Spares m .opbuf] [Spares m .parts] [Spares m .fresh] [Spares m .out] (s) (r) (f) (h : Keeps k m s0 s) :
    Keeps k m s0 (State.poolRow s r f) := by
  unfold State.poolRow; grind -lia -linarith -ring -order [State.runSlice_keeps, runPool_keeps]

theorem execPoolMax_keeps {k m s0} [Spares m .rec'] [Spares m .mem] [Spares m .poison] [Spares m .clbuf] [Spares m .opbuf] [Spares m .parts] [Spares m .fresh] [Spares m .out] (r) (s) (h : Keeps k m s0 s) :
    OutKeeps k m s0 (execPoolMax r s) := by
  unfold execPoolMax; grind -lia -linarith -ring -order [State.poolRow_keeps, outKeeps_next]

theorem execPoolAvgIncl_keeps {k m s0} [Spares m .rec'] [Spares m .mem] [Spares m .poison] [Spares m .clbuf] [Spares m .opbuf] [Spares m .parts] [Spares m .fresh] [Spares m .out] (r) (s) (h : Keeps k m s0 s) :
    OutKeeps k m s0 (execPoolAvgIncl r s) := by
  unfold execPoolAvgIncl; grind -lia -linarith -ring -order [State.poolRow_keeps, outKeeps_next]

theorem execPoolAvgExcl_keeps {k m s0} [Spares m .rec'] [Spares m .mem] [Spares m .poison] [Spares m .clbuf] [Spares m .opbuf] [Spares m .parts] [Spares m .fresh] [Spares m .out] (r) (s) (h : Keeps k m s0 s) :
    OutKeeps k m s0 (execPoolAvgExcl r s) := by
  unfold execPoolAvgExcl; grind -lia -linarith -ring -order [State.poolRow_keeps, outKeeps_next]

theorem execPoolMaxBwd_keeps {k m s0} [Spares m .rec'] [Spares m .mem] [Spares m .poison] [Spares m .clbuf] [Spares m .opbuf] [Spares m .parts] [Spares m .fresh] [Spares m .out] (r) (s) (h : Keeps k m s0 s) :
    OutKeeps k m s0 (execPoolMaxBwd r s) := by
  unfold execPoolMaxBwd; grind -lia -linarith -ring -order [State.poolRow_keeps, outKeeps_next]

theorem execPoolAvgInclBwd_keeps {k m s0} [Spares m .rec'] [Spares m .mem] [Spares m .poison] [Spares m .clbuf] [Spares m .opbuf] [Spares m .parts] [Spares m .fresh] [Spares m .out] (r) (s) (h : Keeps k m s0 s) :
    OutKeeps k m s0 (execPoolAvgInclBwd r s) := by
  unfold execPoolAvgInclBwd; grind -lia -linarith -ring -order [State.poolRow_keeps, outKeeps_next]

theorem execPoolAvgExclBwd_keeps {k m s0} [Spares m .rec'] [Spares m .mem] [Spares m .poison] [Spares m .clbuf] [Spares m .opbuf] [Spares m .parts] [Spares m .fresh] [Spares m .out] (r) (s) (h : Keeps k m s0 s) :
    OutKeeps k m s0 (execPoolAvgExclBwd r s) := by
  unfold execPoolAvgExclBwd; grind -lia -linarith -ring -order [State.poolRow_keeps, outKeeps_next]

theorem Run.boxUnit_keeps {k m s0} [Spares m .mem] [Spares m .parts] (r) (d) (a) (t) (o) (u) (h : Keeps k m s0 r.s) :
    Keeps k m s0 (Run.boxUnit r d a t o u).s := by
  unfold Run.boxUnit; grind -lia -linarith -ring -order [Run.endUnit_keeps, keeps_foldS, keeps_foldR, Run.readsElems_keeps, Run.s_keeps, Run.writeMade_keeps]

theorem runBox_keeps {k m s0} [Spares m .rec'] [Spares m .mem] [Spares m .poison] [Spares m .parts] [Spares m .fresh] [Spares m .out] (s) (d) (sl) (r) (h : Keeps k m s0 s) :
    Keeps k m s0 (runBox s d sl r) := by
  unfold runBox; grind -lia -linarith -ring -order [Run.finish_keeps, keeps_foldS, keeps_foldR, Run.boxUnit_keeps, Run.start_keeps]

theorem execBoxDecode_keeps {k m s0} [Spares m .rec'] [Spares m .mem] [Spares m .poison] [Spares m .clbuf] [Spares m .opbuf] [Spares m .parts] [Spares m .fresh] [Spares m .out] (r) (s) (h : Keeps k m s0 s) :
    OutKeeps k m s0 (execBoxDecode r s) := by
  unfold execBoxDecode; grind -lia -linarith -ring -order [State.runSlice_keeps, runBox_keeps, outKeeps_next]

theorem Run.supUnit_keeps {k m s0} [Spares m .mem] (r) (d) (b) (c) (k_) (n) (z) (h : Keeps k m s0 r.s) :
    Keeps k m s0 (Run.supUnit r d b c k_ n z).s := by
  unfold Run.supUnit
  extract_lets nb maxOut bi r1 box cand sorted kept r2
  have h1 : Keeps k m s0 r1.s := Run.readsElems_keeps _ _ _ (Run.readsElems_keeps _ _ _ h)
  have h2 : Keeps k m s0 r2.s := keeps_foldR (fun w c hw => Run.wrN_keeps _ _ _ _ hw) h1
  exact Run.endUnit_keeps _ (Run.wrN_keeps _ _ _ _ h2)

theorem runSup_keeps {k m s0} [Spares m .rec'] [Spares m .mem] [Spares m .poison] [Spares m .parts] [Spares m .fresh] [Spares m .out] (s) (d) (sl) (r) (h : Keeps k m s0 s) :
    Keeps k m s0 (runSup s d sl r) := by
  unfold runSup; grind -lia -linarith -ring -order [Run.finish_keeps, keeps_foldS, keeps_foldR, Run.supUnit_keeps, Run.start_keeps]

theorem execOverlapSuppress_keeps {k m s0} [Spares m .rec'] [Spares m .mem] [Spares m .poison] [Spares m .clbuf] [Spares m .opbuf] [Spares m .parts] [Spares m .fresh] [Spares m .out] (r) (s) (h : Keeps k m s0 s) :
    OutKeeps k m s0 (execOverlapSuppress r s) := by
  unfold execOverlapSuppress; grind -lia -linarith -ring -order [State.runSlice_keeps, runSup_keeps, outKeeps_next]

end Sys2Proof.Machine
end

