-- ==== Sys2Proof/Laws/KeepsAttn.lean ====
section
/-!
SUPPORT. That each function of Machine/Attn.lean keeps what a command keeps (`Keeps`, `OutKeeps`).
-/

namespace Sys2Proof.Machine

theorem Run.dotUnit_keeps {k m s0}      (r : Run) (o f ls j elems) (write : Run → Nat → Fp → Run)
    (hw : ∀ (w : Run) i x, Keeps k m s0 w.s → Keeps k m s0 (write w i x).s) (h : Keeps k m s0 r.s) :
    Keeps k m s0 (r.dotUnit o f ls j elems write).s := by
  unfold Run.dotUnit
  dsimp only
  split
  · exact h
  · exact keeps_foldR (fun w v hv => hw w _ _ hv) h

theorem Run.writePos_keeps {k m s0} [Spares m .mem] (r) (d) (o) (h : Keeps k m s0 r.s) :
    Keeps k m s0 (Run.writePos r d o).s := by
  unfold Run.writePos; grind -lia -linarith -ring -order [keeps_foldS, keeps_foldR, Run.wrN_keeps]

theorem Run.scoreUnit_keeps {k m s0} [Spares m .mem] (r) (d) (u) (h : Keeps k m s0 r.s) :
    Keeps k m s0 (Run.scoreUnit r d u).s := by
  unfold Run.scoreUnit; grind -lia -linarith -ring -order [Run.writePos_keeps, Run.readsElems_keeps, Run.s_keeps, Run.dotUnit_keeps, Run.wrN_keeps]

theorem runAttn_keeps {k m s0} [Spares m .rec'] [Spares m .mem] [Spares m .poison] [Spares m .parts] [Spares m .fresh] [Spares m .out] (s : State) (d sl r kind engines) (f : Run → Desc → Nat → Run)
    (hf : ∀ (w : Run) d u, Keeps k m s0 w.s → Keeps k m s0 (f w d u).s) (h : Keeps k m s0 s) :
    Keeps k m s0 (runAttn s d sl r kind engines f) :=
  Run.finish_keeps _ _ (keeps_foldR (fun w u hw => hf w d u hw) h)

theorem execAttnScore_keeps {k m s0} [Spares m .rec'] [Spares m .mem] [Spares m .poison] [Spares m .clbuf] [Spares m .opbuf] [Spares m .parts] [Spares m .fresh] [Spares m .out] (r) (s) (h : Keeps k m s0 s) :
    OutKeeps k m s0 (execAttnScore r s) := by
  unfold execAttnScore; grind -lia -linarith -ring -order [State.runSlice_keeps, runAttn_keeps, Run.scoreUnit_keeps, outKeeps_next]

theorem Run.normRow_keeps {k m s0} [Spares m .mem] [Spares m .parts] (r) (d) (t) (st) (h_) (i) (h : Keeps k m s0 r.s) :
    Keeps k m s0 (Run.normRow r d t st h_ i).s := by
  unfold Run.normRow; grind -lia -linarith -ring -order [Run.wrN_keeps, keeps_foldS, keeps_foldR, Run.readsElems_keeps, Run.s_keeps, Run.raise_keeps, Run.writeElem_keeps]

theorem Run.normUnit_keeps {k m s0} [Spares m .mem] [Spares m .parts] (r) (d) (u) (h : Keeps k m s0 r.s) :
    Keeps k m s0 (Run.normUnit r d u).s := by
  unfold Run.normUnit; grind -lia -linarith -ring -order [Run.endUnit_keeps, keeps_foldS, keeps_foldR, Run.normRow_keeps]

theorem execAttnNorm_keeps {k m s0} [Spares m .rec'] [Spares m .mem] [Spares m .poison] [Spares m .clbuf] [Spares m .opbuf] [Spares m .parts] [Spares m .fresh] [Spares m .out] (r) (s) (h : Keeps k m s0 s) :
    OutKeeps k m s0 (execAttnNorm r s) := by
  unfold execAttnNorm; grind -lia -linarith -ring -order [State.runSlice_keeps, runAttn_keeps, Run.normUnit_keeps, outKeeps_next]

theorem Run.pvZero_keeps {k m s0} [Spares m .mem] (r) (d) (o) (h : Keeps k m s0 r.s) :
    Keeps k m s0 (Run.pvZero r d o).s := by
  unfold Run.pvZero; grind -lia -linarith -ring -order [keeps_foldS, keeps_foldR, Run.writeMatrix_keeps]

theorem Run.pvUnit_keeps {k m s0} [Spares m .mem] (r) (d) (u) (h : Keeps k m s0 r.s) :
    Keeps k m s0 (Run.pvUnit r d u).s := by
  unfold Run.pvUnit; grind -lia -linarith -ring -order [Run.pvZero_keeps, Run.readsElems_keeps, Run.s_keeps, Run.dotUnit_keeps, Run.writeMatrix_keeps]

theorem execAttnPv_keeps {k m s0} [Spares m .rec'] [Spares m .mem] [Spares m .poison] [Spares m .clbuf] [Spares m .opbuf] [Spares m .parts] [Spares m .fresh] [Spares m .out] (r) (s) (h : Keeps k m s0 s) :
    OutKeeps k m s0 (execAttnPv r s) := by
  unfold execAttnPv; grind -lia -linarith -ring -order [State.runSlice_keeps, runAttn_keeps, Run.pvUnit_keeps, outKeeps_next]

theorem Run.bwdZero_keeps {k m s0} [Spares m .mem] (r) (d) (ds) (h_) (i) (k_) (h : Keeps k m s0 r.s) :
    Keeps k m s0 (Run.bwdZero r d ds h_ i k_).s := by
  unfold Run.bwdZero; grind -lia -linarith -ring -order [Run.wrN_keeps]

theorem Run.bwdReads_keeps {k m s0}  (r) (d) (st) (v) (o) (dO) (h_) (i) (keys) (h : Keeps k m s0 r.s) :
    Keeps k m s0 (Run.bwdReads r d st v o dO h_ i keys).s := by
  unfold Run.bwdReads; grind -lia -linarith -ring -order [Run.readsElems_keeps, Run.reads_keeps]

theorem Run.raiseIf_keeps {k m s0}  (r) (e) (h : Keeps k m s0 r.s) :
    Keeps k m s0 (Run.raiseIf r e).s := by
  unfold Run.raiseIf; grind -lia -linarith -ring -order [Run.raise_keeps]

theorem Run.bwdCell_keeps {k m s0} [Spares m .mem] [Spares m .parts] (r) (d) (s) (st) (v) (o) (dO) (ds) (big) (h_) (i) (k_) (h : Keeps k m s0 r.s) (h : Keeps k m s0 s) :
    Keeps k m s0 (Run.bwdCell r d s st v o dO ds big h_ i k_).s := by
  unfold Run.bwdCell; grind -lia -linarith -ring -order [Run.raiseIf_keeps, Run.writeElem_keeps]

theorem Run.bwdRow_keeps {k m s0} [Spares m .mem] [Spares m .parts] (r) (d) (st) (v) (o) (dO) (ds) (h_) (i) (h : Keeps k m s0 r.s) :
    Keeps k m s0 (Run.bwdRow r d st v o dO ds h_ i).s := by
  unfold Run.bwdRow; grind -lia -linarith -ring -order [keeps_foldS, keeps_foldR, Run.bwdZero_keeps, Run.bwdCell_keeps, Run.s_keeps, Run.bwdReads_keeps]

theorem Run.bwdUnit_keeps {k m s0} [Spares m .mem] [Spares m .parts] (r) (d) (u) (h : Keeps k m s0 r.s) :
    Keeps k m s0 (Run.bwdUnit r d u).s := by
  unfold Run.bwdUnit; grind -lia -linarith -ring -order [Run.endUnit_keeps, keeps_foldS, keeps_foldR, Run.bwdRow_keeps]

theorem execAttnBwd_keeps {k m s0} [Spares m .rec'] [Spares m .mem] [Spares m .poison] [Spares m .clbuf] [Spares m .opbuf] [Spares m .parts] [Spares m .fresh] [Spares m .out] (r) (s) (h : Keeps k m s0 s) :
    OutKeeps k m s0 (execAttnBwd r s) := by
  unfold execAttnBwd; grind -lia -linarith -ring -order [State.runSlice_keeps, runAttn_keeps, Run.bwdUnit_keeps, outKeeps_next]

end Sys2Proof.Machine
end

