-- ==== Sys2Proof/Laws/KeepsCache.lean ====
section
/-!
SUPPORT. That each function of Machine/Cache.lean keeps what a command keeps (`Keeps`, `OutKeeps`).
-/

namespace Sys2Proof.Machine

theorem State.wrOwn_keeps {k m s0} [Spares m .mem] [Spares m .poison] [Spares m .fresh] (s) (p) (a) (n) (v) (h : Keeps k m s0 s) :
    Keeps k m s0 (State.wrOwn s p a n v) := by
  unfold State.wrOwn; grind -lia -linarith -ring -order [State.lateWrites_keeps, State.wrN_keeps]

theorem State.setSeqWord_keeps {k m s0} [Spares m .mem] [Spares m .poison] [Spares m .fresh] (s) (p) (n) (off) (v) (h : Keeps k m s0 s) :
    Keeps k m s0 (State.setSeqWord s p n off v) := by
  unfold State.setSeqWord; grind -lia -linarith -ring -order [State.wrOwn_keeps, State.wrN_keeps]

theorem State.givePage_keeps {k m s0} [Spares m .mem] [Spares m .poison] [Spares m .fresh] (s) (p) (page) (h : Keeps k m s0 s) :
    Keeps k m s0 (State.givePage s p page) := by
  unfold State.givePage; grind -lia -linarith -ring -order [State.wrOwn_keeps, State.wrN_keeps]

theorem State.takePage_keeps {k m s0} [Spares m .mem] [Spares m .poison] [Spares m .fresh] (s) (p) (h : Keeps k m s0 s) :
    Keeps k m s0 (State.takePage s p).2 := by
  unfold State.takePage; grind -lia -linarith -ring -order [State.wrOwn_keeps, State.wrN_keeps]
theorem State.takePage_keeps' {k m s0} [Spares m .mem] [Spares m .poison] [Spares m .fresh] {s} {p} {x t} (eq_ : State.takePage s p = (x, t)) (h : Keeps k m s0 s) : Keeps k m s0 t := by
  have g := State.takePage_keeps s p h
  rw [eq_] at g; exact g

theorem State.giveEntry_keeps {k m s0} [Spares m .mem] [Spares m .poison] [Spares m .fresh] (s) (p) (c) (i) (h : Keeps k m s0 s) :
    Keeps k m s0 (State.giveEntry s p c i) := by
  unfold State.giveEntry; grind -lia -linarith -ring -order [State.wrOwn_keeps, State.givePage_keeps, State.wrN_keeps]

theorem State.takeEntry_keeps {k m s0} [Spares m .mem] [Spares m .poison] [Spares m .fresh] (s) (p) (c) (i) (h : Keeps k m s0 s) :
    Keeps k m s0 (State.takeEntry s p c i) := by
  unfold State.takeEntry; grind -lia -linarith -ring -order [State.takePage_keeps, State.wrOwn_keeps, State.wrN_keeps]

theorem Run.zeroRows_keeps {k m s0} [Spares m .mem] (r) (d) (b) (h : Keeps k m s0 r.s) :
    Keeps k m s0 (Run.zeroRows r d b).s := by
  unfold Run.zeroRows; grind -lia -linarith -ring -order [keeps_foldS, keeps_foldR, Run.wrN_keeps]

theorem Run.endSeq_keeps {k m s0} [Spares m .rec'] [Spares m .mem] [Spares m .poison] [Spares m .parts] [Spares m .fresh] [Spares m .out] (r) (ref) (d) (seq) (status) (cause) (line) (h : Keeps k m s0 r.s) :
    Keeps k m s0 (Run.endSeq r ref d seq status cause line).s := by
  unfold Run.endSeq
  extract_lets pt c b back r0 r1 r2 token detail
  have h0 : Keeps k m s0 r0.s := keeps_iteR h (Run.reads_keeps _ _ h)
  have h1 : Keeps k m s0 r1.s := keeps_foldS (fun t i ht => State.giveEntry_keeps _ _ _ _ ht) h0
  have h2 : Keeps k m s0 r2.s := Run.wrN_keeps _ _ _ _ (Run.zeroRows_keeps _ _ _ h1)
  clear_value r2
  exact State.updDesc_keeps _ _ _ (State.exception_keeps _ _ _ _ h2)

theorem Run.attend_keeps {k m s0} [Spares m .mem] (r) (d) (pt) (c) (q) (o) (b) (g) (h_) (n) (h : Keeps k m s0 r.s) :
    Keeps k m s0 (Run.attend r d pt c q o b g h_ n).s := by
  unfold Run.attend; grind -lia -linarith -ring -order [Run.s_keeps, Run.raise_keeps, keeps_foldS, keeps_foldR, Run.writeMatrix_keeps]

theorem Run.appendRow_keeps {k m s0} [Spares m .mem] (r) (d) (c) (t) (b) (g) (page) (slot) (v) (h : Keeps k m s0 r.s) :
    Keeps k m s0 (Run.appendRow r d c t b g page slot v).s := by
  unfold Run.appendRow; grind -lia -linarith -ring -order [Run.readsElems_keeps, keeps_foldS, keeps_foldR, Run.s_keeps, Run.wr_keeps, Run.wrN_keeps, Run.raise_keeps]

theorem Run.unlessBad_keeps {k m s0}  (r) (cells) (k_) (h : Keeps k m s0 r.s) (h : Keeps k m s0 k_.s) :
    Keeps k m s0 (Run.unlessBad r cells k_).s := by
  unfold Run.unlessBad; grind -lia -linarith -ring -order [Run.s_keeps]

theorem Run.seqAppend_keeps {k m s0} [Spares m .mem] (r) (d) (c) (b) (g) (page) (slot) (h : Keeps k m s0 r.s) :
    Keeps k m s0 (Run.seqAppend r d c b g page slot).s := by
  unfold Run.seqAppend; grind -lia -linarith -ring -order [Run.appendRow_keeps]

theorem Run.seqAttend_keeps {k m s0} [Spares m .mem] (r) (d) (pt) (c) (q) (o) (b) (g) (n) (h : Keeps k m s0 r.s) :
    Keeps k m s0 (Run.seqAttend r d pt c q o b g n).s := by
  unfold Run.seqAttend; grind -lia -linarith -ring -order [keeps_foldS, keeps_foldR, Run.attend_keeps, Run.readsElems_keeps]

theorem Run.seqTail_keeps {k m s0} [Spares m .mem] [Spares m .poison] [Spares m .parts] [Spares m .fresh] (r) (ref) (d) (c) (seq) (b) (h : Keeps k m s0 r.s) :
    Keeps k m s0 (Run.seqTail r ref d c seq b).s := by
  unfold Run.seqTail; grind -lia -linarith -ring -order [Run.endUnit_keeps, Run.wrN_keeps, State.setSeqWord_keeps, Run.s_keeps, State.updDesc_keeps]

theorem Run.seqHead_keeps {k m s0} [Spares m .rec'] [Spares m .mem] [Spares m .poison] [Spares m .parts] [Spares m .fresh] [Spares m .out] (r) (ref) (d) (seq) (g) (h : Keeps k m s0 r.s) :
    Keeps k m s0 (Run.seqHead r ref d seq g).s := by
  unfold Run.seqHead; grind -lia -linarith -ring -order [Run.s_keeps, Run.unlessBad_keeps, Run.endSeq_keeps, Run.seqAttend_keeps, Run.seqAppend_keeps, Run.endUnit_keeps, State.updDesc_keeps, Run.seqTail_keeps]

theorem Run.seqTake_keeps {k m s0} [Spares m .rec'] [Spares m .mem] [Spares m .poison] [Spares m .parts] [Spares m .fresh] [Spares m .out] (r : Run) (ref : DRef) (d : Desc) (pt : Part) (c : SeqCtx) (seq : Nat) (need : List Nat)
    (h : Keeps k m s0 r.s) : Keeps k m s0 (r.seqTake ref d pt c seq need).s := by
  rw [Run.seqTake]
  refine Run.unlessBad_keeps _ _ _ h ?_
  split
  · dsimp only
    exact State.updPart_keeps _ _ _ (State.updDesc_keeps _ _ _ h)
  · exact Run.unlessBad_keeps _ _ _ h (Run.seqHead_keeps _ _ _ _ _ (State.updDesc_keeps _ _ _
      (keeps_foldS (fun t a ht => State.takeEntry_keeps t _ c a ht) h)))

theorem Run.seqBegin_keeps {k m s0} [Spares m .rec'] [Spares m .mem] [Spares m .poison] [Spares m .parts] [Spares m .fresh] [Spares m .out] (r) (ref) (d) (seq) (h : Keeps k m s0 r.s) :
    Keeps k m s0 (Run.seqBegin r ref d seq).s := by
  unfold Run.seqBegin; grind -lia -linarith -ring -order [Run.s_keeps, State.updDesc_keeps, Run.endSeq_keeps, Run.unlessBad_keeps, Run.seqHead_keeps, Run.seqTake_keeps]

theorem Run.decodeUnit_keeps {k m s0} [Spares m .rec'] [Spares m .mem] [Spares m .poison] [Spares m .parts] [Spares m .fresh] [Spares m .out] (r) (ref) (h : Keeps k m s0 r.s) :
    Keeps k m s0 (Run.decodeUnit r ref).s := by
  unfold Run.decodeUnit; grind -lia -linarith -ring -order [Run.s_keeps, Run.unlessBad_keeps, Run.seqBegin_keeps, Run.endSeq_keeps, Run.seqHead_keeps]

theorem State.endSeqNow_keeps {k m s0} [Spares m .rec'] [Spares m .mem] [Spares m .poison] [Spares m .parts] [Spares m .fresh] [Spares m .out] (s) (r) (d) (seq) (status) (cause) (h : Keeps k m s0 s) :
    Keeps k m s0 (State.endSeqNow s r d seq status cause) := by
  unfold State.endSeqNow; grind -lia -linarith -ring -order [Run.settlePoison_keeps, Run.endSeq_keeps, Run.start_keeps, State.noteBad_keeps, State.lateWrites_keeps, Run.s_keeps]

theorem State.endDecode_keeps {k m s0} [Spares m .rec'] [Spares m .mem] [Spares m .poison] [Spares m .parts] [Spares m .fresh] [Spares m .out] (s0_) (r) (h : Keeps k m s0 s0_) :
    Keeps k m s0 (State.endDecode s0_ r) := by
  unfold State.endDecode; grind -lia -linarith -ring -order [State.updPart_keeps, State.testWaits_keeps, keeps_foldS, keeps_foldR, State.endSeqNow_keeps, State.updDesc_keeps, State.wrOwn_keeps, Run.s_keeps, Run.endSeq_keeps, Run.start_keeps, State.wrN_keeps]

theorem State.unreached_keeps {k m s0} [Spares m .rec'] [Spares m .mem] [Spares m .poison] [Spares m .parts] [Spares m .fresh] [Spares m .out] (s) (r) (h : Keeps k m s0 s) :
    Keeps k m s0 (State.unreached s r) := by
  unfold State.unreached; grind -lia -linarith -ring -order [State.endDecode_keeps]

theorem State.serveWait_keeps {k m s0} [Spares m .mem] [Spares m .poison] [Spares m .parts] [Spares m .fresh] (s) (p) (w) (h : Keeps k m s0 s) :
    Keeps k m s0 (State.serveWait s p w) := by
  unfold State.serveWait; grind -lia -linarith -ring -order [keeps_foldS, State.takeEntry_keeps, State.updDesc_keeps, State.updPart_keeps]

theorem State.failWait_keeps {k m s0} [Spares m .rec'] [Spares m .mem] [Spares m .poison] [Spares m .parts] [Spares m .fresh] [Spares m .out] (s) (p) (w) (l) (h : Keeps k m s0 s) :
    Keeps k m s0 (State.failWait s p w l) := by
  unfold State.failWait; grind -lia -linarith -ring -order [State.noteBad_keeps, State.updPart_keeps, State.updDesc_keeps, State.endDecode_keeps]

theorem State.serve_keeps {k m s0} [Spares m .rec'] [Spares m .mem] [Spares m .poison] [Spares m .parts] [Spares m .fresh] [Spares m .out] (s) (p) (w) (h : Keeps k m s0 s) :
    Keeps k m s0 (State.serve s p w) := by
  unfold State.serve; grind -lia -linarith -ring -order [State.failWait_keeps, State.serveWait_keeps]

theorem State.feedWaiters_keeps {k m s0} [Spares m .rec'] [Spares m .mem] [Spares m .poison] [Spares m .parts] [Spares m .fresh] [Spares m .out] (p : Nat) : ∀ (n : Nat) (s : State), Keeps k m s0 s → Keeps k m s0 (s.feedWaiters p n)
  | 0, _, h => h
  | n + 1, s, h => by
    unfold State.feedWaiters
    dsimp only
    split
    · exact h
    · split
      · exact State.feedWaiters_keeps p n _ (State.failWait_keeps _ _ _ _ h)
      · exact keeps_ite h (State.feedWaiters_keeps p n _ (State.serve_keeps _ _ _ h))

theorem State.feed_keeps {k m s0} [Spares m .rec'] [Spares m .mem] [Spares m .poison] [Spares m .parts] [Spares m .fresh] [Spares m .out] (s) (p) (h : Keeps k m s0 s) :
    Keeps k m s0 (State.feed s p) := by
  unfold State.feed; grind -lia -linarith -ring -order [State.feedWaiters_keeps]

theorem runDecode_keeps {k m s0} [Spares m .rec'] [Spares m .mem] [Spares m .poison] [Spares m .parts] [Spares m .fresh] [Spares m .out] (s) (d) (sl) (r) (h : Keeps k m s0 s) :
    Keeps k m s0 (runDecode s d sl r) := by
  unfold runDecode; grind -lia -linarith -ring -order [State.feed_keeps, Run.finish_keeps, keeps_foldS, keeps_foldR, Run.decodeUnit_keeps, Run.start_keeps]

theorem execDecodeStep_keeps {k m s0} [Spares m .rec'] [Spares m .mem] [Spares m .poison] [Spares m .clbuf] [Spares m .opbuf] [Spares m .parts] [Spares m .fresh] [Spares m .out] (r) (s) (h : Keeps k m s0 s) :
    OutKeeps k m s0 (execDecodeStep r s) := by
  unfold execDecodeStep; grind -lia -linarith -ring -order [State.runSlice_keeps, runDecode_keeps, outKeeps_next]

theorem runRelease_keeps {k m s0} [Spares m .rec'] [Spares m .mem] [Spares m .poison] [Spares m .parts] [Spares m .fresh] [Spares m .out] (s) (d) (sl) (r) (h : Keeps k m s0 s) :
    Keeps k m s0 (runRelease s d sl r) := by
  unfold runRelease; grind -lia -linarith -ring -order [State.noteBad_keeps, keeps_foldS, keeps_foldR, State.givePage_keeps, State.giveEntry_keeps, State.setSeqWord_keeps, State.feed_keeps]

theorem State.releaseRow_keeps {k m s0} [Spares m .rec'] [Spares m .mem] [Spares m .poison] [Spares m .clbuf] [Spares m .opbuf] [Spares m .parts] [Spares m .fresh] [Spares m .out] (s) (r) (m_) (h : Keeps k m s0 s) :
    Keeps k m s0 (State.releaseRow s r m_) := by
  unfold State.releaseRow; grind -lia -linarith -ring -order [State.runSlice_keeps, runRelease_keeps]

theorem execGive_keeps {k m s0} [Spares m .rec'] [Spares m .memc] [Spares m .mem] [Spares m .poison] [Spares m .clbuf] [Spares m .opbuf] [Spares m .chipFixed] [Spares m .parts] [Spares m .fresh] [Spares m .out] (r) (s) (h : Keeps k m s0 s) :
    OutKeeps k m s0 (execGive r s) := by
  unfold execGive; grind -lia -linarith -ring -order [State.releaseRow_keeps, State.finds_keeps, outKeeps_next]

theorem execTruncate_keeps {k m s0} [Spares m .rec'] [Spares m .memc] [Spares m .mem] [Spares m .poison] [Spares m .clbuf] [Spares m .opbuf] [Spares m .chipFixed] [Spares m .parts] [Spares m .fresh] [Spares m .out] (r) (s) (h : Keeps k m s0 s) :
    OutKeeps k m s0 (execTruncate r s) := by
  unfold execTruncate; grind -lia -linarith -ring -order [State.releaseRow_keeps, State.finds_keeps, outKeeps_next]

theorem execFree_keeps {k m s0} [Spares m .rec'] [Spares m .memc] [Spares m .mem] [Spares m .poison] [Spares m .clbuf] [Spares m .opbuf] [Spares m .chipFixed] [Spares m .parts] [Spares m .fresh] [Spares m .out] (r) (s) (h : Keeps k m s0 s) :
    OutKeeps k m s0 (execFree r s) := by
  unfold execFree; grind -lia -linarith -ring -order [State.releaseRow_keeps, State.finds_keeps, outKeeps_next]

theorem State.swapWr_keeps {k m s0} [Spares m .mem] [Spares m .poison] [Spares m .atts] [Spares m .fresh] (s) (p) (c) (off) (bs) (bad) (h : Keeps k m s0 s) :
    Keeps k m s0 (State.swapWr s p c off bs bad) := by
  unfold State.swapWr; grind -lia -linarith -ring -order [State.hostWr_keeps, keeps_foldS, State.hostPoison_keeps, State.lateWrites_keeps, State.wrBytes_keeps, State.setPoison_keeps]

theorem State.swapPage_keeps {k m s0} [Spares m .mem] [Spares m .poison] [Spares m .atts] [Spares m .fresh] (s) (p) (c) (page) (off) (h : Keeps k m s0 s) :
    Keeps k m s0 (State.swapPage s p c page off) := by
  unfold State.swapPage; grind -lia -linarith -ring -order [keeps_foldS, State.swapWr_keeps]

theorem State.swapWrites_keeps {k m s0} [Spares m .mem] [Spares m .poison] [Spares m .atts] [Spares m .fresh] (s) (p) (c) (seq) (entries) (h : Keeps k m s0 s) :
    Keeps k m s0 (State.swapWrites s p c seq entries) := by
  unfold State.swapWrites; grind -lia -linarith -ring -order [State.swapWr_keeps, keeps_foldS, State.swapPage_keeps, State.giveEntry_keeps, State.setSeqWord_keeps, State.wrOwn_keeps, State.wrN_keeps]

theorem State.swapEnds_keeps {k m s0} [Spares m .rec'] [Spares m .mem] [Spares m .poison] [Spares m .parts] [Spares m .fresh] [Spares m .out] (s) (p) (w) (h : Keeps k m s0 s) :
    Keeps k m s0 (State.swapEnds s p w) := by
  unfold State.swapEnds; grind -lia -linarith -ring -order [keeps_foldS, State.endSeqNow_keeps, keeps_foldR, Run.s_keeps, Run.endSeq_keeps, Run.start_keeps]

theorem State.feedGrower_keeps {k m s0} [Spares m .rec'] [Spares m .mem] [Spares m .poison] [Spares m .parts] [Spares m .fresh] [Spares m .out] (s) (p) (w) (n) (h : Keeps k m s0 s) :
    Keeps k m s0 (State.feedGrower s p w n) := by
  unfold State.feedGrower
  repeat' first
    | with_reducible assumption
    | with_reducible apply State.updPart_keeps
    | with_reducible apply State.serve_keeps
    | intro _
    | split
    | dsimp only

theorem State.swapDone_keeps {k m s0} [Spares m .rec'] [Spares m .mem] [Spares m .poison] [Spares m .atts] [Spares m .parts] [Spares m .fresh] [Spares m .out] (s) (p) (w) (h : Keeps k m s0 s) :
    Keeps k m s0 (State.swapDone s p w) := by
  unfold State.swapDone; grind -lia -linarith -ring -order [State.updPart_keeps, State.swapWrites_keeps, State.feed_keeps, State.feedGrower_keeps, State.swapEnds_keeps, keeps_foldS, State.release_keeps, State.ringStop_keeps]

theorem State.resumeBack_keeps {k m s0} [Spares m .rec'] [Spares m .mem] [Spares m .poison] [Spares m .parts] [Spares m .fresh] [Spares m .out] (s) (r) (d) (h : Keeps k m s0 s) :
    Keeps k m s0 (State.resumeBack s r d) := by
  unfold State.resumeBack; grind -lia -linarith -ring -order [State.feed_keeps, keeps_foldS, State.giveEntry_keeps]

theorem State.resumePage_keeps {k m s0} [Spares m .mem] [Spares m .poison] [Spares m .fresh] (s) (p) (c) (e) (src) (h : Keeps k m s0 s) :
    Keeps k m s0 (State.resumePage s p c e src) := by
  unfold State.resumePage; grind -lia -linarith -ring -order [State.lateWrites_keeps, State.wrBytes_keeps]

theorem runResume_keeps {k m s0} [Spares m .mem] [Spares m .poison] [Spares m .parts] [Spares m .fresh] (s) (d) (sl) (r) (h : Keeps k m s0 s) :
    Keeps k m s0 (runResume s d sl r) := by
  unfold runResume
  repeat' first
    | with_reducible assumption
    | with_reducible apply State.noteBad_keeps
    | with_reducible apply State.updDesc_keeps
    | with_reducible apply keeps_foldS
    | with_reducible apply keeps_foldR
    | with_reducible apply State.takeEntry_keeps
    | with_reducible apply State.resumePage_keeps
    | with_reducible apply State.setSeqWord_keeps
    | with_reducible apply State.updPart_keeps
    | with_reducible apply State.wrOwn_keeps
    | intro _
    | split
    | dsimp only

theorem execSeqResume_keeps {k m s0} [Spares m .mem] [Spares m .poison] [Spares m .clbuf] [Spares m .opbuf] [Spares m .parts] [Spares m .fresh] (r) (s) (h : Keeps k m s0 s) :
    OutKeeps k m s0 (execSeqResume r s) := by
  unfold execSeqResume; grind -lia -linarith -ring -order [State.runSlice_keeps, runResume_keeps, outKeeps_next]

theorem State.beginSwap_keeps {k m s0} [Spares m .parts] (s) (p) (seq) (grower) (h : Keeps k m s0 s) :
    Keeps k m s0 (State.beginSwap s p seq grower) := by
  unfold State.beginSwap; grind -lia -linarith -ring -order [State.updPart_keeps]

theorem State.resolveWait_keeps {k m s0} [Spares m .parts] (s) (p) (w) (h : Keeps k m s0 s) :
    Keeps k m s0 (State.resolveWait s p w) := by
  unfold State.resolveWait; grind -lia -linarith -ring -order [keeps_foldS, State.beginSwap_keeps]

theorem State.resolveWaits_keeps {k m s0} [Spares m .parts] (s) (p) (h : Keeps k m s0 s) :
    Keeps k m s0 (State.resolveWaits s p) := by
  unfold State.resolveWaits; grind -lia -linarith -ring -order [keeps_foldS, State.resolveWait_keeps]

theorem State.settleSwaps_keeps {k m s0} [Spares m .parts] (s) (r) (h : Keeps k m s0 s) :
    Keeps k m s0 (State.settleSwaps s r) := by
  unfold State.settleSwaps; grind -lia -linarith -ring -order [State.updPart_keeps, State.updDesc_keeps]

theorem State.endDecodes_keeps {k m s0} [Spares m .rec'] [Spares m .mem] [Spares m .poison] [Spares m .parts] [Spares m .fresh] [Spares m .out] (s) (p) (h : Keeps k m s0 s) :
    Keeps k m s0 (State.endDecodes s p) := by
  unfold State.endDecodes; grind -lia -linarith -ring -order [keeps_foldS, State.updDesc_keeps, State.endDecode_keeps]

theorem State.swapComplete_keeps {k m s0} [Spares m .rec'] [Spares m .mem] [Spares m .poison] [Spares m .atts] [Spares m .parts] [Spares m .fresh] [Spares m .out] (s) (p) (seq) (h : Keeps k m s0 s) :
    Keeps k m s0 (State.swapComplete s p seq) := by
  unfold State.swapComplete; grind -lia -linarith -ring -order [State.testWaits_keeps, State.endDecodes_keeps, State.swapDone_keeps]

theorem execSwapComplete_keeps {k m s0} [Spares m .rec'] [Spares m .memc] [Spares m .mem] [Spares m .poison] [Spares m .chipFixed] [Spares m .atts] [Spares m .parts] [Spares m .fresh] [Spares m .out] (part) (seq) (s) (h : Keeps k m s0 s) :
    OutKeeps k m s0 (execSwapComplete part seq s) := by
  unfold execSwapComplete; grind -lia -linarith -ring -order [State.swapComplete_keeps, State.findAll_keeps, outKeeps_next]

end Sys2Proof.Machine
end

