-- ==== Sys2Proof/Laws/KeepsMedia.lean ====
section
/-!
SUPPORT. That each function of Machine/Media.lean keeps what a command keeps (`Keeps`, `OutKeeps`).
-/

namespace Sys2Proof.Machine

theorem State.streamOpen_keeps {k m s0} [Spares m .mem] [Spares m .parts] [Spares m .fresh] (s) (r) (h : Keeps k m s0 s) :
    Keeps k m s0 (State.streamOpen s r) := by
  unfold State.streamOpen; grind -lia -linarith -ring -order [State.updDesc_keeps, State.updPart_keeps, State.blurMem_keeps]

theorem execStreamOpen_keeps {k m s0} [Spares m .rec'] [Spares m .memc] [Spares m .mem] [Spares m .poison] [Spares m .chipFixed] [Spares m .parts] [Spares m .fresh] [Spares m .out] (r) (found) (s) (h : Keeps k m s0 s) :
    OutKeeps k m s0 (execStreamOpen r found s) := by
  unfold execStreamOpen; grind -lia -linarith -ring -order [State.streamOpen_keeps, State.finds_keeps, outKeeps_next]

theorem State.updSample_keeps {k m s0} [Spares m .parts] (s) (r) (i) (f) (h : Keeps k m s0 s) :
    Keeps k m s0 (State.updSample s r i f) := by
  unfold State.updSample; grind -lia -linarith -ring -order [State.updDesc_keeps]

theorem State.makeHole_keeps {k m s0} [Spares m .parts] (s) (r) (i) (cause) (offset) (h : Keeps k m s0 s) :
    Keeps k m s0 (State.makeHole s r i cause offset) := by
  unfold State.makeHole; grind -lia -linarith -ring -order [State.updPart_keeps, State.updSample_keeps]

theorem State.abandon_keeps {k m s0} [Spares m .parts] (s) (r) (h : Keeps k m s0 s) :
    Keeps k m s0 (State.abandon s r) := by
  unfold State.abandon; grind -lia -linarith -ring -order [State.updDesc_keeps, State.updPart_keeps]

theorem State.mediaStart_keeps {k m s0} [Spares m .parts] (s) (r) (h : Keeps k m s0 s) :
    Keeps k m s0 (State.mediaStart s r) := by
  unfold State.mediaStart; grind -lia -linarith -ring -order [State.updDesc_keeps]

theorem execMediaSample_keeps {k m s0} [Spares m .parts] (r) (s) (h : Keeps k m s0 s) :
    OutKeeps k m s0 (execMediaSample r s) := by
  unfold execMediaSample; grind -lia -linarith -ring -order [State.mediaStart_keeps, outKeeps_next]

theorem State.sampleStart_keeps {k m s0} [Spares m .mem] [Spares m .parts] [Spares m .fresh] (s) (r) (i) (engine) (h : Keeps k m s0 s) :
    Keeps k m s0 (State.sampleStart s r i engine) := by
  unfold State.sampleStart; grind -lia -linarith -ring -order [State.updSample_keeps, keeps_foldS, State.blurMem_keeps, State.makeHole_keeps, State.updPart_keeps]

theorem execSampleStart_keeps {k m s0} [Spares m .mem] [Spares m .parts] [Spares m .fresh] (r) (i) (engine) (s) (h : Keeps k m s0 s) :
    OutKeeps k m s0 (execSampleStart r i engine s) := by
  unfold execSampleStart; grind -lia -linarith -ring -order [State.sampleStart_keeps, outKeeps_next]

theorem State.sampleDecodeEnd_keeps {k m s0} [Spares m .parts] (s) (r) (i) (h : Keeps k m s0 s) :
    Keeps k m s0 (State.sampleDecodeEnd s r i) := by
  unfold State.sampleDecodeEnd; grind -lia -linarith -ring -order [State.abandon_keeps, State.updDesc_keeps, State.updPart_keeps, State.updSample_keeps, State.makeHole_keeps]

theorem execSampleDecodeEnd_keeps {k m s0} [Spares m .rec'] [Spares m .memc] [Spares m .mem] [Spares m .poison] [Spares m .chipFixed] [Spares m .parts] [Spares m .fresh] [Spares m .out] (r) (i) (found) (s) (h : Keeps k m s0 s) :
    OutKeeps k m s0 (execSampleDecodeEnd r i found s) := by
  unfold execSampleDecodeEnd; grind -lia -linarith -ring -order [State.sampleDecodeEnd_keeps, State.finds_keeps, outKeeps_next]

theorem State.chargeSamples_keeps {k m s0} [Spares m .parts] (s) (p) (h : Keeps k m s0 s) :
    Keeps k m s0 (State.chargeSamples s p) := by
  unfold State.chargeSamples; grind -lia -linarith -ring -order [keeps_foldS, State.updSample_keeps, State.makeHole_keeps]

theorem State.streamClose_keeps {k m s0} [Spares m .parts] (s) (r) (h : Keeps k m s0 s) :
    Keeps k m s0 (State.streamClose s r) := by
  unfold State.streamClose; grind -lia -linarith -ring -order [State.updDesc_keeps, State.makeHole_keeps, State.updPart_keeps]

theorem execStreamClose_keeps {k m s0} [Spares m .parts] (r) (s) (h : Keeps k m s0 s) :
    OutKeeps k m s0 (execStreamClose r s) := by
  unfold execStreamClose; grind -lia -linarith -ring -order [State.streamClose_keeps, outKeeps_next]

theorem State.writeSample_keeps {k m s0} [Spares m .rec'] [Spares m .mem] [Spares m .poison] [Spares m .parts] [Spares m .fresh] [Spares m .out] (s) (r) (d) (o) (i) (h : Keeps k m s0 s) :
    Keeps k m s0 (State.writeSample s r d o i) := by
  unfold State.writeSample; grind -lia -linarith -ring -order [Run.start_keeps, Run.s_keeps, keeps_foldS, keeps_foldR, Run.writeElem_keeps, Run.raise_keeps, Run.finish_keeps, Run.wr_keeps]

theorem State.countHole_keeps {k m s0} [Spares m .media] (s) (cause) (h : Keeps k m s0 s) :
    Keeps k m s0 (State.countHole s cause) := by
  unfold State.countHole; grind -lia -linarith -ring -order [keeps_mk_media]

theorem State.sampleCommit_keeps {k m s0} [Spares m .rec'] [Spares m .media] [Spares m .mem] [Spares m .poison] [Spares m .parts] [Spares m .fresh] [Spares m .out] (s) (r) (i) (h : Keeps k m s0 s) :
    Keeps k m s0 (State.sampleCommit s r i) := by
  rw [State.sampleCommit]
  split
  · exact h
  rename_i d hd
  extract_lets x
  split
  · exact h
  rename_i o ho
  split
  · exact h
  extract_lets s1 s2 s3
  have h1 : Keeps k m s0 s1 := State.writeSample_keeps _ _ _ _ _ h
  have h2 : Keeps k m s0 s2 := keeps_ite (State.countHole_keeps _ _ (State.updDesc_keeps _ _ _ (State.exception_keeps _ _ _ _ h1))) h1
  have h3 : Keeps k m s0 s3 := State.testWaits_keeps _ _ (State.updSample_keeps _ _ _ _ h2)
  clear_value s3
  split
  · exact h3
  rename_i e he
  exact keeps_ite (State.abandon_keeps _ _ h3) (keeps_ite (State.updDesc_keeps _ _ _ h3) h3)

theorem execSampleCommit_keeps {k m s0} [Spares m .rec'] [Spares m .media] [Spares m .memc] [Spares m .mem] [Spares m .poison] [Spares m .chipFixed] [Spares m .parts] [Spares m .fresh] [Spares m .out] (r) (i) (s) (h : Keeps k m s0 s) :
    OutKeeps k m s0 (execSampleCommit r i s) := by
  unfold execSampleCommit; grind -lia -linarith -ring -order [State.sampleCommit_keeps, State.finds_keeps, outKeeps_next]

end Sys2Proof.Machine
end

