-- ==== Sys2Proof/Laws/KeepsChan.lean ====
section
/-!
SUPPORT. That each function of Machine/Chan.lean keeps what a command keeps (`Keeps`, `OutKeeps`).
-/

namespace Sys2Proof.Machine

theorem State.setMac_keeps {k m s0} [Spares m .macs] (s) (m_) (v) (h : Keeps k m s0 s) :
    Keeps k m s0 (State.setMac s m_ v) := by
  unfold State.setMac; grind -lia -linarith -ring -order [keeps_mk_macs]

theorem State.setChan_keeps {k m s0} [Spares m .chans] (s) (c) (v) (h : Keeps k m s0 s) :
    Keeps k m s0 (State.setChan s c v) := by
  unfold State.setChan; grind -lia -linarith -ring -order [keeps_mk_chans]

theorem State.updChan_keeps {k m s0} [Spares m .chans] (s) (c) (f) (h : Keeps k m s0 s) :
    Keeps k m s0 (State.updChan s c f) := by
  unfold State.updChan; grind -lia -linarith -ring -order [State.setChan_keeps]

theorem State.transmit_keeps {k m s0} [Spares m .macs] [Spares m .out] (s) (m_) (pcp) (o) (h : Keeps k m s0 s) :
    Keeps k m s0 (State.transmit s m_ pcp o) := by
  unfold State.transmit; grind -lia -linarith -ring -order [State.setMac_keeps, State.emit_keeps]

theorem State.pickMac_keeps {k m s0} [Spares m .fresh] (s) (h : Keeps k m s0 s) :
    Keeps k m s0 (State.pickMac s).2 := by
  unfold State.pickMac; grind -lia -linarith -ring -order [State.freeBelow_keeps]
theorem State.pickMac_keeps' {k m s0} [Spares m .fresh] {s} {x t} (eq_ : State.pickMac s = (x, t)) (h : Keeps k m s0 s) : Keeps k m s0 t := by
  have g := State.pickMac_keeps s h
  rw [eq_] at g; exact g

theorem State.sendFrame_keeps {k m s0} [Spares m .macs] [Spares m .chans] [Spares m .fresh] [Spares m .out] (s) (c) (typ) (to') (seq) (f) (expiries) (h : Keeps k m s0 s) :
    Keeps k m s0 (State.sendFrame s c typ to' seq f expiries) := by
  unfold State.sendFrame; grind -lia -linarith -ring -order [State.pickMac_keeps, State.setChan_keeps, State.transmit_keeps]

theorem State.sendAck_keeps {k m s0} [Spares m .macs] [Spares m .chans] [Spares m .fresh] [Spares m .out] (s) (c) (h : Keeps k m s0 s) :
    Keeps k m s0 (State.sendAck s c) := by
  unfold State.sendAck; grind -lia -linarith -ring -order [State.sendFrame_keeps]

theorem State.pumpGo_keeps {k m s0} [Spares m .macs] [Spares m .chans] [Spares m .fresh] [Spares m .out] (c : Nat) : ∀ (n : Nat) (s : State), Keeps k m s0 s → Keeps k m s0 (s.pumpGo c n)
  | 0, _, h => h
  | n + 1, s, h => by
    rw [State.pumpGo]
    dsimp only
    split
    · exact keeps_ite (State.pumpGo_keeps c n _ (State.sendFrame_keeps _ _ _ _ _ _ _ (State.setChan_keeps _ _ _ h))) h
    · exact h

theorem State.pump_keeps {k m s0} [Spares m .macs] [Spares m .chans] [Spares m .fresh] [Spares m .out] (s) (c) (h : Keeps k m s0 s) :
    Keeps k m s0 (State.pump s c) := by
  unfold State.pump; grind -lia -linarith -ring -order [State.pumpGo_keeps]

theorem State.pushFrames_keeps {k m s0} [Spares m .macs] [Spares m .chans] [Spares m .fresh] [Spares m .out] (s) (c) (l) (h : Keeps k m s0 s) :
    Keeps k m s0 (State.pushFrames s c l) := by
  unfold State.pushFrames; grind -lia -linarith -ring -order [State.pump_keeps, State.updChan_keeps]

theorem State.resendGaps_keeps {k m s0} [Spares m .macs] [Spares m .chans] [Spares m .fresh] [Spares m .out] (s) (c) (sacked) (h : Keeps k m s0 s) :
    Keeps k m s0 (State.resendGaps s c sacked) := by
  unfold State.resendGaps; grind -lia -linarith -ring -order [State.setChan_keeps, keeps_foldS, State.sendFrame_keeps]

theorem State.takeAck_keeps {k m s0} [Spares m .macs] [Spares m .chans] [Spares m .fresh] [Spares m .out] (s) (c) (ack) (sack) (h : Keeps k m s0 s) :
    Keeps k m s0 (State.takeAck s c ack sack) := by
  rw [State.takeAck]
  extract_lets ch first sk
  refine keeps_ite h ?_
  extract_lets acked gone rest
  split
  rename_i srtt s1 e
  have h1 : Keeps k m s0 s1 := by
    split at e
    · cases e; exact State.free_keeps _ h
    · cases e; exact h
  exact State.pump_keeps _ _ (State.resendGaps_keeps _ _ _ (State.setChan_keeps _ _ _ h1))

theorem State.rtoExpiry_keeps {k m s0} [Spares m .macs] [Spares m .chans] [Spares m .fresh] [Spares m .out] (s) (c) (seq) (h : Keeps k m s0 s) :
    Keeps k m s0 (State.rtoExpiry s c seq) := by
  unfold State.rtoExpiry; grind -lia -linarith -ring -order [State.setChan_keeps, State.sendFrame_keeps]

theorem execRtoExpiry_keeps {k m s0} [Spares m .macs] [Spares m .chans] [Spares m .fresh] [Spares m .out] (ch) (seq) (s) (h : Keeps k m s0 s) :
    OutKeeps k m s0 (execRtoExpiry ch seq s) := by
  unfold execRtoExpiry; grind -lia -linarith -ring -order [State.rtoExpiry_keeps, outKeeps_next]

theorem execAckTimer_keeps {k m s0} [Spares m .macs] [Spares m .chans] [Spares m .fresh] [Spares m .out] (ch) (s) (h : Keeps k m s0 s) :
    OutKeeps k m s0 (execAckTimer ch s) := by
  unfold execAckTimer; grind -lia -linarith -ring -order [State.sendAck_keeps, outKeeps_next]

theorem State.markExc_keeps {k m s0} [Spares m .parts] (s) (r) (n) (h : Keeps k m s0 s) :
    Keeps k m s0 (State.markExc s r n) := by
  unfold State.markExc; grind -lia -linarith -ring -order [State.updDesc_keeps]

theorem State.recordChan_keeps {k m s0} [Spares m .rec'] [Spares m .mem] [Spares m .poison] [Spares m .parts] [Spares m .out] (s) (c) (cause) (seq) (h : Keeps k m s0 s) :
    Keeps k m s0 (State.recordChan s c cause seq) := by
  unfold State.recordChan; grind -lia -linarith -ring -order [State.exception_keeps, State.markExc_keeps]

theorem State.failChan_keeps {k m s0} [Spares m .rec'] [Spares m .mem] [Spares m .poison] [Spares m .chans] [Spares m .parts] [Spares m .out] (s) (c) (cause) (h : Keeps k m s0 s) :
    Keeps k m s0 (State.failChan s c cause) := by
  unfold State.failChan; grind -lia -linarith -ring -order [State.updChan_keeps, State.recordChan_keeps]

theorem execChannelFailTimeout_keeps {k m s0} [Spares m .rec'] [Spares m .mem] [Spares m .poison] [Spares m .chans] [Spares m .parts] [Spares m .out] (ch) (s) (h : Keeps k m s0 s) :
    OutKeeps k m s0 (execChannelFailTimeout ch s) := by
  unfold execChannelFailTimeout; grind -lia -linarith -ring -order [State.failChan_keeps, outKeeps_next]

theorem State.sendReset_keeps {k m s0} [Spares m .macs] [Spares m .chans] [Spares m .fresh] [Spares m .out] (s) (c) (h : Keeps k m s0 s) :
    Keeps k m s0 (State.sendReset s c) := by
  unfold State.sendReset; grind -lia -linarith -ring -order [State.sendFrame_keeps]

theorem State.startReset_keeps {k m s0} [Spares m .macs] [Spares m .chans] [Spares m .fresh] [Spares m .out] (s) (c) (p) (rebind) (record) (h : Keeps k m s0 s) :
    Keeps k m s0 (State.startReset s c p rebind record) := by
  unfold State.startReset; grind -lia -linarith -ring -order [State.setChan_keeps, State.sendReset_keeps]

theorem execChResetRetry_keeps {k m s0} [Spares m .macs] [Spares m .chans] [Spares m .fresh] [Spares m .out] (ch) (s) (h : Keeps k m s0 s) :
    OutKeeps k m s0 (execChResetRetry ch s) := by
  unfold execChResetRetry; grind -lia -linarith -ring -order [State.sendReset_keeps, outKeeps_next]

theorem State.resetTimeout_keeps {k m s0} [Spares m .rec'] [Spares m .mem] [Spares m .poison] [Spares m .chans] [Spares m .parts] [Spares m .out] (s) (c) (h : Keeps k m s0 s) :
    Keeps k m s0 (State.resetTimeout s c) := by
  unfold State.resetTimeout; grind -lia -linarith -ring -order [State.recordChan_keeps, State.updChan_keeps]

theorem execChResetTimeout_keeps {k m s0} [Spares m .rec'] [Spares m .mem] [Spares m .poison] [Spares m .chans] [Spares m .parts] [Spares m .out] (ch) (s) (h : Keeps k m s0 s) :
    OutKeeps k m s0 (execChResetTimeout ch s) := by
  unfold execChResetTimeout; grind -lia -linarith -ring -order [State.resetTimeout_keeps, outKeeps_next]

theorem State.countVerdict_keeps {k m s0} [Spares m .macs] (s) (m_) (v) (h : Keeps k m s0 s) :
    Keeps k m s0 (State.countVerdict s m_ v) := by
  unfold State.countVerdict; grind -lia -linarith -ring -order [State.setMac_keeps]

theorem State.pfcWatch_keeps {k m s0} [Spares m .macs] [Spares m .out] (s) (m_) (fill) (h : Keeps k m s0 s) :
    Keeps k m s0 (State.pfcWatch s m_ fill) := by
  unfold State.pfcWatch; grind -lia -linarith -ring -order [State.emit_keeps, State.setMac_keeps]

theorem State.countFrame_keeps {k m s0} [Spares m .macs] [Spares m .out] (s) (f) (v) (h : Keeps k m s0 s) :
    Keeps k m s0 (State.countFrame s f v) := by
  unfold State.countFrame; grind -lia -linarith -ring -order [State.pfcWatch_keeps, State.countVerdict_keeps]

theorem State.rxAck_keeps {k m s0} [Spares m .macs] [Spares m .chans] [Spares m .fresh] [Spares m .out] (s) (f) (h : Keeps k m s0 s) :
    Keeps k m s0 (State.rxAck s f) := by
  unfold State.rxAck; grind -lia -linarith -ring -order [State.takeAck_keeps]

theorem State.acceptData_keeps {k m s0} [Spares m .chans] (s) (c) (seq) (f) (h : Keeps k m s0 s) :
    Keeps k m s0 (State.acceptData s c seq f).1 := by
  rw [State.acceptData]
  dsimp only
  split
  · exact h
  split
  · exact h
  split
  · exact h
  exact State.setChan_keeps _ _ _ h
theorem State.acceptData_keeps' {k m s0} [Spares m .chans] {s} {c} {seq} {f} {x t} (eq_ : State.acceptData s c seq f = (t, x)) (h : Keeps k m s0 s) : Keeps k m s0 t := by
  have g := State.acceptData_keeps s c seq f h
  rw [eq_] at g; exact g

theorem State.groupFrame_keeps {k m s0} [Spares m .macs] [Spares m .out] (s) (m_) (typ) (hops) (payload) (h : Keeps k m s0 s) :
    Keeps k m s0 (State.groupFrame s m_ typ hops payload) := by
  unfold State.groupFrame; grind -lia -linarith -ring -order [State.transmit_keeps]

theorem State.setReach_keeps {k m s0} [Spares m .mem] [Spares m .poison] (s) (pkg) (dist) (macs) (nonce) (h : Keeps k m s0 s) :
    Keeps k m s0 (State.setReach s pkg dist macs nonce) := by
  unfold State.setReach; grind -lia -linarith -ring -order [State.unpoison_keeps, State.wrN_keeps]

theorem State.sendOwn_keeps {k m s0} [Spares m .mem] [Spares m .poison] [Spares m .macs] [Spares m .out] (s) (h : Keeps k m s0 s) :
    Keeps k m s0 (State.sendOwn s) := by
  unfold State.sendOwn; grind -lia -linarith -ring -order [State.setReach_keeps, keeps_foldS, State.groupFrame_keeps]

theorem State.drawNonce_keeps {k m s0} [Spares m .fab] [Spares m .fresh] (s) (h : Keeps k m s0 s) :
    Keeps k m s0 (State.drawNonce s) := by
  unfold State.drawNonce; grind -lia -linarith -ring -order [State.freeBelow_keeps, keeps_mk_fab]

theorem State.settleFabric_keeps {k m s0} [Spares m .mem] [Spares m .poison] [Spares m .fab] [Spares m .macs] [Spares m .fresh] [Spares m .out] (s) (h : Keeps k m s0 s) :
    Keeps k m s0 (State.settleFabric s) := by
  unfold State.settleFabric; grind -lia -linarith -ring -order [keeps_mk_fab, State.sendOwn_keeps, State.drawNonce_keeps]

end Sys2Proof.Machine
end

