-- ==== Sys2Proof/Laws/KeepsColl.lean ====
section
/-!
SUPPORT. That each function of Machine/Coll.lean keeps what a command keeps (`Keeps`, `OutKeeps`).
-/

namespace Sys2Proof.Machine

theorem State.storeLevels_keeps {k m s0} [Spares m .mem] [Spares m .poison] (s) (a) (ls) (h : Keeps k m s0 s) :
    Keeps k m s0 (State.storeLevels s a ls) := by
  unfold State.storeLevels; grind -lia -linarith -ring -order [State.wrBytes_keeps]

theorem State.closeTree_keeps {k m s0} [Spares m .mem] [Spares m .poison] (s) (tree) (step) (planes) (part) (h : Keeps k m s0 s) :
    Keeps k m s0 (State.closeTree s tree step planes part) := by
  unfold State.closeTree; grind -lia -linarith -ring -order [State.wrBytes_keeps, State.storeLevels_keeps]

theorem State.latchSentry_keeps {k m s0} [Spares m .parts] (s) (r) (h : Keeps k m s0 s) :
    Keeps k m s0 (State.latchSentry s r) := by
  unfold State.latchSentry; grind -lia -linarith -ring -order [State.updPart_keeps]

theorem State.updColl_keeps {k m s0} [Spares m .parts] (s) (r) (f) (h : Keeps k m s0 s) :
    Keeps k m s0 (State.updColl s r f) := by
  unfold State.updColl; grind -lia -linarith -ring -order [State.updDesc_keeps]

theorem State.bindChan_keeps {k m s0} [Spares m .macs] [Spares m .chans] [Spares m .fresh] [Spares m .out] (s) (r) (d) (c) (m_) (h : Keeps k m s0 s) :
    Keeps k m s0 (State.bindChan s r d c m_) := by
  unfold State.bindChan; grind -lia -linarith -ring -order [State.setChan_keeps, State.startReset_keeps]

theorem State.stampUpdate_keeps {k m s0} [Spares m .mem] [Spares m .poison] [Spares m .parts] (s) (r) (d) (u) (whole) (h : Keeps k m s0 s) :
    Keeps k m s0 (State.stampUpdate s r d u whole) := by
  unfold State.stampUpdate; grind -lia -linarith -ring -order [State.noteBad_keeps, State.closeTree_keeps, State.wrN_keeps]

theorem State.collEnd_keeps {k m s0} [Spares m .mem] [Spares m .poison] [Spares m .chans] [Spares m .parts] (s) (r) (d) (c) (whole) (st) (detail) (h : Keeps k m s0 s) :
    Keeps k m s0 (State.collEnd s r d c whole st detail) := by
  unfold State.collEnd; grind -lia -linarith -ring -order [keeps_foldS, State.wrBytes_keeps, State.stampUpdate_keeps, State.updChan_keeps, State.updDesc_keeps]

theorem State.treeNan_keeps {k m s0} [Spares m .rec'] [Spares m .mem] [Spares m .poison] [Spares m .parts] [Spares m .fresh] [Spares m .out] (s) (r) (d) (c) (k_) (at') (h : Keeps k m s0 s) :
    Keeps k m s0 (State.treeNan s r d c k_ at') := by
  unfold State.treeNan; grind -lia -linarith -ring -order [State.seedTrap_keeps]

theorem State.inject_keeps {k m s0} [Spares m .collInject] (s) (p) (v) (h : Keeps k m s0 s) :
    Keeps k m s0 (State.inject s p v).2 := by
  unfold State.inject; grind -lia -linarith -ring -order [keeps_mk_collInject]
theorem State.inject_keeps' {k m s0} [Spares m .collInject] {s} {p} {v} {x t} (eq_ : State.inject s p v = (x, t)) (h : Keeps k m s0 s) : Keeps k m s0 t := by
  have g := State.inject_keeps s p v h
  rw [eq_] at g; exact g

theorem State.writeResult_keeps {k m s0} [Spares m .rec'] [Spares m .mem] [Spares m .poison] [Spares m .parts] [Spares m .fresh] [Spares m .out] (s) (r) (d) (c) (k_) (v) (h : Keeps k m s0 s) :
    Keeps k m s0 (State.writeResult s r d c k_ v) := by
  unfold State.writeResult; grind -lia -linarith -ring -order [Run.start_keeps, Run.s_keeps, keeps_foldS, keeps_foldR, Run.writeElem_keeps, State.noteBad_keeps, State.setPoison_keeps, Run.finish_keeps]

theorem State.ownerDone_keeps {k m s0} [Spares m .rec'] [Spares m .collInject] [Spares m .mem] [Spares m .poison] [Spares m .parts] [Spares m .fresh] [Spares m .out] (s) (r) (d) (c) (k_) (v0) (h : Keeps k m s0 s) :
    Keeps k m s0 (State.ownerDone s r d c k_ v0) := by
  unfold State.ownerDone
  repeat' first
    | with_reducible assumption
    | with_reducible apply State.inject_keeps
    | with_reducible apply State.exception_keeps
    | with_reducible apply State.updDesc_keeps
    | with_reducible apply State.updPart_keeps
    | with_reducible apply State.markExc_keeps
    | with_reducible apply State.writeResult_keeps
    | exact State.inject_keeps' ‹_› ‹_›
    | refine State.inject_keeps' ‹_› ?_
    | exact State.exception_keeps' ‹_› ‹_›
    | refine State.exception_keeps' ‹_› ?_
    | intro _
    | split
    | dsimp only

theorem State.storeRed_keeps {k m s0} [Spares m .rec'] [Spares m .collInject] [Spares m .mem] [Spares m .poison] [Spares m .parts] [Spares m .fresh] [Spares m .out] (s) (r) (d) (c) (k_) (x) (h : Keeps k m s0 s) :
    Keeps k m s0 (State.storeRed s r d c k_ x) := by
  unfold State.storeRed; grind -lia -linarith -ring -order [State.updColl_keeps, State.ownerDone_keeps]

theorem State.takeChild_keeps {k m s0} [Spares m .rec'] [Spares m .collInject] [Spares m .mem] [Spares m .poison] [Spares m .parts] [Spares m .fresh] [Spares m .out] (s) (r) (d) (c) (k_) (step) (v) (h : Keeps k m s0 s) :
    Keeps k m s0 (State.takeChild s r d c k_ step v) := by
  unfold State.takeChild; grind -lia -linarith -ring -order [State.storeRed_keeps, State.treeNan_keeps, State.noteBad_keeps]

theorem State.startOwn_keeps {k m s0} [Spares m .rec'] [Spares m .collInject] [Spares m .mem] [Spares m .poison] [Spares m .parts] [Spares m .fresh] [Spares m .out] (s) (r) (h : Keeps k m s0 s) :
    Keeps k m s0 (State.startOwn s r) := by
  unfold State.startOwn; grind -lia -linarith -ring -order [keeps_foldS, State.storeRed_keeps, State.noteBad_keeps]

theorem State.injectWc_keeps {k m s0} [Spares m .updInject] (s) (p) (fs) (h : Keeps k m s0 s) :
    Keeps k m s0 (State.injectWc s p fs).2 := by
  unfold State.injectWc; grind -lia -linarith -ring -order [keeps_mk_updInject]
theorem State.injectWc_keeps' {k m s0} [Spares m .updInject] {s} {p} {fs} {x t} (eq_ : State.injectWc s p fs = (x, t)) (h : Keeps k m s0 s) : Keeps k m s0 t := by
  have g := State.injectWc_keeps s p fs h
  rw [eq_] at g; exact g

theorem State.sendData_keeps {k m s0} [Spares m .macs] [Spares m .chans] [Spares m .fresh] [Spares m .out] (s) (r) (d) (m_) (fs) (h : Keeps k m s0 s) :
    Keeps k m s0 (State.sendData s r d m_ fs) := by
  unfold State.sendData; grind -lia -linarith -ring -order [State.pushFrames_keeps]

theorem State.blockFrames_keeps {k m s0} [Spares m .updInject] [Spares m .parts] (s) (r) (d) (c) (m_) (key) (h : Keeps k m s0 s) :
    Keeps k m s0 (State.blockFrames s r d c m_ key).2 := by
  unfold State.blockFrames; grind -lia -linarith -ring -order [State.injectWc_keeps, State.noteBad_keeps]
theorem State.blockFrames_keeps' {k m s0} [Spares m .updInject] [Spares m .parts] {s} {r} {d} {c} {m_} {key} {x t} (eq_ : State.blockFrames s r d c m_ key = (x, t)) (h : Keeps k m s0 s) : Keeps k m s0 t := by
  have g := State.blockFrames_keeps s r d c m_ key h
  rw [eq_] at g; exact g

theorem State.beginItem_keeps {k m s0} [Spares m .updInject] [Spares m .macs] [Spares m .chans] [Spares m .parts] [Spares m .fresh] [Spares m .out] (s) (r) (d) (c) (n) (x) (h : Keeps k m s0 s) :
    Keeps k m s0 (State.beginItem s r d c n x) := by
  unfold State.beginItem; grind -lia -linarith -ring -order [State.noteBad_keeps, State.blockFrames_keeps, State.updColl_keeps, State.sendData_keeps, State.updPart_keeps]

theorem State.copyOwn_keeps {k m s0} [Spares m .mem] [Spares m .poison] [Spares m .parts] [Spares m .fresh] (s) (r) (d) (c) (h : Keeps k m s0 s) :
    Keeps k m s0 (State.copyOwn s r d c) := by
  unfold State.copyOwn; grind -lia -linarith -ring -order [keeps_foldS, State.moveBytes_keeps, State.lateWrites_keeps, State.noteBad_keeps, State.wrRaw_keeps, State.updColl_keeps]

theorem State.tryOwn_keeps {k m s0} [Spares m .mem] [Spares m .poison] [Spares m .parts] [Spares m .fresh] (s) (r) (h : Keeps k m s0 s) :
    Keeps k m s0 (State.tryOwn s r) := by
  unfold State.tryOwn; grind -lia -linarith -ring -order [State.copyOwn_keeps, State.noteBad_keeps]

theorem State.latchAcks_keeps {k m s0} [Spares m .parts] (s) (r) (h : Keeps k m s0 s) :
    Keeps k m s0 (State.latchAcks s r) := by
  unfold State.latchAcks; grind -lia -linarith -ring -order [State.updColl_keeps]

theorem State.pushBases_keeps {k m s0} [Spares m .macs] [Spares m .chans] [Spares m .parts] [Spares m .fresh] [Spares m .out] (s) (r) (h : Keeps k m s0 s) :
    Keeps k m s0 (State.pushBases s r) := by
  unfold State.pushBases; grind -lia -linarith -ring -order [keeps_foldS, State.pushFrames_keeps, State.updColl_keeps]

theorem State.takeBases_keeps {k m s0} [Spares m .mem] [Spares m .poison] [Spares m .chans] [Spares m .parts] (s) (r) (h : Keeps k m s0 s) :
    Keeps k m s0 (State.takeBases s r) := by
  unfold State.takeBases; grind -lia -linarith -ring -order [keeps_foldS, State.setChan_keeps, State.updColl_keeps, State.collEnd_keeps]

theorem State.pushToken_keeps {k m s0} [Spares m .macs] [Spares m .chans] [Spares m .fresh] [Spares m .out] (s) (r) (d) (m_) (kind) (step) (addr) (h : Keeps k m s0 s) :
    Keeps k m s0 (State.pushToken s r d m_ kind step addr) := by
  unfold State.pushToken; grind -lia -linarith -ring -order [State.pushFrames_keeps]

theorem State.barrierTokens_keeps {k m s0} [Spares m .macs] [Spares m .chans] [Spares m .parts] [Spares m .fresh] [Spares m .out] (s) (r) (h : Keeps k m s0 s) :
    Keeps k m s0 (State.barrierTokens s r) := by
  unfold State.barrierTokens; grind -lia -linarith -ring -order [keeps_foldS, State.pushToken_keeps, State.updColl_keeps]

theorem State.wcTokens_keeps {k m s0} [Spares m .macs] [Spares m .chans] [Spares m .parts] [Spares m .fresh] [Spares m .out] (s) (r) (h : Keeps k m s0 s) :
    Keeps k m s0 (State.wcTokens s r) := by
  unfold State.wcTokens; grind -lia -linarith -ring -order [keeps_foldS, State.pushToken_keeps, State.updColl_keeps]

theorem State.permuteRounds_keeps {k m s0} [Spares m .macs] [Spares m .chans] [Spares m .parts] [Spares m .fresh] [Spares m .out] (s) (r) (h : Keeps k m s0 s) :
    Keeps k m s0 (State.permuteRounds s r) := by
  unfold State.permuteRounds
  repeat' first
    | with_reducible assumption
    | with_reducible apply keeps_foldS
    | with_reducible apply State.pushToken_keeps
    | with_reducible apply State.updColl_keeps
    | with_reducible apply State.bindChan_keeps
    | intro _
    | split
    | dsimp only

theorem State.collFinish_keeps {k m s0} [Spares m .mem] [Spares m .poison] [Spares m .chans] [Spares m .parts] (s) (r) (h : Keeps k m s0 s) :
    Keeps k m s0 (State.collFinish s r) := by
  unfold State.collFinish; grind -lia -linarith -ring -order [State.collEnd_keeps]

theorem State.collSettle_keeps {k m s0} [Spares m .mem] [Spares m .poison] [Spares m .macs] [Spares m .chans] [Spares m .parts] [Spares m .fresh] [Spares m .out] (s) (r) (h : Keeps k m s0 s) :
    Keeps k m s0 (State.collSettle s r) := by
  unfold State.collSettle
  repeat' first
    | with_reducible assumption
    | with_reducible apply State.permuteRounds_keeps
    | with_reducible apply State.latchAcks_keeps
    | with_reducible apply State.takeBases_keeps
    | with_reducible apply State.pushBases_keeps
    | with_reducible apply State.tryOwn_keeps
    | with_reducible apply State.testWaits_keeps
    | with_reducible apply State.collFinish_keeps
    | with_reducible apply State.wcTokens_keeps
    | with_reducible apply State.barrierTokens_keeps
    | intro _
    | split
    | dsimp only

theorem State.collRow_keeps {k m s0} [Spares m .rec'] [Spares m .collInject] [Spares m .mem] [Spares m .poison] [Spares m .macs] [Spares m .chans] [Spares m .parts] [Spares m .fresh] [Spares m .out] (s) (r) (op) (h : Keeps k m s0 s) :
    Keeps k m s0 (State.collRow s r op) := by
  unfold State.collRow
  repeat' first
    | with_reducible assumption
    | with_reducible apply State.collSettle_keeps
    | with_reducible apply State.updColl_keeps
    | with_reducible apply State.updDesc_keeps
    | with_reducible apply State.updPart_keeps
    | with_reducible apply keeps_foldS
    | with_reducible apply State.bindChan_keeps
    | with_reducible apply State.startOwn_keeps
    | intro _
    | split
    | dsimp only

theorem execGather_keeps {k m s0} [Spares m .rec'] [Spares m .collInject] [Spares m .memc] [Spares m .mem] [Spares m .poison] [Spares m .macs] [Spares m .chans] [Spares m .chipFixed] [Spares m .parts] [Spares m .fresh] [Spares m .out] (r) (s) (h : Keeps k m s0 s) :
    OutKeeps k m s0 (execGather r s) := by
  unfold execGather; grind -lia -linarith -ring -order [State.collRow_keeps, State.finds_keeps, outKeeps_next]

theorem execReduceScatter_keeps {k m s0} [Spares m .rec'] [Spares m .collInject] [Spares m .memc] [Spares m .mem] [Spares m .poison] [Spares m .macs] [Spares m .chans] [Spares m .chipFixed] [Spares m .parts] [Spares m .fresh] [Spares m .out] (r) (s) (h : Keeps k m s0 s) :
    OutKeeps k m s0 (execReduceScatter r s) := by
  unfold execReduceScatter; grind -lia -linarith -ring -order [State.collRow_keeps, State.finds_keeps, outKeeps_next]

theorem execAllReduce_keeps {k m s0} [Spares m .rec'] [Spares m .collInject] [Spares m .memc] [Spares m .mem] [Spares m .poison] [Spares m .macs] [Spares m .chans] [Spares m .chipFixed] [Spares m .parts] [Spares m .fresh] [Spares m .out] (r) (s) (h : Keeps k m s0 s) :
    OutKeeps k m s0 (execAllReduce r s) := by
  unfold execAllReduce; grind -lia -linarith -ring -order [State.collRow_keeps, State.finds_keeps, outKeeps_next]

theorem execBroadcast_keeps {k m s0} [Spares m .rec'] [Spares m .collInject] [Spares m .mem] [Spares m .poison] [Spares m .macs] [Spares m .chans] [Spares m .parts] [Spares m .fresh] [Spares m .out] (r) (s) (h : Keeps k m s0 s) :
    OutKeeps k m s0 (execBroadcast r s) := by
  unfold execBroadcast; grind -lia -linarith -ring -order [State.collRow_keeps, outKeeps_next]

theorem execBarrier_keeps {k m s0} [Spares m .rec'] [Spares m .collInject] [Spares m .mem] [Spares m .poison] [Spares m .macs] [Spares m .chans] [Spares m .parts] [Spares m .fresh] [Spares m .out] (r) (s) (h : Keeps k m s0 s) :
    OutKeeps k m s0 (execBarrier r s) := by
  unfold execBarrier; grind -lia -linarith -ring -order [State.collRow_keeps, outKeeps_next]

theorem execPermute_keeps {k m s0} [Spares m .rec'] [Spares m .collInject] [Spares m .mem] [Spares m .poison] [Spares m .macs] [Spares m .chans] [Spares m .parts] [Spares m .fresh] [Spares m .out] (r) (s) (h : Keeps k m s0 s) :
    OutKeeps k m s0 (execPermute r s) := by
  unfold execPermute; grind -lia -linarith -ring -order [State.collRow_keeps, outKeeps_next]

theorem State.chunkSend_keeps {k m s0} [Spares m .updInject] [Spares m .mem] [Spares m .poison] [Spares m .macs] [Spares m .chans] [Spares m .parts] [Spares m .fresh] [Spares m .out] (s) (r) (h : Keeps k m s0 s) :
    Keeps k m s0 (State.chunkSend s r) := by
  unfold State.chunkSend; grind -lia -linarith -ring -order [State.collSettle_keeps, State.beginItem_keeps]

theorem execChunkSend_keeps {k m s0} [Spares m .rec'] [Spares m .updInject] [Spares m .memc] [Spares m .mem] [Spares m .poison] [Spares m .macs] [Spares m .chans] [Spares m .chipFixed] [Spares m .parts] [Spares m .fresh] [Spares m .out] (r) (s) (h : Keeps k m s0 s) :
    OutKeeps k m s0 (execChunkSend r s) := by
  unfold execChunkSend; grind -lia -linarith -ring -order [State.chunkSend_keeps, State.finds_keeps, outKeeps_next]

theorem State.permuteMove_keeps {k m s0} [Spares m .mem] [Spares m .poison] [Spares m .macs] [Spares m .chans] [Spares m .parts] [Spares m .fresh] [Spares m .out] (s) (r) (round) (h : Keeps k m s0 s) :
    Keeps k m s0 (State.permuteMove s r round) := by
  unfold State.permuteMove
  repeat' first
    | with_reducible assumption
    | with_reducible apply State.moveBytes_keeps
    | with_reducible apply State.lateWrites_keeps
    | with_reducible apply State.noteBad_keeps
    | with_reducible apply State.updDesc_keeps
    | with_reducible apply State.collSettle_keeps
    | with_reducible apply State.updColl_keeps
    | exact State.moveBytes_keeps' ‹_› ‹_›
    | refine State.moveBytes_keeps' ‹_› ?_
    | intro _
    | split
    | dsimp only

theorem execPermuteMove_keeps {k m s0} [Spares m .rec'] [Spares m .memc] [Spares m .mem] [Spares m .poison] [Spares m .macs] [Spares m .chans] [Spares m .chipFixed] [Spares m .parts] [Spares m .fresh] [Spares m .out] (r) (round) (s) (h : Keeps k m s0 s) :
    OutKeeps k m s0 (execPermuteMove r round s) := by
  unfold execPermuteMove; grind -lia -linarith -ring -order [State.permuteMove_keeps, State.finds_keeps, outKeeps_next]

theorem State.lateReport_keeps {k m s0} [Spares m .rec'] [Spares m .mem] [Spares m .poison] [Spares m .parts] [Spares m .out] (s) (r) (h : Keeps k m s0 s) :
    Keeps k m s0 (State.lateReport s r) := by
  unfold State.lateReport; grind -lia -linarith -ring -order [State.exception_keeps, State.updColl_keeps, State.updPart_keeps, State.markExc_keeps]

theorem execLateReport_keeps {k m s0} [Spares m .rec'] [Spares m .mem] [Spares m .poison] [Spares m .parts] [Spares m .out] (r) (s) (h : Keeps k m s0 s) :
    OutKeeps k m s0 (execLateReport r s) := by
  unfold execLateReport; grind -lia -linarith -ring -order [State.lateReport_keeps, outKeeps_next]

theorem State.divergeHalt_keeps {k m s0} [Spares m .parts] (s) (r) (shard) (leaf) (h : Keeps k m s0 s) :
    Keeps k m s0 (State.divergeHalt s r shard leaf) := by
  unfold State.divergeHalt; grind -lia -linarith -ring -order [State.updDesc_keeps, State.updPart_keeps]

theorem State.takeData_keeps {k m s0} [Spares m .mem] [Spares m .poison] [Spares m .macs] [Spares m .chans] [Spares m .parts] [Spares m .fresh] [Spares m .out] (s) (n) (p) (f) (bytes) (h : Keeps k m s0 s) :
    Keeps k m s0 (State.takeData s n p f bytes) := by
  unfold State.takeData
  repeat' first
    | with_reducible assumption
    | with_reducible apply State.lateWrites_keeps
    | with_reducible apply State.wrBytes_keeps
    | with_reducible apply keeps_foldS
    | with_reducible apply State.setPoison_keeps
    | with_reducible apply State.updColl_keeps
    | with_reducible apply State.noteBad_keeps
    | with_reducible apply State.updPart_keeps
    | with_reducible apply State.collSettle_keeps
    | with_reducible apply State.updDesc_keeps
    | intro _
    | split
    | dsimp only

theorem State.redTrailer_keeps {k m s0} [Spares m .rec'] [Spares m .collInject] [Spares m .mem] [Spares m .poison] [Spares m .macs] [Spares m .chans] [Spares m .parts] [Spares m .fresh] [Spares m .out] (s) (r) (d) (c) (m_) (l) (h : Keeps k m s0 s) :
    Keeps k m s0 (State.redTrailer s r d c m_ l) := by
  unfold State.redTrailer; grind -lia -linarith -ring -order [State.updColl_keeps, State.updPart_keeps, State.collSettle_keeps, State.takeChild_keeps]

theorem State.wcTrailerIn_keeps {k m s0} [Spares m .rec'] [Spares m .mem] [Spares m .poison] [Spares m .macs] [Spares m .chans] [Spares m .parts] [Spares m .fresh] [Spares m .out] (s) (r) (d) (c) (m_) (l) (h : Keeps k m s0 s) :
    Keeps k m s0 (State.wcTrailerIn s r d c m_ l) := by
  unfold State.wcTrailerIn
  repeat' first
    | with_reducible assumption
    | with_reducible apply State.updColl_keeps
    | with_reducible apply State.collSettle_keeps
    | with_reducible apply State.updDesc_keeps
    | with_reducible apply State.exception_keeps
    | with_reducible apply State.markExc_keeps
    | with_reducible apply State.divergeHalt_keeps
    | with_reducible apply State.pushToken_keeps
    | exact State.exception_keeps' ‹_› ‹_›
    | refine State.exception_keeps' ‹_› ?_
    | intro _
    | split
    | dsimp only

theorem State.takeTrailer_keeps {k m s0} [Spares m .rec'] [Spares m .collInject] [Spares m .mem] [Spares m .poison] [Spares m .macs] [Spares m .chans] [Spares m .parts] [Spares m .fresh] [Spares m .out] (s) (n) (f) (h : Keeps k m s0 s) :
    Keeps k m s0 (State.takeTrailer s n f) := by
  unfold State.takeTrailer; grind -lia -linarith -ring -order [State.wcTrailerIn_keeps, State.redTrailer_keeps]

theorem State.takeToken_keeps {k m s0} [Spares m .updInject] [Spares m .mem] [Spares m .poison] [Spares m .macs] [Spares m .chans] [Spares m .parts] [Spares m .fresh] [Spares m .out] (s) (n) (kind) (f) (h : Keeps k m s0 s) :
    Keeps k m s0 (State.takeToken s n kind f) := by
  unfold State.takeToken
  repeat' first
    | with_reducible assumption
    | with_reducible apply State.updColl_keeps
    | with_reducible apply State.collSettle_keeps
    | with_reducible apply State.blockFrames_keeps
    | with_reducible apply State.sendData_keeps
    | exact State.blockFrames_keeps' ‹_› ‹_›
    | refine State.blockFrames_keeps' ‹_› ?_
    | intro _
    | split
    | dsimp only

theorem State.deliver_keeps {k m s0} [Spares m .rec'] [Spares m .collInject] [Spares m .updInject] [Spares m .mem] [Spares m .poison] [Spares m .macs] [Spares m .chans] [Spares m .parts] [Spares m .fresh] [Spares m .out] (s) (n) (p) (f) (h : Keeps k m s0 s) :
    Keeps k m s0 (State.deliver s n p f) := by
  unfold State.deliver; grind -lia -linarith -ring -order [State.takeData_keeps, State.takeTrailer_keeps, State.updChan_keeps, State.collSettle_keeps, State.takeToken_keeps]

theorem State.settleUser_keeps {k m s0} [Spares m .mem] [Spares m .poison] [Spares m .macs] [Spares m .chans] [Spares m .parts] [Spares m .fresh] [Spares m .out] (s) (n) (h : Keeps k m s0 s) :
    Keeps k m s0 (State.settleUser s n) := by
  unfold State.settleUser; grind -lia -linarith -ring -order [State.collSettle_keeps]

theorem State.rxTake_keeps {k m s0} [Spares m .rec'] [Spares m .collInject] [Spares m .updInject] [Spares m .mem] [Spares m .poison] [Spares m .macs] [Spares m .chans] [Spares m .parts] [Spares m .fresh] [Spares m .out] (s) (n) (f) (h : Keeps k m s0 s) :
    Keeps k m s0 (State.rxTake s n f) := by
  have h1 : Keeps k m s0 (foldS (fun (t : State) g => t.deliver n f.dstPart g) (s.acceptData n f.seq f.tx).1
      (s.acceptData n f.seq f.tx).2.1) :=
    keeps_foldS (fun t g ht => State.deliver_keeps _ _ _ _ ht) (State.acceptData_keeps _ _ _ _ h)
  rw [State.rxTake]
  exact State.testWaits_keeps _ _ (State.settleUser_keeps _ _ (keeps_ite (State.sendAck_keeps _ _ h1) h1))

theorem State.rxData_keeps {k m s0} [Spares m .rec'] [Spares m .collInject] [Spares m .updInject] [Spares m .mem] [Spares m .poison] [Spares m .macs] [Spares m .chans] [Spares m .parts] [Spares m .fresh] [Spares m .out] (s) (f) (kind) (h : Keeps k m s0 s) :
    Keeps k m s0 (State.rxData s f kind) := by
  rw [State.rxData]
  have h0 := State.countFrame_keeps s f .take h
  have h1 := State.takeAck_keeps _ f.dstCh f.ackNo f.sackNo h0
  refine keeps_ite (State.countFrame_keeps _ _ _ h) (keeps_ite h (keeps_ite (State.countFrame_keeps _ _ _ h) (keeps_ite h0 ?_)))
  exact keeps_ite (State.failChan_keeps _ _ _ (State.settleUser_keeps _ _ h1)) (State.rxTake_keeps _ _ _ h1)

theorem State.rxFinds_keeps {k m s0} [Spares m .rec'] [Spares m .memc] [Spares m .mem] [Spares m .poison] [Spares m .chipFixed] [Spares m .parts] [Spares m .fresh] [Spares m .out] (s) (f) (found) (h : Keeps k m s0 s) :
    Keeps k m s0 (State.rxFinds s f found) := by
  rw [State.rxFinds]; exact keeps_ite (State.findAll_keeps _ _ _ _ h) h

theorem execData_keeps {k m s0} [Spares m .rec'] [Spares m .collInject] [Spares m .updInject] [Spares m .memc] [Spares m .mem] [Spares m .poison] [Spares m .macs] [Spares m .chans] [Spares m .chipFixed] [Spares m .parts] [Spares m .fresh] [Spares m .out] (f) (s) (h : Keeps k m s0 s) :
    OutKeeps k m s0 (execData f s) := by
  unfold execData; grind -lia -linarith -ring -order [State.rxData_keeps, State.rxFinds_keeps, outKeeps_next]

theorem execTrailer_keeps {k m s0} [Spares m .rec'] [Spares m .collInject] [Spares m .updInject] [Spares m .memc] [Spares m .mem] [Spares m .poison] [Spares m .macs] [Spares m .chans] [Spares m .chipFixed] [Spares m .parts] [Spares m .fresh] [Spares m .out] (f) (s) (h : Keeps k m s0 s) :
    OutKeeps k m s0 (execTrailer f s) := by
  unfold execTrailer; grind -lia -linarith -ring -order [State.rxData_keeps, State.rxFinds_keeps, outKeeps_next]

theorem execBases_keeps {k m s0} [Spares m .rec'] [Spares m .collInject] [Spares m .updInject] [Spares m .mem] [Spares m .poison] [Spares m .macs] [Spares m .chans] [Spares m .parts] [Spares m .fresh] [Spares m .out] (f) (s) (h : Keeps k m s0 s) :
    OutKeeps k m s0 (execBases f s) := by
  unfold execBases; grind -lia -linarith -ring -order [State.rxData_keeps, outKeeps_next]

theorem execToken_keeps {k m s0} [Spares m .rec'] [Spares m .collInject] [Spares m .updInject] [Spares m .memc] [Spares m .mem] [Spares m .poison] [Spares m .macs] [Spares m .chans] [Spares m .chipFixed] [Spares m .parts] [Spares m .fresh] [Spares m .out] (f) (s) (h : Keeps k m s0 s) :
    OutKeeps k m s0 (execToken f s) := by
  unfold execToken; grind -lia -linarith -ring -order [State.rxData_keeps, State.rxFinds_keeps, outKeeps_next]

theorem execGrant_keeps {k m s0} [Spares m .rec'] [Spares m .collInject] [Spares m .updInject] [Spares m .mem] [Spares m .poison] [Spares m .macs] [Spares m .chans] [Spares m .parts] [Spares m .fresh] [Spares m .out] (f) (s) (h : Keeps k m s0 s) :
    OutKeeps k m s0 (execGrant f s) := by
  unfold execGrant; grind -lia -linarith -ring -order [State.rxData_keeps, outKeeps_next]

theorem State.rxAckFrame_keeps {k m s0} [Spares m .mem] [Spares m .poison] [Spares m .macs] [Spares m .chans] [Spares m .parts] [Spares m .fresh] [Spares m .out] (s) (f) (h : Keeps k m s0 s) :
    Keeps k m s0 (State.rxAckFrame s f) := by
  unfold State.rxAckFrame; grind -lia -linarith -ring -order [State.countFrame_keeps, State.settleUser_keeps, State.rxAck_keeps]

theorem execAck_keeps {k m s0} [Spares m .mem] [Spares m .poison] [Spares m .macs] [Spares m .chans] [Spares m .parts] [Spares m .fresh] [Spares m .out] (f) (s) (h : Keeps k m s0 s) :
    OutKeeps k m s0 (execAck f s) := by
  unfold execAck; grind -lia -linarith -ring -order [State.rxAckFrame_keeps, outKeeps_next]

theorem State.rxReset_keeps {k m s0} [Spares m .mem] [Spares m .poison] [Spares m .macs] [Spares m .chans] [Spares m .parts] [Spares m .fresh] [Spares m .out] (s) (f) (h : Keeps k m s0 s) :
    Keeps k m s0 (State.rxReset s f) := by
  unfold State.rxReset; grind -lia -linarith -ring -order [State.countFrame_keeps, State.setChan_keeps, State.updColl_keeps, State.settleUser_keeps, State.sendFrame_keeps]

theorem execChReset_keeps {k m s0} [Spares m .mem] [Spares m .poison] [Spares m .macs] [Spares m .chans] [Spares m .parts] [Spares m .fresh] [Spares m .out] (f) (s) (h : Keeps k m s0 s) :
    OutKeeps k m s0 (execChReset f s) := by
  unfold execChReset; grind -lia -linarith -ring -order [State.rxReset_keeps, outKeeps_next]

theorem State.rxResetAck_keeps {k m s0} [Spares m .mem] [Spares m .poison] [Spares m .macs] [Spares m .chans] [Spares m .parts] [Spares m .fresh] [Spares m .out] (s) (f) (h : Keeps k m s0 s) :
    Keeps k m s0 (State.rxResetAck s f) := by
  unfold State.rxResetAck; grind -lia -linarith -ring -order [State.countFrame_keeps, State.settleUser_keeps, State.pump_keeps, State.setChan_keeps]

theorem execChResetAck_keeps {k m s0} [Spares m .mem] [Spares m .poison] [Spares m .macs] [Spares m .chans] [Spares m .parts] [Spares m .fresh] [Spares m .out] (f) (s) (h : Keeps k m s0 s) :
    OutKeeps k m s0 (execChResetAck f s) := by
  unfold execChResetAck; grind -lia -linarith -ring -order [State.rxResetAck_keeps, outKeeps_next]

end Sys2Proof.Machine
end

