-- ==== Sys2Proof/Laws/KeepsUpdate.lean ====
section
/-!
SUPPORT. That each function of Machine/Update.lean keeps what a command keeps (`Keeps`, `OutKeeps`).
-/

namespace Sys2Proof.Machine

theorem State.setEngine_keeps {k m s0} [Spares m .upd] (s) (u) (v) (h : Keeps k m s0 s) :
    Keeps k m s0 (State.setEngine s u v) := by
  unfold State.setEngine; grind -lia -linarith -ring -order [keeps_mk_upd]

theorem State.updRow_keeps {k m s0} [Spares m .rec'] [Spares m .mem] [Spares m .poison] [Spares m .upd] [Spares m .parts] [Spares m .fresh] [Spares m .out] (s : State) (p : UpdAt) (f : UCtx → UCtx) (h : Keeps k m s0 s) : Keeps k m s0 (s.updRow p f) := by
  unfold State.updRow
  split
  · exact h
  dsimp only
  split
  · exact h
  have g := fun e => State.setEngine_keeps s p.engine e h
  split
  · exact State.seedTrap_keeps _ _ _ (g _)
  · exact g _

theorem execUpdNop_keeps {k m s0} [Spares m .rec'] [Spares m .mem] [Spares m .poison] [Spares m .upd] [Spares m .parts] [Spares m .fresh] [Spares m .out] (p) (x) (s) (h : Keeps k m s0 s) :
    OutKeeps k m s0 (execUpdNop p x s) := by
  unfold execUpdNop; grind -lia -linarith -ring -order [State.updRow_keeps, outKeeps_next]

theorem execUpdMov_keeps {k m s0} [Spares m .rec'] [Spares m .mem] [Spares m .poison] [Spares m .upd] [Spares m .parts] [Spares m .fresh] [Spares m .out] (p) (i) (s) (h : Keeps k m s0 s) :
    OutKeeps k m s0 (execUpdMov p i s) := by
  unfold execUpdMov; grind -lia -linarith -ring -order [State.updRow_keeps, outKeeps_next]

theorem execUpdAdd_keeps {k m s0} [Spares m .rec'] [Spares m .mem] [Spares m .poison] [Spares m .upd] [Spares m .parts] [Spares m .fresh] [Spares m .out] (p) (i) (s) (h : Keeps k m s0 s) :
    OutKeeps k m s0 (execUpdAdd p i s) := by
  unfold execUpdAdd; grind -lia -linarith -ring -order [State.updRow_keeps, outKeeps_next]

theorem execUpdSub_keeps {k m s0} [Spares m .rec'] [Spares m .mem] [Spares m .poison] [Spares m .upd] [Spares m .parts] [Spares m .fresh] [Spares m .out] (p) (i) (s) (h : Keeps k m s0 s) :
    OutKeeps k m s0 (execUpdSub p i s) := by
  unfold execUpdSub; grind -lia -linarith -ring -order [State.updRow_keeps, outKeeps_next]

theorem execUpdMul_keeps {k m s0} [Spares m .rec'] [Spares m .mem] [Spares m .poison] [Spares m .upd] [Spares m .parts] [Spares m .fresh] [Spares m .out] (p) (i) (s) (h : Keeps k m s0 s) :
    OutKeeps k m s0 (execUpdMul p i s) := by
  unfold execUpdMul; grind -lia -linarith -ring -order [State.updRow_keeps, outKeeps_next]

theorem execUpdFma_keeps {k m s0} [Spares m .rec'] [Spares m .mem] [Spares m .poison] [Spares m .upd] [Spares m .parts] [Spares m .fresh] [Spares m .out] (p) (i) (s) (h : Keeps k m s0 s) :
    OutKeeps k m s0 (execUpdFma p i s) := by
  unfold execUpdFma; grind -lia -linarith -ring -order [State.updRow_keeps, outKeeps_next]

theorem execUpdDiv_keeps {k m s0} [Spares m .rec'] [Spares m .mem] [Spares m .poison] [Spares m .upd] [Spares m .parts] [Spares m .fresh] [Spares m .out] (p) (i) (s) (h : Keeps k m s0 s) :
    OutKeeps k m s0 (execUpdDiv p i s) := by
  unfold execUpdDiv; grind -lia -linarith -ring -order [State.updRow_keeps, outKeeps_next]

theorem execUpdSqrt_keeps {k m s0} [Spares m .rec'] [Spares m .mem] [Spares m .poison] [Spares m .upd] [Spares m .parts] [Spares m .fresh] [Spares m .out] (p) (i) (s) (h : Keeps k m s0 s) :
    OutKeeps k m s0 (execUpdSqrt p i s) := by
  unfold execUpdSqrt; grind -lia -linarith -ring -order [State.updRow_keeps, outKeeps_next]

theorem execUpdRsqrt_keeps {k m s0} [Spares m .rec'] [Spares m .mem] [Spares m .poison] [Spares m .upd] [Spares m .parts] [Spares m .fresh] [Spares m .out] (p) (i) (s) (h : Keeps k m s0 s) :
    OutKeeps k m s0 (execUpdRsqrt p i s) := by
  unfold execUpdRsqrt; grind -lia -linarith -ring -order [State.updRow_keeps, outKeeps_next]

theorem execUpdRcp_keeps {k m s0} [Spares m .rec'] [Spares m .mem] [Spares m .poison] [Spares m .upd] [Spares m .parts] [Spares m .fresh] [Spares m .out] (p) (i) (s) (h : Keeps k m s0 s) :
    OutKeeps k m s0 (execUpdRcp p i s) := by
  unfold execUpdRcp; grind -lia -linarith -ring -order [State.updRow_keeps, outKeeps_next]

theorem execUpdMax_keeps {k m s0} [Spares m .rec'] [Spares m .mem] [Spares m .poison] [Spares m .upd] [Spares m .parts] [Spares m .fresh] [Spares m .out] (p) (i) (s) (h : Keeps k m s0 s) :
    OutKeeps k m s0 (execUpdMax p i s) := by
  unfold execUpdMax; grind -lia -linarith -ring -order [State.updRow_keeps, outKeeps_next]

theorem execUpdMin_keeps {k m s0} [Spares m .rec'] [Spares m .mem] [Spares m .poison] [Spares m .upd] [Spares m .parts] [Spares m .fresh] [Spares m .out] (p) (i) (s) (h : Keeps k m s0 s) :
    OutKeeps k m s0 (execUpdMin p i s) := by
  unfold execUpdMin; grind -lia -linarith -ring -order [State.updRow_keeps, outKeeps_next]

theorem execUpdAbs_keeps {k m s0} [Spares m .rec'] [Spares m .mem] [Spares m .poison] [Spares m .upd] [Spares m .parts] [Spares m .fresh] [Spares m .out] (p) (i) (s) (h : Keeps k m s0 s) :
    OutKeeps k m s0 (execUpdAbs p i s) := by
  unfold execUpdAbs; grind -lia -linarith -ring -order [State.updRow_keeps, outKeeps_next]

theorem execUpdNeg_keeps {k m s0} [Spares m .rec'] [Spares m .mem] [Spares m .poison] [Spares m .upd] [Spares m .parts] [Spares m .fresh] [Spares m .out] (p) (i) (s) (h : Keeps k m s0 s) :
    OutKeeps k m s0 (execUpdNeg p i s) := by
  unfold execUpdNeg; grind -lia -linarith -ring -order [State.updRow_keeps, outKeeps_next]

theorem execUpdCmp_keeps {k m s0} [Spares m .rec'] [Spares m .mem] [Spares m .poison] [Spares m .upd] [Spares m .parts] [Spares m .fresh] [Spares m .out] (p) (i) (s) (h : Keeps k m s0 s) :
    OutKeeps k m s0 (execUpdCmp p i s) := by
  unfold execUpdCmp; grind -lia -linarith -ring -order [State.updRow_keeps, outKeeps_next]

theorem execUpdSel_keeps {k m s0} [Spares m .rec'] [Spares m .mem] [Spares m .poison] [Spares m .upd] [Spares m .parts] [Spares m .fresh] [Spares m .out] (p) (i) (s) (h : Keeps k m s0 s) :
    OutKeeps k m s0 (execUpdSel p i s) := by
  unfold execUpdSel; grind -lia -linarith -ring -order [State.updRow_keeps, outKeeps_next]

theorem execUpdMrd_keeps {k m s0} [Spares m .rec'] [Spares m .mem] [Spares m .poison] [Spares m .upd] [Spares m .parts] [Spares m .fresh] [Spares m .out] (p) (i) (s) (h : Keeps k m s0 s) :
    OutKeeps k m s0 (execUpdMrd p i s) := by
  unfold execUpdMrd; grind -lia -linarith -ring -order [State.updRow_keeps, outKeeps_next]

theorem execUpdMadd_keeps {k m s0} [Spares m .rec'] [Spares m .mem] [Spares m .poison] [Spares m .upd] [Spares m .parts] [Spares m .fresh] [Spares m .out] (p) (i) (s) (h : Keeps k m s0 s) :
    OutKeeps k m s0 (execUpdMadd p i s) := by
  unfold execUpdMadd; grind -lia -linarith -ring -order [State.updRow_keeps, outKeeps_next]

theorem execUpdExp2_keeps {k m s0} [Spares m .rec'] [Spares m .mem] [Spares m .poison] [Spares m .upd] [Spares m .parts] [Spares m .fresh] [Spares m .out] (p) (i) (s) (h : Keeps k m s0 s) :
    OutKeeps k m s0 (execUpdExp2 p i s) := by
  unfold execUpdExp2; grind -lia -linarith -ring -order [State.updRow_keeps, outKeeps_next]

theorem execUpdLog2_keeps {k m s0} [Spares m .rec'] [Spares m .mem] [Spares m .poison] [Spares m .upd] [Spares m .parts] [Spares m .fresh] [Spares m .out] (p) (i) (s) (h : Keeps k m s0 s) :
    OutKeeps k m s0 (execUpdLog2 p i s) := by
  unfold execUpdLog2; grind -lia -linarith -ring -order [State.updRow_keeps, outKeeps_next]

theorem execUpdBsum_keeps {k m s0} [Spares m .rec'] [Spares m .mem] [Spares m .poison] [Spares m .upd] [Spares m .parts] [Spares m .fresh] [Spares m .out] (p) (i) (s) (h : Keeps k m s0 s) :
    OutKeeps k m s0 (execUpdBsum p i s) := by
  unfold execUpdBsum; grind -lia -linarith -ring -order [State.updRow_keeps, outKeeps_next]

theorem execUpdBmax_keeps {k m s0} [Spares m .rec'] [Spares m .mem] [Spares m .poison] [Spares m .upd] [Spares m .parts] [Spares m .fresh] [Spares m .out] (p) (i) (s) (h : Keeps k m s0 s) :
    OutKeeps k m s0 (execUpdBmax p i s) := by
  unfold execUpdBmax; grind -lia -linarith -ring -order [State.updRow_keeps, outKeeps_next]

theorem State.updOp_keeps {k m s0} [Spares m .parts] (s : State) (r : DRef) (ok : Desc → Bool) (f : State → Desc → State)
    (hf : ∀ t d, Keeps k m s0 t → Keeps k m s0 (f t d)) (h : Keeps k m s0 s) : Keeps k m s0 (s.updOp r ok f) := by
  unfold State.updOp
  split
  · exact h
  · exact keeps_ite (State.testWaits_keeps _ _ (hf _ _ (State.updPart_keeps _ _ _ (State.updDesc_keeps _ _ _ h)))) h

theorem State.bindStart_keeps {k m s0} [Spares m .mem] [Spares m .poison] [Spares m .parts] (s) (r) (h : Keeps k m s0 s) :
    Keeps k m s0 (State.bindStart s r) := by
  unfold State.bindStart; grind -lia -linarith -ring -order [State.updOp_keeps, State.updDesc_keeps, State.wrN_keeps, State.noteBad_keeps, State.updPart_keeps]

theorem execUpdateBind_keeps {k m s0} [Spares m .mem] [Spares m .poison] [Spares m .parts] (r) (s) (h : Keeps k m s0 s) :
    OutKeeps k m s0 (execUpdateBind r s) := by
  unfold execUpdateBind; grind -lia -linarith -ring -order [State.bindStart_keeps, outKeeps_next]

theorem State.bindEnd_keeps {k m s0} [Spares m .parts] (s) (r) (h : Keeps k m s0 s) :
    Keeps k m s0 (State.bindEnd s r) := by
  unfold State.bindEnd; grind -lia -linarith -ring -order [State.updOp_keeps, State.updDesc_keeps, State.updPart_keeps]

theorem execUpdateUnbind_keeps {k m s0} [Spares m .parts] (r) (s) (h : Keeps k m s0 s) :
    OutKeeps k m s0 (execUpdateUnbind r s) := by
  unfold execUpdateUnbind; grind -lia -linarith -ring -order [State.bindEnd_keeps, outKeeps_next]

theorem Run.writeWc_keeps {k m s0} [Spares m .mem] [Spares m .parts] (r) (b) (a) (ms) (h : Keeps k m s0 r.s) :
    Keeps k m s0 (Run.writeWc r b a ms).s := by
  unfold Run.writeWc; grind -lia -linarith -ring -order [keeps_foldS, keeps_foldR, Run.writeBlock_keeps, Run.writeElem_keeps]

theorem Run.writeState_keeps {k m s0} [Spares m .mem] [Spares m .parts] (r) (t) (a) (ws) (h : Keeps k m s0 r.s) :
    Keeps k m s0 (Run.writeState r t a ws).s := by
  unfold Run.writeState; grind -lia -linarith -ring -order [keeps_foldS, keeps_foldR, Run.writeBlock_keeps, Run.wrN_keeps]

theorem Run.writeMaster_keeps {k m s0} [Spares m .mem] (r) (b) (a) (c) (h : Keeps k m s0 r.s) :
    Keeps k m s0 (Run.writeMaster r b a c).s := by
  unfold Run.writeMaster; grind -lia -linarith -ring -order [keeps_foldS, keeps_foldR, Run.wrN_keeps]

theorem Run.updInst_keeps {k m s0}  (r) (b) (c) (op) (i) (h : Keeps k m s0 r.s) :
    Keeps k m s0 (Run.updInst r b c op i).1.s := by
  unfold Run.updInst; grind -lia -linarith -ring -order [Run.raise_keeps]

theorem Run.readStates_keeps {k m s0}  (r) (b) (a) (n) (h : Keeps k m s0 r.s) :
    Keeps k m s0 (Run.readStates r b a n).1.s := by
  unfold Run.readStates; grind -lia -linarith -ring -order [Run.s_keeps, Run.raise_keeps]

theorem Run.updPass_keeps {k m s0} [Spares m .mem] [Spares m .parts] (r) (b) (u) (d) (a) (g) (h : Keeps k m s0 r.s) :
    Keeps k m s0 (Run.updPass r b u d a g).1.s := by
  rw [Run.updPass]
  split
  rename_i mh mr em
  split
  rename_i r0 sts er
  extract_lets c0 c1
  have h0 : Keeps k m s0 r0.s := by
    have q := Run.readStates_keeps r b a g.length h
    rw [er] at q
    exact q
  split
  rename_i rp c2 e2
  have h2 : Keeps k m s0 rp.s := by
    have q : Keeps k m s0 (foldS (fun (w : Run × UCtx) (e : Nat × UInst) => w.1.updInst b w.2 e.1 e.2) (r0, c1)
        (b.prog.filterMap parseUInst)).1.s := by
      apply keeps_foldRP ?_ h0
      intro w e hw
      exact Run.updInst_keeps _ _ _ _ _ hw
    rw [e2] at q
    exact q
  extract_lets r1 r2
  refine Run.writeWc_keeps _ _ _ _ ?_
  refine keeps_foldR (fun w e hw => Run.writeState_keeps _ _ _ _ hw) ?_
  exact Run.writeMaster_keeps _ _ _ _ h2

theorem State.writeLeaves_keeps {k m s0} [Spares m .mem] [Spares m .poison] (s) (b) (a) (n) (h : Keeps k m s0 s) :
    Keeps k m s0 (State.writeLeaves s b a n) := by
  unfold State.writeLeaves; grind -lia -linarith -ring -order [keeps_foldS, keeps_foldR, State.wrBytes_keeps]

theorem Run.updPasses_keeps {k m s0} [Spares m .mem] [Spares m .parts] (r) (b) (u) (d) (a) (words) (h : Keeps k m s0 r.s) :
    Keeps k m s0 (Run.updPasses r b u d a words).1.s := by
  rw [Run.updPasses]
  apply keeps_foldRP ?_ h
  intro w g hw
  exact Run.updPass_keeps _ _ _ _ _ _ hw

theorem State.applyChunk_keeps {k m s0} [Spares m .rec'] [Spares m .mem] [Spares m .poison] [Spares m .upd] [Spares m .parts] [Spares m .fresh] [Spares m .out] (s) (r) (d) (b) (u) (e) (a) (n) (words) (chip) (h : Keeps k m s0 s) :
    Keeps k m s0 (State.applyChunk s r d b u e a n words chip).1 := by
  rw [State.applyChunk]
  split
  · exact h
  have h0 : Keeps k m s0 ({ Run.start s r.part 2 0 [] d with place := (e / 5, e) } : Run).s := h
  exact keeps_iteP (State.writeLeaves_keeps _ _ _ _ (Run.finish_keeps _ _ (Run.writeWc_keeps _ _ _ _ h0)))
    (State.setEngine_keeps _ _ _ (State.writeLeaves_keeps _ _ _ _ (Run.finish_keeps _ _
      (Run.updPasses_keeps _ _ _ _ _ _ h0))))
theorem State.applyChunk_keeps' {k m s0} [Spares m .rec'] [Spares m .mem] [Spares m .poison] [Spares m .upd] [Spares m .parts] [Spares m .fresh] [Spares m .out] {s} {r} {d} {b} {u} {e} {a} {n} {words} {chip} {x t} (eq_ : State.applyChunk s r d b u e a n words chip = (t, x)) (h : Keeps k m s0 s) : Keeps k m s0 t := by
  have g := State.applyChunk_keeps s r d b u e a n words chip h
  rw [eq_] at g; exact g

theorem State.noteChip_keeps {k m s0} [Spares m .parts] (s) (r) (found) (h : Keeps k m s0 s) :
    Keeps k m s0 (State.noteChip s r found) := by
  unfold State.noteChip; grind -lia -linarith -ring -order [State.updDesc_keeps]

theorem State.applyWhole_keeps {k m s0} [Spares m .rec'] [Spares m .mem] [Spares m .poison] [Spares m .upd] [Spares m .parts] [Spares m .fresh] [Spares m .out] (s) (r) (d) (b) (u) (e) (a) (n) (words) (chip) (h : Keeps k m s0 s) :
    Keeps k m s0 (State.applyWhole s r d b u e a n words chip).1 := by
  unfold State.applyWhole; grind -lia -linarith -ring -order [State.applyChunk_keeps]
theorem State.applyWhole_keeps' {k m s0} [Spares m .rec'] [Spares m .mem] [Spares m .poison] [Spares m .upd] [Spares m .parts] [Spares m .fresh] [Spares m .out] {s} {r} {d} {b} {u} {e} {a} {n} {words} {chip} {x t} (eq_ : State.applyWhole s r d b u e a n words chip = (t, x)) (h : Keeps k m s0 s) : Keeps k m s0 t := by
  have g := State.applyWhole_keeps s r d b u e a n words chip h
  rw [eq_] at g; exact g

theorem State.updateChunk_keeps {k m s0} [Spares m .rec'] [Spares m .mem] [Spares m .poison] [Spares m .macs] [Spares m .chans] [Spares m .upd] [Spares m .parts] [Spares m .fresh] [Spares m .out] (s) (r) (k_) (chip) (h : Keeps k m s0 s) :
    Keeps k m s0 (State.updateChunk s r k_ chip) := by
  rw [State.updateChunk]
  split
  · exact h
  split
  · exact h
  split
  · refine keeps_ite h ?_
    exact State.collSettle_keeps _ _ (State.updDesc_keeps _ _ _ (State.noteBad_keeps _ _ _ (State.applyWhole_keeps _ _ _ _ _ _ _ _ _ _ h)))
  · exact h

theorem execUpdateChunk_keeps {k m s0} [Spares m .rec'] [Spares m .memc] [Spares m .mem] [Spares m .poison] [Spares m .macs] [Spares m .chans] [Spares m .chipFixed] [Spares m .upd] [Spares m .parts] [Spares m .fresh] [Spares m .out] (r) (c) (s) (h : Keeps k m s0 s) :
    OutKeeps k m s0 (execUpdateChunk r c s) := by
  unfold execUpdateChunk; grind -lia -linarith -ring -order [State.updateChunk_keeps, State.noteChip_keeps, State.finds_keeps, outKeeps_next]

theorem State.regenChunks_keeps {k m s0} [Spares m .rec'] [Spares m .mem] [Spares m .poison] [Spares m .upd] [Spares m .parts] [Spares m .fresh] [Spares m .out] (s) (r) (d) (b) (chip) (h : Keeps k m s0 s) :
    Keeps k m s0 (State.regenChunks s r d b chip).1 := by
  rw [State.regenChunks]
  split
  rename_i at_ s1 e1
  have h1 : Keeps k m s0 s1 := by
    split at e1
    · exact State.freeBelow_keeps' e1 h
    · cases e1; exact h
  apply keeps_foldP ?_ h1
  intro w a hw
  exact State.applyChunk_keeps _ _ _ _ _ _ _ _ _ _ hw
theorem State.regenChunks_keeps' {k m s0} [Spares m .rec'] [Spares m .mem] [Spares m .poison] [Spares m .upd] [Spares m .parts] [Spares m .fresh] [Spares m .out] {s} {r} {d} {b} {chip} {x t} (eq_ : State.regenChunks s r d b chip = (t, x)) (h : Keeps k m s0 s) : Keeps k m s0 t := by
  have g := State.regenChunks_keeps s r d b chip h
  rw [eq_] at g; exact g

theorem State.regenEnd_keeps {k m s0} [Spares m .mem] [Spares m .poison] [Spares m .parts] (s) (r) (d) (b) (bad) (h : Keeps k m s0 s) :
    Keeps k m s0 (State.regenEnd s r d b bad) := by
  unfold State.regenEnd; grind -lia -linarith -ring -order [State.updDesc_keeps, State.wrN_keeps, State.closeTree_keeps, State.noteBad_keeps]

theorem State.regenerate_keeps {k m s0} [Spares m .rec'] [Spares m .mem] [Spares m .poison] [Spares m .upd] [Spares m .parts] [Spares m .fresh] [Spares m .out] (s) (r) (chip) (h : Keeps k m s0 s) :
    Keeps k m s0 (State.regenerate s r chip) := by
  rw [State.regenerate]
  refine State.updOp_keeps _ _ _ _ (fun t d ht => ?_) h
  split
  · exact State.updDesc_keeps _ _ _ ht
  · exact State.regenEnd_keeps _ _ _ _ _ (State.regenChunks_keeps _ _ _ _ _ ht)

theorem execRegenerate_keeps {k m s0} [Spares m .rec'] [Spares m .memc] [Spares m .mem] [Spares m .poison] [Spares m .chipFixed] [Spares m .upd] [Spares m .parts] [Spares m .fresh] [Spares m .out] (r) (s) (h : Keeps k m s0 s) :
    OutKeeps k m s0 (execRegenerate r s) := by
  unfold execRegenerate; grind -lia -linarith -ring -order [State.regenerate_keeps, State.noteChip_keeps, State.finds_keeps, outKeeps_next]

theorem State.annealCompute_keeps {k m s0} [Spares m .mem] [Spares m .poison] [Spares m .parts] [Spares m .fresh] (s) (r) (h : Keeps k m s0 s) :
    Keeps k m s0 (State.annealCompute s r) := by
  unfold State.annealCompute
  repeat' first
    | with_reducible assumption
    | with_reducible apply State.updOp_keeps
    | with_reducible apply State.updDesc_keeps
    | with_reducible apply State.freeBelow_keeps
    | with_reducible apply State.wrBytes_keeps
    | with_reducible apply State.noteBad_keeps
    | with_reducible apply keeps_foldS
    | with_reducible apply State.setPoison_keeps
    | with_reducible apply State.lateWrites_keeps
    | exact State.freeBelow_keeps' ‹_› ‹_›
    | refine State.freeBelow_keeps' ‹_› ?_
    | intro _
    | split
    | dsimp only

theorem execCompute_keeps {k m s0} [Spares m .rec'] [Spares m .memc] [Spares m .mem] [Spares m .poison] [Spares m .chipFixed] [Spares m .parts] [Spares m .fresh] [Spares m .out] (r) (s) (h : Keeps k m s0 s) :
    OutKeeps k m s0 (execCompute r s) := by
  unfold execCompute; grind -lia -linarith -ring -order [State.annealCompute_keeps, State.finds_keeps, outKeeps_next]

theorem State.annealCompare_keeps {k m s0} [Spares m .rec'] [Spares m .mem] [Spares m .poison] [Spares m .parts] [Spares m .out] (s) (r) (h : Keeps k m s0 s) :
    Keeps k m s0 (State.annealCompare s r) := by
  unfold State.annealCompare
  repeat' first
    | with_reducible assumption
    | with_reducible apply State.updOp_keeps
    | with_reducible apply State.updDesc_keeps
    | with_reducible apply State.exception_keeps
    | with_reducible apply State.markExc_keeps
    | with_reducible apply State.divergeHalt_keeps
    | exact State.exception_keeps' ‹_› ‹_›
    | refine State.exception_keeps' ‹_› ?_
    | intro _
    | split
    | dsimp only

theorem execCompare_keeps {k m s0} [Spares m .rec'] [Spares m .memc] [Spares m .mem] [Spares m .poison] [Spares m .chipFixed] [Spares m .parts] [Spares m .fresh] [Spares m .out] (r) (s) (h : Keeps k m s0 s) :
    OutKeeps k m s0 (execCompare r s) := by
  unfold execCompare; grind -lia -linarith -ring -order [State.annealCompare_keeps, State.finds_keeps, outKeeps_next]

theorem State.saveHeader_keeps {k m s0} [Spares m .mem] [Spares m .poison] [Spares m .parts] (s) (r) (b) (area) (states) (h : Keeps k m s0 s) :
    Keeps k m s0 (State.saveHeader s r b area states) := by
  unfold State.saveHeader; grind -lia -linarith -ring -order [State.wrBytes_keeps, State.noteBad_keeps, State.setPoison_keeps]

theorem State.savePlane_keeps {k m s0} [Spares m .mem] [Spares m .poison] [Spares m .parts] (s) (r) (area) (e) (h : Keeps k m s0 s) :
    Keeps k m s0 (State.savePlane s r area e) := by
  unfold State.savePlane; grind -lia -linarith -ring -order [State.moveBytes_keeps, State.wrBytes_keeps, State.noteBad_keeps]

theorem State.loadPlane_keeps {k m s0} [Spares m .mem] [Spares m .poison] [Spares m .parts] (s) (r) (area) (e) (h : Keeps k m s0 s) :
    Keeps k m s0 (State.loadPlane s r area e) := by
  unfold State.loadPlane; grind -lia -linarith -ring -order [State.moveBytes_keeps, State.noteBad_keeps]

theorem State.saveTrailer_keeps {k m s0} [Spares m .mem] [Spares m .poison] (s) (area) (n) (h : Keeps k m s0 s) :
    Keeps k m s0 (State.saveTrailer s area n) := by
  unfold State.saveTrailer; grind -lia -linarith -ring -order [State.wrBytes_keeps]

theorem State.checkpointSave_keeps {k m s0} [Spares m .mem] [Spares m .poison] [Spares m .parts] [Spares m .fresh] (s) (r) (h : Keeps k m s0 s) :
    Keeps k m s0 (State.checkpointSave s r) := by
  unfold State.checkpointSave
  repeat' first
    | with_reducible assumption
    | with_reducible apply State.updOp_keeps
    | with_reducible apply State.updDesc_keeps
    | with_reducible apply keeps_foldS
    | with_reducible apply State.lateWrites_keeps
    | with_reducible apply State.saveTrailer_keeps
    | with_reducible apply State.saveHeader_keeps
    | with_reducible apply State.savePlane_keeps
    | intro _
    | split
    | dsimp only

theorem execSave_keeps {k m s0} [Spares m .rec'] [Spares m .memc] [Spares m .mem] [Spares m .poison] [Spares m .chipFixed] [Spares m .parts] [Spares m .fresh] [Spares m .out] (r) (s) (h : Keeps k m s0 s) :
    OutKeeps k m s0 (execSave r s) := by
  unfold execSave; grind -lia -linarith -ring -order [State.checkpointSave_keeps, State.finds_keeps, outKeeps_next]

theorem State.checkpointLoad_keeps {k m s0} [Spares m .rec'] [Spares m .mem] [Spares m .poison] [Spares m .parts] [Spares m .fresh] [Spares m .out] (s) (r) (h : Keeps k m s0 s) :
    Keeps k m s0 (State.checkpointLoad s r) := by
  unfold State.checkpointLoad
  repeat' first
    | with_reducible assumption
    | with_reducible apply State.updOp_keeps
    | with_reducible apply State.updDesc_keeps
    | with_reducible apply keeps_foldS
    | with_reducible apply State.lateWrites_keeps
    | with_reducible apply State.exception_keeps
    | with_reducible apply State.markExc_keeps
    | with_reducible apply State.noteBad_keeps
    | with_reducible apply State.wrN_keeps
    | with_reducible apply State.loadPlane_keeps
    | exact State.exception_keeps' ‹_› ‹_›
    | refine State.exception_keeps' ‹_› ?_
    | intro _
    | split
    | dsimp only

theorem execLoad_keeps {k m s0} [Spares m .rec'] [Spares m .memc] [Spares m .mem] [Spares m .poison] [Spares m .chipFixed] [Spares m .parts] [Spares m .fresh] [Spares m .out] (r) (s) (h : Keeps k m s0 s) :
    OutKeeps k m s0 (execLoad r s) := by
  unfold execLoad; grind -lia -linarith -ring -order [State.checkpointLoad_keeps, State.finds_keeps, outKeeps_next]

end Sys2Proof.Machine
end

