-- ==== Sys2Proof/Laws/KeepsLife.lean ====
section
/-!
SUPPORT. That each function of Machine/Life.lean keeps what a command keeps (`Keeps`, `OutKeeps`).
-/

namespace Sys2Proof.Machine

theorem State.lostEntry_keeps {k m s0} [Spares m .rec'] [Spares m .mem] [Spares m .poison] [Spares m .acc] [Spares m .accGen] [Spares m .res] [Spares m .vec] [Spares m .upd] [Spares m .parts] [Spares m .fresh] [Spares m .out] (s) (p) (ring) (sectors) (h : Keeps k m s0 s) :
    Keeps k m s0 (State.lostEntry s p ring sectors) := by
  unfold State.lostEntry; grind -lia -linarith -ring -order [State.setPart_keeps, State.complete_keeps]

theorem State.fetch_keeps {k m s0} [Spares m .rec'] [Spares m .memc] [Spares m .mem] [Spares m .poison] [Spares m .acc] [Spares m .accGen] [Spares m .res] [Spares m .chipFixed] [Spares m .vec] [Spares m .upd] [Spares m .parts] [Spares m .served] [Spares m .fresh] [Spares m .out] (s1) (p) (ring) (found) (h : Keeps k m s0 s1) :
    Keeps k m s0 (State.fetch s1 p ring found) := by
  unfold State.fetch; grind -lia -linarith -ring -order [State.findAll_keeps, keeps_mk_served, State.lostEntry_keeps, State.setPart_keeps, State.complete_keeps]

theorem execDescriptorFetch_keeps {k m s0} [Spares m .rec'] [Spares m .memc] [Spares m .mem] [Spares m .poison] [Spares m .acc] [Spares m .accGen] [Spares m .res] [Spares m .chipFixed] [Spares m .vec] [Spares m .upd] [Spares m .parts] [Spares m .served] [Spares m .fresh] [Spares m .out] (part) (ring) (s) (h : Keeps k m s0 s) :
    OutKeeps k m s0 (execDescriptorFetch part ring s) := by
  unfold execDescriptorFetch; grind -lia -linarith -ring -order [State.fetch_keeps, outKeeps_next]

theorem State.admitDesc_keeps {k m s0} [Spares m .rec'] [Spares m .memc] [Spares m .mem] [Spares m .poison] [Spares m .chipFixed] [Spares m .parts] [Spares m .fresh] [Spares m .out] (s0_) (r) (found) (h : Keeps k m s0 s0_) :
    Keeps k m s0 (State.admitDesc s0_ r found) := by
  unfold State.admitDesc; grind -lia -linarith -ring -order [State.foundBy_keeps, State.updDesc_keeps, State.latchSentry_keeps, State.updPart_keeps, convZero_keeps, State.findAll_keeps]

theorem execDescriptorAdmit_keeps {k m s0} [Spares m .rec'] [Spares m .memc] [Spares m .mem] [Spares m .poison] [Spares m .chipFixed] [Spares m .parts] [Spares m .fresh] [Spares m .out] (r) (s) (h : Keeps k m s0 s) :
    OutKeeps k m s0 (execDescriptorAdmit r s) := by
  unfold execDescriptorAdmit; grind -lia -linarith -ring -order [State.admitDesc_keeps, outKeeps_next]

theorem State.sliceIssue_keeps {k m s0} [Spares m .now] [Spares m .rec'] [Spares m .memc] [Spares m .mem] [Spares m .poison] [Spares m .chipFixed] [Spares m .parts] [Spares m .fresh] [Spares m .out] (s0_) (r) (t) (found) (h : Keeps k m s0 s0_) :
    Keeps k m s0 (State.sliceIssue s0_ r t found) := by
  unfold State.sliceIssue; grind -lia -linarith -ring -order [State.foundBy_keeps, State.advance_keeps, State.updDesc_keeps, State.sizeSlice_keeps, State.findAll_keeps]

theorem execSliceIssue_keeps {k m s0} [Spares m .now] [Spares m .rec'] [Spares m .memc] [Spares m .mem] [Spares m .poison] [Spares m .chipFixed] [Spares m .parts] [Spares m .fresh] [Spares m .out] (r) (t) (s) (h : Keeps k m s0 s) :
    OutKeeps k m s0 (execSliceIssue r t s) := by
  unfold execSliceIssue; grind -lia -linarith -ring -order [State.sliceIssue_keeps, outKeeps_next]

theorem State.closeSlice_keeps {k m s0} [Spares m .parts] (s) (r) (d) (sl) (t) (stall) (h : Keeps k m s0 s) :
    Keeps k m s0 (State.closeSlice s r d sl t stall) := by
  unfold State.closeSlice; grind -lia -linarith -ring -order [State.updPart_keeps, State.updDesc_keeps]

theorem State.endOp_keeps {k m s0} [Spares m .rec'] [Spares m .mem] [Spares m .poison] [Spares m .parts] [Spares m .fresh] [Spares m .out] (s) (r) (h : Keeps k m s0 s) :
    Keeps k m s0 (State.endOp s r) := by
  unfold State.endOp; grind -lia -linarith -ring -order [State.endDecode_keeps, State.resumeBack_keeps, State.updDesc_keeps]

theorem State.settleSliced_keeps {k m s0} [Spares m .rec'] [Spares m .mem] [Spares m .poison] [Spares m .parts] [Spares m .fresh] [Spares m .out] (s) (r) (h : Keeps k m s0 s) :
    Keeps k m s0 (State.settleSliced s r) := by
  unfold State.settleSliced; grind -lia -linarith -ring -order [State.updDesc_keeps, State.endOp_keeps]

theorem State.sliceEnd_keeps {k m s0} [Spares m .now] [Spares m .rec'] [Spares m .mem] [Spares m .poison] [Spares m .parts] [Spares m .fresh] [Spares m .out] (s0_) (r) (t) (stall) (h : Keeps k m s0 s0_) :
    Keeps k m s0 (State.sliceEnd s0_ r t stall) := by
  unfold State.sliceEnd; grind -lia -linarith -ring -order [State.advance_keeps, State.closeSlice_keeps, State.settleSwaps_keeps, State.testWaits_keeps, State.settleSliced_keeps]

theorem execSliceEnd_keeps {k m s0} [Spares m .now] [Spares m .rec'] [Spares m .mem] [Spares m .poison] [Spares m .parts] [Spares m .fresh] [Spares m .out] (r) (t) (stall) (s) (h : Keeps k m s0 s) :
    OutKeeps k m s0 (execSliceEnd r t stall s) := by
  unfold execSliceEnd; grind -lia -linarith -ring -order [State.sliceEnd_keeps, outKeeps_next]

theorem State.descriptorComplete_keeps {k m s0} [Spares m .rec'] [Spares m .mem] [Spares m .poison] [Spares m .acc] [Spares m .accGen] [Spares m .res] [Spares m .vec] [Spares m .upd] [Spares m .parts] [Spares m .fresh] [Spares m .out] (s) (r) (h : Keeps k m s0 s) :
    Keeps k m s0 (State.descriptorComplete s r) := by
  unfold State.descriptorComplete; grind -lia -linarith -ring -order [State.complete_keeps, State.unreached_keeps]

theorem execDescriptorComplete_keeps {k m s0} [Spares m .rec'] [Spares m .mem] [Spares m .poison] [Spares m .acc] [Spares m .accGen] [Spares m .res] [Spares m .vec] [Spares m .upd] [Spares m .parts] [Spares m .fresh] [Spares m .out] (r) (s) (h : Keeps k m s0 s) :
    OutKeeps k m s0 (execDescriptorComplete r s) := by
  unfold execDescriptorComplete; grind -lia -linarith -ring -order [State.descriptorComplete_keeps, outKeeps_next]

theorem State.writeEntry_keeps {k m s0} [Spares m .rec'] [Spares m .mem] [Spares m .poison] [Spares m .acc] [Spares m .accGen] [Spares m .res] [Spares m .vec] [Spares m .upd] [Spares m .atts] [Spares m .parts] [Spares m .fresh] [Spares m .out] (s) (p) (cq) (h : Keeps k m s0 s) :
    Keeps k m s0 (State.writeEntry s p cq) := by
  unfold State.writeEntry; grind -lia -linarith -ring -order [State.setPart_keeps, State.wrBytes_keeps, State.hostWr_keeps, State.signal_keeps, State.testWaits_keeps, State.settleHold_keeps]

theorem execCompletionEntryWrite_keeps {k m s0} [Spares m .rec'] [Spares m .memc] [Spares m .mem] [Spares m .poison] [Spares m .acc] [Spares m .accGen] [Spares m .res] [Spares m .chipFixed] [Spares m .vec] [Spares m .upd] [Spares m .atts] [Spares m .parts] [Spares m .fresh] [Spares m .out] (part) (cq) (s) (h : Keeps k m s0 s) :
    OutKeeps k m s0 (execCompletionEntryWrite part cq s) := by
  unfold execCompletionEntryWrite; grind -lia -linarith -ring -order [State.writeEntry_keeps, State.findAll_keeps, outKeeps_next]

end Sys2Proof.Machine
end

