-- ==== Sys2Proof/Laws/KeepsBell.lean ====
section
/-!
SUPPORT. That each function of Machine/Bell.lean keeps what a command keeps (`Keeps`, `OutKeeps`).
-/

namespace Sys2Proof.Machine

theorem State.updMirror_keeps {k m s0} [Spares m .parts] (s) (p) (f) (h : Keeps k m s0 s) :
    Keeps k m s0 (State.updMirror s p f) := by
  unfold State.updMirror; grind -lia -linarith -ring -order [State.updPart_keeps]

theorem State.reject_keeps {k m s0} [Spares m .parts] (s) (p) (h : Keeps k m s0 s) :
    Keeps k m s0 (State.reject s p) := by
  unfold State.reject; grind -lia -linarith -ring -order [State.updMirror_keeps]

theorem State.bell_keeps {k m s0} [Spares m .parts] (s : State) (hp : Port) (f : State → Nat → State)
    (hf : ∀ t p, Keeps k m s0 t → Keeps k m s0 (f t p)) (h : Keeps k m s0 s) : Keeps k m s0 (s.bell hp f) := by
  unfold State.bell
  split
  · exact h
  · exact keeps_ite (State.reject_keeps _ _ h) (keeps_ite h (hf _ _ h))

theorem State.sqProducer_keeps {k m s0} [Spares m .parts] (s) (p) (ring) (v) (h : Keeps k m s0 s) :
    Keeps k m s0 (State.sqProducer s p ring v) := by
  unfold State.sqProducer; grind -lia -linarith -ring -order [State.setPart_keeps, State.reject_keeps]

theorem execSqProducer_keeps {k m s0} [Spares m .atts] [Spares m .parts] (h_) (ring) (v) (s) (h : Keeps k m s0 s) :
    OutKeeps k m s0 (execSqProducer h_ ring v s) := by
  unfold execSqProducer; grind -lia -linarith -ring -order [State.bell_keeps, State.hostStore_keeps, State.sqProducer_keeps, outKeeps_next]

theorem State.cqConsumer_keeps {k m s0} [Spares m .parts] (s) (p) (m_) (v) (h : Keeps k m s0 s) :
    Keeps k m s0 (State.cqConsumer s p m_ v) := by
  unfold State.cqConsumer; grind -lia -linarith -ring -order [State.setPart_keeps, State.reject_keeps]

theorem execCqConsumer_keeps {k m s0} [Spares m .parts] (h_) (ring) (v) (s) (h : Keeps k m s0 s) :
    OutKeeps k m s0 (execCqConsumer h_ ring v s) := by
  unfold execCqConsumer; grind -lia -linarith -ring -order [State.bell_keeps, State.cqConsumer_keeps, outKeeps_next]

theorem State.refuse_keeps {k m s0} [Spares m .parts] (s) (p) (h : Keeps k m s0 s) :
    Keeps k m s0 (State.refuse s p) := by
  unfold State.refuse; grind -lia -linarith -ring -order [State.updMirror_keeps]

theorem State.reloadSub_keeps {k m s0} [Spares m .parts] (s) (p) (n) (h : Keeps k m s0 s) :
    Keeps k m s0 (State.reloadSub s p n) := by
  unfold State.reloadSub; grind -lia -linarith -ring -order [State.refuse_keeps, State.release_keeps, State.ringStop_keeps, State.setPart_keeps]

theorem State.reloadCom_keeps {k m s0} [Spares m .parts] (s) (p) (m_) (h : Keeps k m s0 s) :
    Keeps k m s0 (State.reloadCom s p m_) := by
  unfold State.reloadCom; grind -lia -linarith -ring -order [State.refuse_keeps, State.setPart_keeps]

theorem State.ringCtl_keeps {k m s0} [Spares m .parts] (s) (p) (v) (h : Keeps k m s0 s) :
    Keeps k m s0 (State.ringCtl s p v) := by
  unfold State.ringCtl; grind -lia -linarith -ring -order [State.reject_keeps, State.reloadCom_keeps, State.reloadSub_keeps]

theorem execRingCtlSubmission_keeps {k m s0} [Spares m .rec'] [Spares m .memc] [Spares m .mem] [Spares m .poison] [Spares m .chipFixed] [Spares m .parts] [Spares m .fresh] [Spares m .out] (h_) (v) (s) (h : Keeps k m s0 s) :
    OutKeeps k m s0 (execRingCtlSubmission h_ v s) := by
  unfold execRingCtlSubmission; grind -lia -linarith -ring -order [State.bell_keeps, State.ringCtl_keeps, State.findAll_keeps, outKeeps_next]

theorem execRingCtlCompletion_keeps {k m s0} [Spares m .rec'] [Spares m .memc] [Spares m .mem] [Spares m .poison] [Spares m .chipFixed] [Spares m .parts] [Spares m .fresh] [Spares m .out] (h_) (v) (s) (h : Keeps k m s0 s) :
    OutKeeps k m s0 (execRingCtlCompletion h_ v s) := by
  unfold execRingCtlCompletion; grind -lia -linarith -ring -order [State.bell_keeps, State.ringCtl_keeps, State.findAll_keeps, outKeeps_next]

theorem State.endHold_keeps {k m s0} [Spares m .rec'] [Spares m .mem] [Spares m .poison] [Spares m .acc] [Spares m .accGen] [Spares m .res] [Spares m .vec] [Spares m .upd] [Spares m .parts] [Spares m .fresh] [Spares m .out] (s) (p) (how) (g) (h : Keeps k m s0 s) :
    Keeps k m s0 (State.endHold s p how g) := by
  unfold State.endHold; grind -lia -linarith -ring -order [State.settleHold_keeps, State.releaseAll_keeps, State.updPart_keeps]

theorem State.resumeBell_keeps {k m s0} [Spares m .rec'] [Spares m .mem] [Spares m .poison] [Spares m .acc] [Spares m .accGen] [Spares m .res] [Spares m .vec] [Spares m .upd] [Spares m .parts] [Spares m .fresh] [Spares m .out] (s) (p) (v) (h : Keeps k m s0 s) :
    Keeps k m s0 (State.resumeBell s p v) := by
  unfold State.resumeBell; grind -lia -linarith -ring -order [State.reject_keeps, State.takeGroup_keeps, State.endHold_keeps]

theorem execResume_keeps {k m s0} [Spares m .rec'] [Spares m .mem] [Spares m .poison] [Spares m .acc] [Spares m .accGen] [Spares m .res] [Spares m .vec] [Spares m .upd] [Spares m .parts] [Spares m .fresh] [Spares m .out] (h_) (v) (s) (h : Keeps k m s0 s) :
    OutKeeps k m s0 (execResume h_ v s) := by
  unfold execResume; grind -lia -linarith -ring -order [State.bell_keeps, State.resumeBell_keeps, outKeeps_next]

theorem State.markCancel_keeps {k m s0} [Spares m .parts] (held) (g) (s) (r) (h : Keeps k m s0 s) :
    Keeps k m s0 (State.markCancel held g s r) := by
  unfold State.markCancel; grind -lia -linarith -ring -order [State.updDesc_keeps]

theorem State.actCancel_keeps {k m s0} [Spares m .rec'] [Spares m .mem] [Spares m .poison] [Spares m .macs] [Spares m .chans] [Spares m .acc] [Spares m .accGen] [Spares m .res] [Spares m .vec] [Spares m .upd] [Spares m .parts] [Spares m .fresh] [Spares m .out] (s) (r) (h : Keeps k m s0 s) :
    Keeps k m s0 (State.actCancel s r) := by
  unfold State.actCancel; grind -lia -linarith -ring -order [State.complete_keeps, State.unreached_keeps, State.updDesc_keeps, State.abandon_keeps, State.collSettle_keeps, State.settleSliced_keeps]

theorem State.cancelAll_keeps {k m s0} [Spares m .rec'] [Spares m .mem] [Spares m .poison] [Spares m .macs] [Spares m .chans] [Spares m .acc] [Spares m .accGen] [Spares m .res] [Spares m .vec] [Spares m .upd] [Spares m .parts] [Spares m .fresh] [Spares m .out] (s) (held) (g) (l) (h : Keeps k m s0 s) :
    Keeps k m s0 (State.cancelAll s held g l) := by
  unfold State.cancelAll; grind -lia -linarith -ring -order [keeps_foldS, State.actCancel_keeps, State.markCancel_keeps]

theorem State.cancelRing_keeps {k m s0} [Spares m .rec'] [Spares m .mem] [Spares m .poison] [Spares m .macs] [Spares m .chans] [Spares m .acc] [Spares m .accGen] [Spares m .res] [Spares m .vec] [Spares m .upd] [Spares m .parts] [Spares m .fresh] [Spares m .out] (s) (p) (ring) (h : Keeps k m s0 s) :
    Keeps k m s0 (State.cancelRing s p ring) := by
  unfold State.cancelRing; grind -lia -linarith -ring -order [State.takeGroup_keeps, State.setPart_keeps, State.cancelAll_keeps]

theorem State.cancelPart_keeps {k m s0} [Spares m .rec'] [Spares m .mem] [Spares m .poison] [Spares m .macs] [Spares m .chans] [Spares m .acc] [Spares m .accGen] [Spares m .res] [Spares m .vec] [Spares m .upd] [Spares m .parts] [Spares m .fresh] [Spares m .out] (s) (p) (h : Keeps k m s0 s) :
    Keeps k m s0 (State.cancelPart s p) := by
  unfold State.cancelPart
  repeat' first
    | with_reducible assumption
    | with_reducible apply State.takeGroup_keeps
    | with_reducible apply State.setPart_keeps
    | with_reducible apply keeps_foldS
    | with_reducible apply State.updPart_keeps
    | with_reducible apply State.cancelAll_keeps
    | with_reducible apply State.settleHold_keeps
    | with_reducible apply State.releaseAll_keeps
    | exact State.takeGroup_keeps' ‹_› ‹_›
    | refine State.takeGroup_keeps' ‹_› ?_
    | intro _
    | split
    | dsimp only

theorem State.cancelBell_keeps {k m s0} [Spares m .rec'] [Spares m .mem] [Spares m .poison] [Spares m .macs] [Spares m .chans] [Spares m .acc] [Spares m .accGen] [Spares m .res] [Spares m .vec] [Spares m .upd] [Spares m .parts] [Spares m .fresh] [Spares m .out] (s) (p) (v) (h : Keeps k m s0 s) :
    Keeps k m s0 (State.cancelBell s p v) := by
  unfold State.cancelBell; grind -lia -linarith -ring -order [State.reject_keeps, State.cancelPart_keeps, State.cancelRing_keeps, State.takeGroup_keeps, State.cancelAll_keeps, State.updPart_keeps, State.setPart_keeps]

theorem execCancelTag_keeps {k m s0} [Spares m .rec'] [Spares m .mem] [Spares m .poison] [Spares m .macs] [Spares m .chans] [Spares m .acc] [Spares m .accGen] [Spares m .res] [Spares m .vec] [Spares m .upd] [Spares m .parts] [Spares m .fresh] [Spares m .out] (h_) (v) (s) (h : Keeps k m s0 s) :
    OutKeeps k m s0 (execCancelTag h_ v s) := by
  unfold execCancelTag; grind -lia -linarith -ring -order [State.bell_keeps, State.cancelBell_keeps, outKeeps_next]

theorem execCancelFromTag_keeps {k m s0} [Spares m .rec'] [Spares m .mem] [Spares m .poison] [Spares m .macs] [Spares m .chans] [Spares m .acc] [Spares m .accGen] [Spares m .res] [Spares m .vec] [Spares m .upd] [Spares m .parts] [Spares m .fresh] [Spares m .out] (h_) (v) (s) (h : Keeps k m s0 s) :
    OutKeeps k m s0 (execCancelFromTag h_ v s) := by
  unfold execCancelFromTag; grind -lia -linarith -ring -order [State.bell_keeps, State.cancelBell_keeps, outKeeps_next]

theorem execCancelRing_keeps {k m s0} [Spares m .rec'] [Spares m .mem] [Spares m .poison] [Spares m .macs] [Spares m .chans] [Spares m .acc] [Spares m .accGen] [Spares m .res] [Spares m .vec] [Spares m .upd] [Spares m .parts] [Spares m .fresh] [Spares m .out] (h_) (v) (s) (h : Keeps k m s0 s) :
    OutKeeps k m s0 (execCancelRing h_ v s) := by
  unfold execCancelRing; grind -lia -linarith -ring -order [State.bell_keeps, State.cancelBell_keeps, outKeeps_next]

theorem execCancelPartition_keeps {k m s0} [Spares m .rec'] [Spares m .mem] [Spares m .poison] [Spares m .macs] [Spares m .chans] [Spares m .acc] [Spares m .accGen] [Spares m .res] [Spares m .vec] [Spares m .upd] [Spares m .parts] [Spares m .fresh] [Spares m .out] (h_) (v) (s) (h : Keeps k m s0 s) :
    OutKeeps k m s0 (execCancelPartition h_ v s) := by
  unfold execCancelPartition; grind -lia -linarith -ring -order [State.bell_keeps, State.cancelBell_keeps, outKeeps_next]

theorem execDoorbellReservedSlot_keeps {k m s0} [Spares m .parts] (h_) (offset) (whole) (s) (h : Keeps k m s0 s) :
    OutKeeps k m s0 (execDoorbellReservedSlot h_ offset whole s) := by
  unfold execDoorbellReservedSlot; grind -lia -linarith -ring -order [State.bell_keeps, State.reject_keeps, outKeeps_next]

end Sys2Proof.Machine
end

