-- ==== Sys2Proof/Laws/KeepsHbm.lean ====
section
/-!
SUPPORT. That each function of Machine/Hbm.lean keeps what a command keeps (`Keeps`, `OutKeeps`).
-/

namespace Sys2Proof.Machine

theorem State.reportAer_keeps {k m s0} [Spares m .atts] [Spares m .out] (s) (att) (h : Keeps k m s0 s) :
    Keeps k m s0 (State.reportAer s att) := by
  rw [State.reportAer]
  exact keeps_ite h (keeps_foldS (fun t a ht => State.emit_keeps _ _ ht)
    (State.setAtt_keeps _ _ _ h fun hs => State.att_wf hs att))

theorem State.packageHalt_keeps {k m s0} [Spares m .tick] [Spares m .atts] [Spares m .halted] [Spares m .out] (s) (h : Keeps k m s0 s) :
    Keeps k m s0 (State.packageHalt s) := by
  rw [State.packageHalt]
  refine keeps_ite h (keeps_foldS (fun t a ht => State.reportAer_keeps _ _ ht) ?_)
  exact ⟨fun f hf => by cases f <;> first | exact h.same _ hf | exact Spares.elim hf, h.queue, h.fuse, h.svn, h.mem, h.poison, h.host, h.out, h.fresh, fun _ _ => rfl⟩

theorem execPatrolScrub_keeps {k m s0} [Spares m .rec'] [Spares m .memc] [Spares m .mem] [Spares m .poison] [Spares m .parts] [Spares m .fresh] [Spares m .out] (addr) (ecc) (s) (h : Keeps k m s0 s) :
    OutKeeps k m s0 (execPatrolScrub addr ecc s) := by
  unfold execPatrolScrub; grind -lia -linarith -ring -order [State.readSector_keeps, outKeeps_next]

theorem State.repairLane_keeps {k m s0} [Spares m .rec'] [Spares m .memc] (s) (k_) (h : Keeps k m s0 s) :
    Keeps k m s0 (State.repairLane s k_) := by
  unfold State.repairLane; grind -lia -linarith -ring -order [keeps_mk_memc, State.retirePending_keeps]

theorem State.laneBoundary_keeps {k m s0} [Spares m .rec'] [Spares m .memc] (s) (h : Keeps k m s0 s) :
    Keeps k m s0 (State.laneBoundary s) := by
  unfold State.laneBoundary; grind -lia -linarith -ring -order [keeps_foldS, State.repairLane_keeps, keeps_mk_memc]

theorem State.nextErasure_keeps {k m s0} [Spares m .memc] (s) (k_) (h : Keeps k m s0 s) :
    Keeps k m s0 (State.nextErasure s k_) := by
  unfold State.nextErasure; grind -lia -linarith -ring -order [State.updLane_keeps]

theorem State.laneMoved_keeps {k m s0} [Spares m .memc] (s) (st) (ch) (k_) (h : Keeps k m s0 s) :
    Keeps k m s0 (State.laneMoved s st ch k_) := by
  unfold State.laneMoved; grind -lia -linarith -ring -order [keeps_mk_memc, State.nextErasure_keeps, State.updStack_keeps]

theorem State.repairEnd_keeps {k m s0} [Spares m .memc] (s) (st) (ch) (h : Keeps k m s0 s) :
    Keeps k m s0 (State.repairEnd s st ch) := by
  unfold State.repairEnd; grind -lia -linarith -ring -order [keeps_foldS, State.laneMoved_keeps, keeps_mk_memc, State.nextErasure_keeps, State.updStack_keeps]

theorem execLaneRepairEnd_keeps {k m s0} [Spares m .memc] (stack) (ch) (s) (h : Keeps k m s0 s) :
    OutKeeps k m s0 (execLaneRepairEnd stack ch s) := by
  unfold execLaneRepairEnd; grind -lia -linarith -ring -order [State.repairEnd_keeps, outKeeps_next]

theorem State.refreshBoundary_keeps {k m s0} [Spares m .memc] (s) (h : Keeps k m s0 s) :
    Keeps k m s0 (State.refreshBoundary s) := by
  unfold State.refreshBoundary; grind -lia -linarith -ring -order [keeps_mk_memc]

theorem State.shutStack_keeps {k m s0} [Spares m .tick] [Spares m .rec'] [Spares m .pins] [Spares m .memc] [Spares m .atts] [Spares m .halted] [Spares m .out] (s) (st) (temp) (h : Keeps k m s0 s) :
    Keeps k m s0 (State.shutStack s st temp) := by
  unfold State.shutStack; grind -lia -linarith -ring -order [State.updStack_keeps, keeps_mk_pins_memc, State.packageHalt_keeps, State.record_keeps]

theorem State.stackTemp_keeps {k m s0} [Spares m .tick] [Spares m .rec'] [Spares m .pwr] [Spares m .pins] [Spares m .memc] [Spares m .atts] [Spares m .halted] [Spares m .out] (s) (st) (temp) (h : Keeps k m s0 s) :
    Keeps k m s0 (State.stackTemp s st temp) := by
  unfold State.stackTemp; grind -lia -linarith -ring -order [State.updStack_keeps, keeps_mk_pwr, State.shutStack_keeps]

theorem execStackTempSample_keeps {k m s0} [Spares m .tick] [Spares m .rec'] [Spares m .pwr] [Spares m .pins] [Spares m .memc] [Spares m .atts] [Spares m .halted] [Spares m .out] (stack) (temp) (s) (h : Keeps k m s0 s) :
    OutKeeps k m s0 (execStackTempSample stack temp s) := by
  unfold execStackTempSample; grind -lia -linarith -ring -order [State.stackTemp_keeps, outKeeps_next]

theorem State.dieSensor_keeps {k m s0} [Spares m .tick] [Spares m .rec'] [Spares m .pwr] [Spares m .pins] [Spares m .atts] [Spares m .halted] [Spares m .out] (s) (diode) (temp4) (h : Keeps k m s0 s) :
    Keeps k m s0 (State.dieSensor s diode temp4) := by
  unfold State.dieSensor; grind -lia -linarith -ring -order [keeps_mk_pwr, keeps_mk_pins, keeps_mk_pwr_pins, State.packageHalt_keeps, State.record_keeps]

theorem execDieSensorSample_keeps {k m s0} [Spares m .tick] [Spares m .rec'] [Spares m .pwr] [Spares m .pins] [Spares m .atts] [Spares m .halted] [Spares m .out] (diode) (temp4) (s) (h : Keeps k m s0 s) :
    OutKeeps k m s0 (execDieSensorSample diode temp4 s) := by
  unfold execDieSensorSample; grind -lia -linarith -ring -order [keeps_mk_pwr, State.dieSensor_keeps, outKeeps_next]

theorem State.updLink_keeps {k m s0} [Spares m .links] (s) (l) (f) (h : Keeps k m s0 s) :
    Keeps k m s0 (State.updLink s l f) := by
  unfold State.updLink; grind -lia -linarith -ring -order [keeps_mk_links]

theorem execDieLinkFailure_keeps {k m s0} [Spares m .tick] [Spares m .rec'] [Spares m .links] [Spares m .atts] [Spares m .halted] [Spares m .out] (link) (s) (h : Keeps k m s0 s) :
    OutKeeps k m s0 (execDieLinkFailure link s) := by
  unfold execDieLinkFailure; grind -lia -linarith -ring -order [State.packageHalt_keeps, State.record_keeps, State.updLink_keeps, outKeeps_next]

theorem execDieLinkRetrain_keeps {k m s0} [Spares m .rec'] [Spares m .links] (link) (degraded) (s) (h : Keeps k m s0 s) :
    OutKeeps k m s0 (execDieLinkRetrain link degraded s) := by
  unfold execDieLinkRetrain; grind -lia -linarith -ring -order [State.record_keeps, State.updLink_keeps, outKeeps_next]

theorem State.settleStart_keeps {k m s0} [Spares m .fab] (s) (h : Keeps k m s0 s) :
    Keeps k m s0 (State.settleStart s) := by
  unfold State.settleStart; grind -lia -linarith -ring -order [keeps_mk_fab]

theorem execDieLinkTrainingComplete_keeps {k m s0} [Spares m .links] [Spares m .fab] (trained) (degraded) (s) (h : Keeps k m s0 s) :
    OutKeeps k m s0 (execDieLinkTrainingComplete trained degraded s) := by
  unfold execDieLinkTrainingComplete; grind -lia -linarith -ring -order [State.settleStart_keeps, keeps_foldS, State.updLink_keeps, outKeeps_next]

theorem State.spareFaults_keeps {k m s0} [Spares m .memc] (s) (faults) (healthy) (h : Keeps k m s0 s) :
    Keeps k m s0 (State.spareFaults s faults healthy) := by
  unfold State.spareFaults; grind -lia -linarith -ring -order [keeps_foldS, State.updStack_keeps, keeps_mk_memc]

theorem State.trainEnd_keeps {k m s0} [Spares m .rec'] [Spares m .memc] [Spares m .mem] [Spares m .poison] [Spares m .fab] (s) (faults) (h : Keeps k m s0 s) :
    Keeps k m s0 (State.trainEnd s faults) := by
  rw [State.trainEnd]
  refine keeps_ite h ?_
  extract_lets healthy ok s1 s2
  have h1 : Keeps k m s0 s1 := keeps_foldS (fun t a ht => keeps_ite ht (State.record_keeps _ _ _ _ _ _ _ ht)) h
  clear_value s1
  exact State.settleStart_keeps _ (State.spareFaults_keeps _ _ _
    ⟨fun f hf => by cases f <;> first | exact h1.same _ hf | exact Spares.elim hf, h1.queue, h1.fuse, h1.svn, fun _ => rfl, fun _ => rfl, h1.host, h1.out, h1.fresh, h1.halt⟩)

end Sys2Proof.Machine
end

