-- ==== Sys2Proof/Laws/KeepsTickStep.lean ====
section
/-!
SUPPORT. That each function of Machine/TickStep.lean keeps what a command keeps (`Keeps`, `OutKeeps`).
-/

namespace Sys2Proof.Machine

theorem State.chargeCluster_keeps {k m s0} [Spares m .parts] [Spares m .fresh] (s) (p) (b) (sl) (c) (h : Keeps k m s0 s) :
    Keeps k m s0 (State.chargeCluster s p b sl c) := by
  unfold State.chargeCluster; grind -lia -linarith -ring -order [State.freeBelow_keeps, State.updPart_keeps]

theorem State.chargeRunning_keeps {k m s0} [Spares m .parts] [Spares m .fresh] (s) (b) (r) (h : Keeps k m s0 s) :
    Keeps k m s0 (State.chargeRunning s b r) := by
  unfold State.chargeRunning; grind -lia -linarith -ring -order [State.updDesc_keeps, keeps_foldS, State.chargeCluster_keeps]

theorem State.reachBoundary_keeps {k m s0} [Spares m .now] [Spares m .parts] [Spares m .fresh] (s) (h : Keeps k m s0 s) :
    Keeps k m s0 (State.reachBoundary s) := by
  unfold State.reachBoundary; grind -lia -linarith -ring -order [State.advance_keeps, keeps_foldS, State.chargeRunning_keeps]

theorem State.openTick_keeps {k m s0} [Spares m .tick] (s) (h : Keeps k m s0 s) :
    Keeps k m s0 (State.openTick s) := by
  unfold State.openTick; grind -lia -linarith -ring -order [keeps_mk_tick]

theorem State.addSentryEntry_keeps {k m s0} [Spares m .mem] [Spares m .poison] (s) (p) (n) (e) (h : Keeps k m s0 s) :
    Keeps k m s0 (State.addSentryEntry s p n e) := by
  unfold State.addSentryEntry; grind -lia -linarith -ring -order [State.wrBytes_keeps]

theorem State.lostSentryLines_keeps {k m s0} [Spares m .rec'] [Spares m .mem] [Spares m .poison] [Spares m .parts] [Spares m .out] (s) (p) (old) (h : Keeps k m s0 s) :
    Keeps k m s0 (State.lostSentryLines s p old) := by
  unfold State.lostSentryLines; grind -lia -linarith -ring -order [keeps_foldS, State.exception_keeps]

theorem State.addSentries_keeps {k m s0} [Spares m .rec'] [Spares m .mem] [Spares m .poison] [Spares m .parts] [Spares m .out] (s) (p) (n) (old) (h : Keeps k m s0 s) :
    Keeps k m s0 (State.addSentries s p n old) := by
  unfold State.addSentries; grind -lia -linarith -ring -order [keeps_foldS, State.addSentryEntry_keeps, State.lostSentryLines_keeps, State.updPart_keeps]

theorem State.stepFreeze_keeps {k m s0} [Spares m .tick] [Spares m .rec'] [Spares m .mem] [Spares m .poison] [Spares m .parts] [Spares m .out] (s) (n) (start) (old) (h : Keeps k m s0 s) :
    Keeps k m s0 (State.stepFreeze s n start old) := by
  unfold State.stepFreeze; grind -lia -linarith -ring -order [keeps_mk_tick_parts, keeps_foldS, State.addSentries_keeps]

theorem State.keepFinds_keeps {k m s0} [Spares m .parts] (s) (h : Keeps k m s0 s) :
    Keeps k m s0 (State.keepFinds s) := by
  unfold State.keepFinds; grind -lia -linarith -ring -order [keeps_mk_parts]

theorem State.stepOverrun_keeps {k m s0} [Spares m .tick] [Spares m .parts] (s) (counted) (h : Keeps k m s0 s) :
    Keeps k m s0 (State.stepOverrun s counted) := by
  unfold State.stepOverrun; grind -lia -linarith -ring -order [keeps_mk_tick_parts]

theorem State.stepGovern_keeps {k m s0} [Spares m .pwr] (s) (l) (h : Keeps k m s0 s) :
    Keeps k m s0 (State.stepGovern s l) := by
  unfold State.stepGovern; grind -lia -linarith -ring -order [keeps_mk_pwr]

theorem State.stepDrowse_keeps {k m s0} [Spares m .pwr] (s) (p) (h : Keeps k m s0 s) :
    Keeps k m s0 (State.stepDrowse s p) := by
  unfold State.stepDrowse; grind -lia -linarith -ring -order [keeps_mk_pwr, keeps_foldS]

theorem State.estimate_keeps {k m s0} [Spares m .fresh] (s) (p) (d) (h : Keeps k m s0 s) :
    Keeps k m s0 (State.estimate s p d).2 := by
  unfold State.estimate; grind -lia -linarith -ring -order [State.baseRate_keeps]
theorem State.estimate_keeps' {k m s0} [Spares m .fresh] {s} {p} {d} {x t} (eq_ : State.estimate s p d = (x, t)) (h : Keeps k m s0 s) : Keeps k m s0 t := by
  have g := State.estimate_keeps s p d h
  rw [eq_] at g; exact g

theorem State.rankBorrowers_keeps {k m s0} [Spares m .fresh] (s) (p) (h : Keeps k m s0 s) :
    Keeps k m s0 (State.rankBorrowers s p).2 := by
  rw [State.rankBorrowers]
  apply keeps_foldQ ?_ h
  intro w a hw
  exact State.estimate_keeps _ _ _ hw
theorem State.rankBorrowers_keeps' {k m s0} [Spares m .fresh] {s} {p} {x t} (eq_ : State.rankBorrowers s p = (x, t)) (h : Keeps k m s0 s) : Keeps k m s0 t := by
  have g := State.rankBorrowers_keeps s p h
  rw [eq_] at g; exact g

theorem State.stepLend_keeps {k m s0} [Spares m .parts] [Spares m .fresh] (s) (p) (h : Keeps k m s0 s) :
    Keeps k m s0 (State.stepLend s p) := by
  unfold State.stepLend; grind -lia -linarith -ring -order [State.updPart_keeps, State.rankBorrowers_keeps]

theorem State.stepIssue_keeps {k m s0} [Spares m .parts] (s) (h : Keeps k m s0 s) :
    Keeps k m s0 (State.stepIssue s) := by
  unfold State.stepIssue; grind -lia -linarith -ring -order [keeps_mk_parts, keeps_foldS, State.testWaits_keeps]

theorem State.publishPart_keeps {k m s0} [Spares m .mem] [Spares m .poison] [Spares m .parts] (s) (n) (p) (h : Keeps k m s0 s) :
    Keeps k m s0 (State.publishPart s n p) := by
  unfold State.publishPart; grind -lia -linarith -ring -order [State.wrBytes_keeps, State.updMirror_keeps]

theorem State.publish_keeps {k m s0} [Spares m .tick] [Spares m .mem] [Spares m .poison] [Spares m .parts] (s) (h : Keeps k m s0 s) :
    Keeps k m s0 (State.publish s) := by
  unfold State.publish; grind -lia -linarith -ring -order [keeps_foldS, State.testWaits_keeps, State.publishPart_keeps, keeps_mk_tick]

theorem execSnapshotPublish_keeps {k m s0} [Spares m .now] [Spares m .tick] [Spares m .mem] [Spares m .poison] [Spares m .parts] (s) (h : Keeps k m s0 s) :
    OutKeeps k m s0 (execSnapshotPublish s) := by
  unfold execSnapshotPublish; grind -lia -linarith -ring -order [State.publish_keeps, State.advance_keeps, outKeeps_next]

theorem State.stepHalts_keeps {k m s0} [Spares m .parts] (s) (h : Keeps k m s0 s) :
    Keeps k m s0 (State.stepHalts s) := by
  unfold State.stepHalts; grind -lia -linarith -ring -order [keeps_mk_parts]

theorem State.boundarySteps_keeps {k m s0} [Spares m .tick] [Spares m .rec'] [Spares m .pwr] [Spares m .memc] [Spares m .mem] [Spares m .poison] [Spares m .chipFixed] [Spares m .parts] [Spares m .fresh] [Spares m .out] (s) (power) (h : Keeps k m s0 s) :
    Keeps k m s0 (State.boundarySteps s power) := by
  rw [State.boundarySteps]
  have h1 := State.stepGovern_keeps _ power.rails (State.stepOverrun_keeps _ s.tick.pendingResync.isNone
    (State.stepFreeze_keeps _ s.tick.count s.tick.start s (State.openTick_keeps _ (State.keepFinds_keeps _
      (State.findAll_keeps _ 4 0 power.found h)))))
  refine State.stepIssue_keeps _ (State.refreshBoundary_keeps _ (State.laneBoundary_keeps _ ?_))
  exact keeps_foldS (fun t a ht => State.chargeSamples_keeps _ _ ht) (State.stepHalts_keeps _
    (keeps_foldS (fun t a ht => State.stepLend_keeps _ _ ht) (keeps_foldS (fun t a ht => State.stepDrowse_keeps _ _ ht)
      (keeps_foldS (fun t a ht => State.resolveWaits_keeps _ _ ht) h1))))

theorem execTickBoundary_keeps {k m s0} [Spares m .now] [Spares m .tick] [Spares m .rec'] [Spares m .pwr] [Spares m .memc] [Spares m .mem] [Spares m .poison] [Spares m .chipFixed] [Spares m .parts] [Spares m .fresh] [Spares m .out] (power) (s) (h : Keeps k m s0 s) :
    OutKeeps k m s0 (execTickBoundary power s) := by
  unfold execTickBoundary; grind -lia -linarith -ring -order [State.boundarySteps_keeps, State.reachBoundary_keeps, State.publish_keeps, outKeeps_next]

theorem State.stageAt_keeps {k m s0} [Spares m .tick] (s) (a) (h : Keeps k m s0 s) :
    Keeps k m s0 (State.stageAt s a) := by
  unfold State.stageAt; grind -lia -linarith -ring -order [keeps_mk_tick]

theorem execTickStageAt_keeps {k m s0} [Spares m .tick] (value) (s) (h : Keeps k m s0 s) :
    OutKeeps k m s0 (execTickStageAt value s) := by
  unfold execTickStageAt; grind -lia -linarith -ring -order [State.stageAt_keeps, outKeeps_next]

theorem State.commitEpoch_keeps {k m s0} [Spares m .tick] (s) (epoch) (period) (t) (h : Keeps k m s0 s) :
    Keeps k m s0 (State.commitEpoch s epoch period t) := by
  unfold State.commitEpoch; grind -lia -linarith -ring -order [keeps_mk_tick]

theorem State.writeEpoch_keeps {k m s0} [Spares m .now] [Spares m .tick] [Spares m .parts] (s0_) (epoch) (t) (h : Keeps k m s0 s0_) :
    Keeps k m s0 (State.writeEpoch s0_ epoch t) := by
  unfold State.writeEpoch; grind -lia -linarith -ring -order [State.advance_keeps, keeps_mk_tick, State.commitEpoch_keeps]

theorem execTickEpoch_keeps {k m s0} [Spares m .now] [Spares m .tick] [Spares m .parts] (value) (t) (s) (h : Keeps k m s0 s) :
    OutKeeps k m s0 (execTickEpoch value t s) := by
  unfold execTickEpoch; grind -lia -linarith -ring -order [State.writeEpoch_keeps, outKeeps_next]

theorem State.reportCycle_keeps {k m s0} [Spares m .rec'] [Spares m .mem] [Spares m .poison] [Spares m .parts] [Spares m .out] (s) (p) (h : Keeps k m s0 s) :
    Keeps k m s0 (State.reportCycle s p) := by
  unfold State.reportCycle; grind -lia -linarith -ring -order [State.setPart_keeps, State.exception_keeps, State.updPart_keeps]

theorem execWaitCycleReport_keeps {k m s0} [Spares m .rec'] [Spares m .mem] [Spares m .poison] [Spares m .parts] [Spares m .out] (part) (s) (h : Keeps k m s0 s) :
    OutKeeps k m s0 (execWaitCycleReport part s) := by
  unfold execWaitCycleReport; grind -lia -linarith -ring -order [State.reportCycle_keeps, outKeeps_next]

end Sys2Proof.Machine
end

