-- ==== Sys2Proof/Laws/KeepsHosts.lean ====
section
/-!
SUPPORT. That each function of Machine/Hosts.lean keeps what a command keeps (`Keeps`, `OutKeeps`).
-/

namespace Sys2Proof.Machine

theorem State.createPart_keeps {k m s0} [Spares m .media] [Spares m .parts] (s) (p) (h : Keeps k m s0 s) :
    Keeps k m s0 (State.createPart s p) := by
  unfold State.createPart; grind -lia -linarith -ring -order [State.setPart_keeps, keeps_mk_media]

theorem execPartitionCreate_keeps {k m s0} [Spares m .media] [Spares m .parts] (p) (s) (h : Keeps k m s0 s) :
    OutKeeps k m s0 (execPartitionCreate p s) := by
  unfold execPartitionCreate; grind -lia -linarith -ring -order [State.createPart_keeps, outKeeps_next]

theorem State.zeroClusters_keeps {k m s0} [Spares m .acc] [Spares m .accGen] [Spares m .res] [Spares m .opbuf] (s) (cl) (h : Keeps k m s0 s) :
    Keeps k m s0 (State.zeroClusters s cl) := by
  unfold State.zeroClusters; grind -lia -linarith -ring -order [keeps_mk_acc_accGen_res_opbuf]

theorem State.recordPart_keeps {k m s0} [Spares m .rec'] (s) (p) (cmd) (h : Keeps k m s0 s) :
    Keeps k m s0 (State.recordPart s p cmd) := by
  unfold State.recordPart; grind -lia -linarith -ring -order [State.record_keeps]

theorem State.answerWait_keeps {k m s0} [Spares m .mgmt] [Spares m .out] (s) (cmd) (p) (data) (h : Keeps k m s0 s) :
    Keeps k m s0 (State.answerWait s cmd p data) := by
  unfold State.answerWait; grind -lia -linarith -ring -order [State.emit_keeps, keeps_mk_mgmt]

theorem State.readyPart_keeps {k m s0} [Spares m .rec'] [Spares m .mgmt] [Spares m .mem] [Spares m .poison] [Spares m .acc] [Spares m .accGen] [Spares m .res] [Spares m .opbuf] [Spares m .vec] [Spares m .upd] [Spares m .parts] [Spares m .out] (s) (p) (h : Keeps k m s0 s) :
    Keeps k m s0 (State.readyPart s p) := by
  rw [State.readyPart]
  refine keeps_ite h (State.answerWait_keeps _ _ _ _ (State.recordPart_keeps _ _ _ (State.setPart_keeps _ _ _ (State.freeEngines_keeps _ _ ?_))))
  exact State.zeroClusters_keeps _ _ (State.zeroRange_keeps _ _ _ h)

theorem execPartitionReady_keeps {k m s0} [Spares m .rec'] [Spares m .mgmt] [Spares m .mem] [Spares m .poison] [Spares m .acc] [Spares m .accGen] [Spares m .res] [Spares m .opbuf] [Spares m .vec] [Spares m .upd] [Spares m .parts] [Spares m .out] (p) (s) (h : Keeps k m s0 s) :
    OutKeeps k m s0 (execPartitionReady p s) := by
  unfold execPartitionReady; grind -lia -linarith -ring -order [State.readyPart_keeps, outKeeps_next]

theorem execModeWrite_keeps {k m s0} [Spares m .parts] (p) (mode) (s) (h : Keeps k m s0 s) :
    OutKeeps k m s0 (execModeWrite p mode s) := by
  unfold execModeWrite; grind -lia -linarith -ring -order [State.updPart_keeps, outKeeps_next]

theorem State.resetChannels_keeps {k m s0} [Spares m .macs] [Spares m .chans] [Spares m .fresh] [Spares m .out] (s) (r) (record) (h : Keeps k m s0 s) :
    Keeps k m s0 (State.resetChannels s r record) := by
  unfold State.resetChannels; grind -lia -linarith -ring -order [keeps_foldS, State.updChan_keeps, State.startReset_keeps]

theorem State.abandonDesc_keeps {k m s0} [Spares m .mem] [Spares m .poison] [Spares m .macs] [Spares m .chans] [Spares m .acc] [Spares m .accGen] [Spares m .res] [Spares m .parts] [Spares m .fresh] [Spares m .out] (s) (r) (record) (h : Keeps k m s0 s) :
    Keeps k m s0 (State.abandonDesc s r record) := by
  unfold State.abandonDesc; grind -lia -linarith -ring -order [State.resetChannels_keeps, State.stampUpdate_keeps, State.voidSlots_keeps, State.updPart_keeps, State.abandon_keeps]

theorem State.abandonAll_keeps {k m s0} [Spares m .mem] [Spares m .poison] [Spares m .macs] [Spares m .chans] [Spares m .acc] [Spares m .accGen] [Spares m .res] [Spares m .vec] [Spares m .upd] [Spares m .parts] [Spares m .fresh] [Spares m .out] (s) (p) (record) (h : Keeps k m s0 s) :
    Keeps k m s0 (State.abandonAll s p record) := by
  unfold State.abandonAll; grind -lia -linarith -ring -order [State.updPart_keeps, State.freeEngines_keeps, keeps_foldS, State.abandonDesc_keeps]

theorem State.orphanUpdate_keeps {k m s0} [Spares m .mgmt] (s) (p) (h : Keeps k m s0 s) :
    Keeps k m s0 (State.orphanUpdate s p) := by
  unfold State.orphanUpdate; grind -lia -linarith -ring -order [keeps_mk_mgmt]

theorem State.endDestroy_keeps {k m s0} [Spares m .rec'] [Spares m .mgmt] [Spares m .mem] [Spares m .poison] [Spares m .macs] [Spares m .chans] [Spares m .acc] [Spares m .accGen] [Spares m .res] [Spares m .vec] [Spares m .upd] [Spares m .parts] [Spares m .fresh] [Spares m .out] (s) (p) (h : Keeps k m s0 s) :
    Keeps k m s0 (State.endDestroy s p) := by
  rw [State.endDestroy]
  have h1 : Keeps k m s0 ((s.abandonAll p false).orphanUpdate p) := State.orphanUpdate_keeps _ _ (State.abandonAll_keeps _ _ _ h)
  refine State.answerWait_keeps _ _ _ _ (State.recordPart_keeps _ _ _ (State.setPart_keeps _ _ _ ?_))
  exact keeps_foldS (fun t c ht => State.updChan_keeps _ _ _ (State.startReset_keeps _ _ _ _ _ ht)) h1

theorem State.destroyPart_keeps {k m s0} [Spares m .rec'] [Spares m .mgmt] [Spares m .mem] [Spares m .poison] [Spares m .macs] [Spares m .chans] [Spares m .acc] [Spares m .accGen] [Spares m .res] [Spares m .vec] [Spares m .upd] [Spares m .parts] [Spares m .fresh] [Spares m .out] (s) (p) (h : Keeps k m s0 s) :
    Keeps k m s0 (State.destroyPart s p) := by
  unfold State.destroyPart; grind -lia -linarith -ring -order [State.answerWait_keeps, State.updPart_keeps, State.cancelPart_keeps, State.endDestroy_keeps]

theorem execPartitionDestroy_keeps {k m s0} [Spares m .rec'] [Spares m .mgmt] [Spares m .mem] [Spares m .poison] [Spares m .macs] [Spares m .chans] [Spares m .acc] [Spares m .accGen] [Spares m .res] [Spares m .vec] [Spares m .upd] [Spares m .parts] [Spares m .fresh] [Spares m .out] (p) (s) (h : Keeps k m s0 s) :
    OutKeeps k m s0 (execPartitionDestroy p s) := by
  unfold execPartitionDestroy; grind -lia -linarith -ring -order [State.destroyPart_keeps, outKeeps_next]

theorem execPartitionDestroyExpiry_keeps {k m s0} [Spares m .rec'] [Spares m .mgmt] [Spares m .mem] [Spares m .poison] [Spares m .macs] [Spares m .chans] [Spares m .acc] [Spares m .accGen] [Spares m .res] [Spares m .vec] [Spares m .upd] [Spares m .parts] [Spares m .fresh] [Spares m .out] (p) (s) (h : Keeps k m s0 s) :
    OutKeeps k m s0 (execPartitionDestroyExpiry p s) := by
  unfold execPartitionDestroyExpiry; grind -lia -linarith -ring -order [State.endDestroy_keeps, outKeeps_next]

theorem State.endFlr_keeps {k m s0} [Spares m .mem] [Spares m .poison] [Spares m .macs] [Spares m .chans] [Spares m .acc] [Spares m .accGen] [Spares m .res] [Spares m .vec] [Spares m .upd] [Spares m .parts] [Spares m .fresh] [Spares m .out] (s) (p) (h : Keeps k m s0 s) :
    Keeps k m s0 (State.endFlr s p) := by
  unfold State.endFlr; grind -lia -linarith -ring -order [State.updPart_keeps, State.abandonAll_keeps]

theorem State.startFlr_keeps {k m s0} [Spares m .rec'] [Spares m .mem] [Spares m .poison] [Spares m .macs] [Spares m .chans] [Spares m .acc] [Spares m .accGen] [Spares m .res] [Spares m .vec] [Spares m .upd] [Spares m .parts] [Spares m .fresh] [Spares m .out] (s) (p) (h : Keeps k m s0 s) :
    Keeps k m s0 (State.startFlr s p) := by
  unfold State.startFlr; grind -lia -linarith -ring -order [State.cancelPart_keeps, State.updPart_keeps, State.endFlr_keeps]

theorem execFunctionLevelReset_keeps {k m s0} [Spares m .rec'] [Spares m .mem] [Spares m .poison] [Spares m .macs] [Spares m .chans] [Spares m .acc] [Spares m .accGen] [Spares m .res] [Spares m .vec] [Spares m .upd] [Spares m .parts] [Spares m .fresh] [Spares m .out] (h_) (s) (h : Keeps k m s0 s) :
    OutKeeps k m s0 (execFunctionLevelReset h_ s) := by
  unfold execFunctionLevelReset; grind -lia -linarith -ring -order [State.startFlr_keeps, outKeeps_next]

theorem execFlrWaitExpiry_keeps {k m s0} [Spares m .mem] [Spares m .poison] [Spares m .macs] [Spares m .chans] [Spares m .acc] [Spares m .accGen] [Spares m .res] [Spares m .vec] [Spares m .upd] [Spares m .parts] [Spares m .fresh] [Spares m .out] (part) (s) (h : Keeps k m s0 s) :
    OutKeeps k m s0 (execFlrWaitExpiry part s) := by
  unfold execFlrWaitExpiry; grind -lia -linarith -ring -order [State.endFlr_keeps, outKeeps_next]

theorem State.resetAttachment_keeps {k m s0} [Spares m .rec'] [Spares m .mem] [Spares m .poison] [Spares m .macs] [Spares m .chans] [Spares m .acc] [Spares m .accGen] [Spares m .res] [Spares m .vec] [Spares m .upd] [Spares m .parts] [Spares m .fresh] [Spares m .out] (s) (att) (h : Keeps k m s0 s) :
    Keeps k m s0 (State.resetAttachment s att) := by
  unfold State.resetAttachment; grind -lia -linarith -ring -order [keeps_foldS, State.startFlr_keeps]

theorem execLinkReset_keeps {k m s0} [Spares m .rec'] [Spares m .mem] [Spares m .poison] [Spares m .macs] [Spares m .chans] [Spares m .acc] [Spares m .accGen] [Spares m .res] [Spares m .vec] [Spares m .upd] [Spares m .parts] [Spares m .fresh] [Spares m .out] (att) (s) (h : Keeps k m s0 s) :
    OutKeeps k m s0 (execLinkReset att s) := by
  unfold execLinkReset; grind -lia -linarith -ring -order [State.resetAttachment_keeps, outKeeps_next]

theorem execPerstN_keeps {k m s0} [Spares m .rec'] [Spares m .mem] [Spares m .poison] [Spares m .macs] [Spares m .chans] [Spares m .acc] [Spares m .accGen] [Spares m .res] [Spares m .vec] [Spares m .upd] [Spares m .parts] [Spares m .fresh] [Spares m .out] (q) (s) (h : Keeps k m s0 s) :
    OutKeeps k m s0 (execPerstN q s) := by
  unfold execPerstN; grind -lia -linarith -ring -order [State.resetAttachment_keeps, outKeeps_next]

theorem State.present'_keeps {k m s0} [Spares m .parts] (s) (att) (h : Keeps k m s0 s) :
    Keeps k m s0 (State.present' s att) := by
  unfold State.present'; grind -lia -linarith -ring -order [keeps_foldS, State.updPart_keeps]

theorem State.unpresent_keeps {k m s0} [Spares m .parts] (s) (att) (h : Keeps k m s0 s) :
    Keeps k m s0 (State.unpresent s att) := by
  unfold State.unpresent; grind -lia -linarith -ring -order [keeps_foldS, State.updPart_keeps]

theorem State.flushAttachment_keeps {k m s0} [Spares m .parts] [Spares m .out] (s) (att) (h : Keeps k m s0 s) :
    Keeps k m s0 (State.flushAttachment s att) := by
  unfold State.flushAttachment; grind -lia -linarith -ring -order [keeps_foldS, State.flushVector_keeps]

theorem State.linkMove_keeps {k m s0} [Spares m .rec'] [Spares m .atts] (s) (att) (up) (cxl0) (mld) (h : Keeps k m s0 s) :
    Keeps k m s0 (State.linkMove s att up cxl0 mld) := by
  rw [State.linkMove]
  exact State.record_keeps _ _ _ _ _ _ _ (State.setAtt_keeps _ _ _ h fun hs => State.att_wf hs att)

theorem State.attLink_keeps {k m s0} [Spares m .rec'] [Spares m .atts] [Spares m .parts] [Spares m .out] (s) (att) (up) (cxl) (mld) (h : Keeps k m s0 s) :
    Keeps k m s0 (State.attLink s att up cxl mld) := by
  rw [State.attLink]
  have h1 := State.linkMove_keeps s att up cxl mld h
  exact keeps_ite (keeps_ite (State.flushAttachment_keeps _ _ h1) h1)
    (keeps_ite (State.flushAttachment_keeps _ _ (State.present'_keeps _ _ h1)) (keeps_ite (State.unpresent_keeps _ _ h1) h1))

theorem execAttachmentLinkChange_keeps {k m s0} [Spares m .rec'] [Spares m .atts] [Spares m .parts] [Spares m .out] (att) (up) (cxl) (mld) (s) (h : Keeps k m s0 s) :
    OutKeeps k m s0 (execAttachmentLinkChange att up cxl mld s) := by
  unfold execAttachmentLinkChange; grind -lia -linarith -ring -order [State.attLink_keeps, outKeeps_next]

theorem execHdmDecoderCommit_keeps {k m s0} [Spares m .parts] (h_) (base) (s) (h : Keeps k m s0 s) :
    OutKeeps k m s0 (execHdmDecoderCommit h_ base s) := by
  unfold execHdmDecoderCommit; grind -lia -linarith -ring -order [State.updPart_keeps, outKeeps_next]

theorem State.answerPoison_keeps {k m s0} [Spares m .fresh] [Spares m .out] (s) (h_) (h : Keeps k m s0 s) :
    Keeps k m s0 (State.answerPoison s h_) := by
  exact State.emit_keeps _ _ (keeps_mk_fresh h)

theorem State.cxlRead_keeps {k m s0} [Spares m .rec'] [Spares m .memc] [Spares m .mem] [Spares m .poison] [Spares m .parts] [Spares m .fresh] [Spares m .out] (s) (h_) (addr) (ecc) (h : Keeps k m s0 s) :
    Keeps k m s0 (State.cxlRead s h_ addr ecc) := by
  unfold State.cxlRead; grind -lia -linarith -ring -order [State.answerPoison_keeps, State.emit_keeps, State.readSector_keeps]

theorem execCxlMemRead_keeps {k m s0} [Spares m .rec'] [Spares m .memc] [Spares m .mem] [Spares m .poison] [Spares m .parts] [Spares m .fresh] [Spares m .out] (h_) (addr) (ecc) (s) (h : Keeps k m s0 s) :
    OutKeeps k m s0 (execCxlMemRead h_ addr ecc s) := by
  unfold execCxlMemRead; grind -lia -linarith -ring -order [State.cxlRead_keeps, outKeeps_next]

theorem State.hostDrop_keeps {k m s0} [Spares m .mem] [Spares m .poison] (s) (p) (k_) (h : Keeps k m s0 s) :
    Keeps k m s0 (State.hostDrop s p k_) := by
  unfold State.hostDrop; grind -lia -linarith -ring -order [State.wrN_keeps]

theorem State.cxlWrite_keeps {k m s0} [Spares m .mem] [Spares m .poison] [Spares m .parts] (s) (h_) (addr) (line) (h : Keeps k m s0 s) :
    Keeps k m s0 (State.cxlWrite s h_ addr line) := by
  unfold State.cxlWrite; grind -lia -linarith -ring -order [State.hostDrop_keeps, State.wrBytes_keeps, State.wrRaw_keeps, State.testWaits_keeps, keeps_foldS]

theorem execCxlMemWrite_keeps {k m s0} [Spares m .mem] [Spares m .poison] [Spares m .parts] (h_) (addr) (line) (s) (h : Keeps k m s0 s) :
    OutKeeps k m s0 (execCxlMemWrite h_ addr line s) := by
  unfold execCxlMemWrite; grind -lia -linarith -ring -order [State.cxlWrite_keeps, outKeeps_next]

theorem execMsixTableWrite_keeps {k m s0} [Spares m .parts] [Spares m .out] (h_) (vec) (word) (value) (s) (h : Keeps k m s0 s) :
    OutKeeps k m s0 (execMsixTableWrite h_ vec word value s) := by
  unfold execMsixTableWrite; grind -lia -linarith -ring -order [State.flushVector_keeps, State.updPart_keeps, outKeeps_next]

theorem State.pageWrite_keeps {k m s0}      (s : State) (hp : Port) (f : State → Nat → State)
    (hf : ∀ t p, Keeps k m s0 t → Keeps k m s0 (f t p)) (h : Keeps k m s0 s) : Keeps k m s0 (s.pageWrite hp f) := by
  unfold State.pageWrite
  split
  · exact h
  · exact keeps_ite h (hf _ _ h)

theorem State.bufCommit_keeps {k m s0} [Spares m .parts] (s) (p) (v) (h : Keeps k m s0 s) :
    Keeps k m s0 (State.bufCommit s p v) := by
  unfold State.bufCommit; grind -lia -linarith -ring -order [State.setPart_keeps, keeps_foldS]

theorem execPartBufCommit_keeps {k m s0} [Spares m .rec'] [Spares m .memc] [Spares m .mem] [Spares m .poison] [Spares m .chipFixed] [Spares m .parts] [Spares m .fresh] [Spares m .out] (h_) (v) (s) (h : Keeps k m s0 s) :
    OutKeeps k m s0 (execPartBufCommit h_ v s) := by
  unfold execPartBufCommit; grind -lia -linarith -ring -order [State.pageWrite_keeps, State.bufCommit_keeps, State.findAll_keeps, outKeeps_next]

theorem State.excBaseWrite_keeps {k m s0} [Spares m .mem] [Spares m .poison] [Spares m .parts] (s) (p) (v) (h : Keeps k m s0 s) :
    Keeps k m s0 (State.excBaseWrite s p v) := by
  unfold State.excBaseWrite; grind -lia -linarith -ring -order [State.setPart_keeps, State.updPart_keeps, State.wrN_keeps]

theorem execPartExcBase_keeps {k m s0} [Spares m .rec'] [Spares m .memc] [Spares m .mem] [Spares m .poison] [Spares m .chipFixed] [Spares m .parts] [Spares m .fresh] [Spares m .out] (h_) (v) (s) (h : Keeps k m s0 s) :
    OutKeeps k m s0 (execPartExcBase h_ v s) := by
  unfold execPartExcBase; grind -lia -linarith -ring -order [State.pageWrite_keeps, State.excBaseWrite_keeps, State.findAll_keeps, outKeeps_next]

theorem State.drowseWrite_keeps {k m s0} [Spares m .parts] (s) (p) (hi) (v) (h : Keeps k m s0 s) :
    Keeps k m s0 (State.drowseWrite s p hi v) := by
  unfold State.drowseWrite; grind -lia -linarith -ring -order [State.updPart_keeps]

theorem execPartDrowse_keeps {k m s0} [Spares m .parts] (h_) (hi) (v) (s) (h : Keeps k m s0 s) :
    OutKeeps k m s0 (execPartDrowse h_ hi v s) := by
  unfold execPartDrowse; grind -lia -linarith -ring -order [State.pageWrite_keeps, State.drowseWrite_keeps, outKeeps_next]

end Sys2Proof.Machine
end

