-- ==== Sys2Proof/Laws/KeepsPtp.lean ====
section
/-!
SUPPORT. That each function of Machine/Ptp.lean keeps what a command keeps (`Keeps`, `OutKeeps`).
-/

namespace Sys2Proof.Machine

theorem State.decideMaster_keeps {k m s0} [Spares m .ptp] [Spares m .rec'] (s) (h : Keeps k m s0 s) :
    Keeps k m s0 (State.decideMaster s) := by
  unfold State.decideMaster; grind -lia -linarith -ring -order [keeps_mk_ptp, State.record_keeps]

theorem State.ptpFrame_keeps {k m s0} [Spares m .macs] (s : State) (f : PtpFrame) (act : State → State)
    (hf : ∀ t, Keeps k m s0 t → Keeps k m s0 (act t)) (h : Keeps k m s0 s) : Keeps k m s0 (s.ptpFrame f act) := by
  rw [State.ptpFrame]
  exact keeps_ite (hf _ (State.countVerdict_keeps _ _ _ h)) (State.countVerdict_keeps _ _ _ h)

theorem State.stepTime_keeps {k m s0} [Spares m .now] [Spares m .tick] [Spares m .pwr] [Spares m .parts] (s) (gm) (h : Keeps k m s0 s) :
    Keeps k m s0 (State.stepTime s gm) := by
  unfold State.stepTime; grind -lia -linarith -ring -order [keeps_mk_now_tick_pwr_parts, State.commitEpoch_keeps]

theorem State.settleLock_keeps {k m s0} [Spares m .fab] (s) (h : Keeps k m s0 s) :
    Keeps k m s0 (State.settleLock s) := by
  unfold State.settleLock; grind -lia -linarith -ring -order [keeps_mk_fab]

theorem State.lockTime_keeps {k m s0} [Spares m .now] [Spares m .tick] [Spares m .ptp] [Spares m .pwr] [Spares m .fab] [Spares m .parts] (s) (gm) (h : Keeps k m s0 s) :
    Keeps k m s0 (State.lockTime s gm) := by
  unfold State.lockTime; grind -lia -linarith -ring -order [State.stepTime_keeps, State.settleLock_keeps, keeps_mk_tick_ptp]

theorem State.measure_keeps {k m s0} [Spares m .now] [Spares m .tick] [Spares m .ptp] [Spares m .pwr] [Spares m .fab] [Spares m .parts] (s) (offset) (gm) (h : Keeps k m s0 s) :
    Keeps k m s0 (State.measure s offset gm) := by
  unfold State.measure; grind -lia -linarith -ring -order [keeps_mk_ptp, keeps_mk_tick, keeps_mk_tick_ptp, State.lockTime_keeps]

theorem State.rxSync_keeps {k m s0} [Spares m .now] [Spares m .tick] [Spares m .ptp] [Spares m .pwr] [Spares m .fab] [Spares m .parts] (s) (m_) (t) (offset) (gm) (twoStep) (seq) (h : Keeps k m s0 s) :
    Keeps k m s0 (State.rxSync s m_ t offset gm twoStep seq) := by
  unfold State.rxSync; grind -lia -linarith -ring -order [keeps_mk_ptp, State.measure_keeps, State.advance_keeps]

theorem execSync_keeps {k m s0} [Spares m .now] [Spares m .tick] [Spares m .ptp] [Spares m .pwr] [Spares m .fab] [Spares m .macs] [Spares m .parts] (f) (t) (offset) (gm) (twoStep) (seq) (s) (h : Keeps k m s0 s) :
    OutKeeps k m s0 (execSync f t offset gm twoStep seq s) := by
  unfold execSync; grind -lia -linarith -ring -order [State.ptpFrame_keeps, State.rxSync_keeps, outKeeps_next]

theorem State.rxFollowUp_keeps {k m s0} [Spares m .now] [Spares m .tick] [Spares m .ptp] [Spares m .pwr] [Spares m .fab] [Spares m .parts] (s) (m_) (t) (offset) (gm) (seq) (h : Keeps k m s0 s) :
    Keeps k m s0 (State.rxFollowUp s m_ t offset gm seq) := by
  unfold State.rxFollowUp; grind -lia -linarith -ring -order [State.measure_keeps, State.advance_keeps, keeps_mk_ptp]

theorem execFollowUp_keeps {k m s0} [Spares m .now] [Spares m .tick] [Spares m .ptp] [Spares m .pwr] [Spares m .fab] [Spares m .macs] [Spares m .parts] (f) (t) (offset) (gm) (seq) (s) (h : Keeps k m s0 s) :
    OutKeeps k m s0 (execFollowUp f t offset gm seq s) := by
  unfold execFollowUp; grind -lia -linarith -ring -order [State.ptpFrame_keeps, State.rxFollowUp_keeps, outKeeps_next]

theorem State.rxAnnounce_keeps {k m s0} [Spares m .ptp] [Spares m .rec'] (s) (m_) (a) (h : Keeps k m s0 s) :
    Keeps k m s0 (State.rxAnnounce s m_ a) := by
  unfold State.rxAnnounce; grind -lia -linarith -ring -order [keeps_mk_ptp, State.decideMaster_keeps]

theorem execAnnounce_keeps {k m s0} [Spares m .ptp] [Spares m .rec'] [Spares m .macs] (f) (a) (s) (h : Keeps k m s0 s) :
    OutKeeps k m s0 (execAnnounce f a s) := by
  unfold execAnnounce; grind -lia -linarith -ring -order [State.ptpFrame_keeps, State.rxAnnounce_keeps, outKeeps_next]

theorem State.announceTimeout_keeps {k m s0} [Spares m .tick] [Spares m .ptp] [Spares m .rec'] (s) (m_) (h : Keeps k m s0 s) :
    Keeps k m s0 (State.announceTimeout s m_) := by
  unfold State.announceTimeout; grind -lia -linarith -ring -order [State.decideMaster_keeps, keeps_mk_ptp, keeps_mk_tick_ptp]

theorem execAnnounceReceiptTimeout_keeps {k m s0} [Spares m .tick] [Spares m .ptp] [Spares m .rec'] (mac) (s) (h : Keeps k m s0 s) :
    OutKeeps k m s0 (execAnnounceReceiptTimeout mac s) := by
  unfold execAnnounceReceiptTimeout; grind -lia -linarith -ring -order [State.announceTimeout_keeps, outKeeps_next]

theorem State.sendPtp_keeps {k m s0} [Spares m .macs] [Spares m .out] (s) (ms) (typ) (seq) (interval) (body) (h : Keeps k m s0 s) :
    Keeps k m s0 (State.sendPtp s ms typ seq interval body) := by
  unfold State.sendPtp; grind -lia -linarith -ring -order [keeps_foldS, State.transmit_keeps]

theorem State.syncTick_keeps {k m s0} [Spares m .now] [Spares m .tick] [Spares m .ptp] [Spares m .pwr] [Spares m .fab] [Spares m .macs] [Spares m .parts] [Spares m .out] (s) (h : Keeps k m s0 s) :
    Keeps k m s0 (State.syncTick s) := by
  unfold State.syncTick; grind -lia -linarith -ring -order [State.sendPtp_keeps, State.measure_keeps, keeps_mk_ptp]

theorem execSyncInterval_keeps {k m s0} [Spares m .now] [Spares m .tick] [Spares m .ptp] [Spares m .pwr] [Spares m .fab] [Spares m .macs] [Spares m .parts] [Spares m .out] (s) (h : Keeps k m s0 s) :
    OutKeeps k m s0 (execSyncInterval s) := by
  unfold execSyncInterval; grind -lia -linarith -ring -order [State.syncTick_keeps, outKeeps_next]

theorem execAnnounceInterval_keeps {k m s0} [Spares m .ptp] [Spares m .macs] [Spares m .out] (s) (h : Keeps k m s0 s) :
    OutKeeps k m s0 (execAnnounceInterval s) := by
  unfold execAnnounceInterval; grind -lia -linarith -ring -order [State.sendPtp_keeps, keeps_mk_ptp, outKeeps_next]

theorem execDelayReqInterval_keeps {k m s0} [Spares m .ptp] [Spares m .macs] [Spares m .out] (s) (h : Keeps k m s0 s) :
    OutKeeps k m s0 (execDelayReqInterval s) := by
  unfold execDelayReqInterval; grind -lia -linarith -ring -order [State.sendPtp_keeps, keeps_mk_ptp, outKeeps_next]

theorem State.rxDelayReq_keeps {k m s0} [Spares m .macs] [Spares m .out] (s) (m_) (requester) (seq) (rxTime) (h : Keeps k m s0 s) :
    Keeps k m s0 (State.rxDelayReq s m_ requester seq rxTime) := by
  unfold State.rxDelayReq; grind -lia -linarith -ring -order [State.sendPtp_keeps]

theorem execDelayReq_keeps {k m s0} [Spares m .macs] [Spares m .out] (f) (requester) (seq) (rxTime) (s) (h : Keeps k m s0 s) :
    OutKeeps k m s0 (execDelayReq f requester seq rxTime s) := by
  unfold execDelayReq; grind -lia -linarith -ring -order [State.ptpFrame_keeps, State.rxDelayReq_keeps, outKeeps_next]

theorem State.rxDelayResp_keeps {k m s0} [Spares m .ptp] (s) (m_) (seq) (delay) (h : Keeps k m s0 s) :
    Keeps k m s0 (State.rxDelayResp s m_ seq delay) := by
  unfold State.rxDelayResp; grind -lia -linarith -ring -order [keeps_mk_ptp]

theorem execDelayResp_keeps {k m s0} [Spares m .ptp] [Spares m .macs] (f) (seq) (delay) (s) (h : Keeps k m s0 s) :
    OutKeeps k m s0 (execDelayResp f seq delay s) := by
  unfold execDelayResp; grind -lia -linarith -ring -order [State.ptpFrame_keeps, State.rxDelayResp_keeps, outKeeps_next]

theorem execPtpIgnoredMessage_keeps {k m s0} [Spares m .macs] (f) (_typ) (s) (h : Keeps k m s0 s) :
    OutKeeps k m s0 (execPtpIgnoredMessage f _typ s) := by
  unfold execPtpIgnoredMessage; grind -lia -linarith -ring -order [State.ptpFrame_keeps, outKeeps_next]

end Sys2Proof.Machine
end

