-- ==== Sys2Proof/Laws/KeepsFabric.lean ====
section
/-!
SUPPORT. That each function of Machine/Fabric.lean keeps what a command keeps (`Keeps`, `OutKeeps`).
-/

namespace Sys2Proof.Machine

theorem State.startFabric_keeps {k m s0} [Spares m .mem] [Spares m .poison] [Spares m .fab] [Spares m .macs] [Spares m .fresh] [Spares m .out] (s) (h : Keeps k m s0 s) :
    Keeps k m s0 (State.startFabric s) := by
  unfold State.startFabric; grind -lia -linarith -ring -order [State.settleFabric_keeps, keeps_mk_fab]

theorem execStart_keeps {k m s0} [Spares m .mem] [Spares m .poison] [Spares m .fab] [Spares m .macs] [Spares m .fresh] [Spares m .out] (s) (h : Keeps k m s0 s) :
    OutKeeps k m s0 (execStart s) := by
  unfold execStart; grind -lia -linarith -ring -order [State.startFabric_keeps, outKeeps_next]

theorem execFabricLinkTimeout_keeps {k m s0} [Spares m .mem] [Spares m .poison] [Spares m .fab] [Spares m .macs] [Spares m .fresh] [Spares m .out] (s) (h : Keeps k m s0 s) :
    OutKeeps k m s0 (execFabricLinkTimeout s) := by
  unfold execFabricLinkTimeout; grind -lia -linarith -ring -order [State.settleFabric_keeps, keeps_mk_fab, outKeeps_next]

theorem State.setLink_keeps {k m s0} [Spares m .rec'] [Spares m .macs] (s) (m_) (up) (h : Keeps k m s0 s) :
    Keeps k m s0 (State.setLink s m_ up) := by
  unfold State.setLink; grind -lia -linarith -ring -order [State.setMac_keeps, State.record_keeps]

theorem State.macLink_keeps {k m s0} [Spares m .rec'] [Spares m .mem] [Spares m .poison] [Spares m .fab] [Spares m .macs] [Spares m .fresh] [Spares m .out] (s) (m_) (up) (h : Keeps k m s0 s) :
    Keeps k m s0 (State.macLink s m_ up) := by
  unfold State.macLink; grind -lia -linarith -ring -order [State.settleFabric_keeps, State.setLink_keeps]

theorem execMacLinkChange_keeps {k m s0} [Spares m .rec'] [Spares m .mem] [Spares m .poison] [Spares m .fab] [Spares m .macs] [Spares m .fresh] [Spares m .out] (mac) (up) (s) (h : Keeps k m s0 s) :
    OutKeeps k m s0 (execMacLinkChange mac up s) := by
  unfold execMacLinkChange; grind -lia -linarith -ring -order [State.macLink_keeps, outKeeps_next]

theorem State.flushPrio_keeps {k m s0} [Spares m .macs] [Spares m .out] (s) (m_) (h : Keeps k m s0 s) :
    Keeps k m s0 (State.flushPrio s m_) := by
  unfold State.flushPrio; grind -lia -linarith -ring -order [keeps_foldS, State.emit_keeps, State.setMac_keeps]

theorem State.rxPfc_keeps {k m s0} [Spares m .macs] [Spares m .out] (s) (m_) (prio) (pause) (h : Keeps k m s0 s) :
    Keeps k m s0 (State.rxPfc s m_ prio pause) := by
  unfold State.rxPfc; grind -lia -linarith -ring -order [State.setMac_keeps, keeps_foldS, State.flushPrio_keeps]

theorem execPfcFrame_keeps {k m s0} [Spares m .macs] [Spares m .out] (mac) (prio) (pause) (s) (h : Keeps k m s0 s) :
    OutKeeps k m s0 (execPfcFrame mac prio pause s) := by
  unfold execPfcFrame; grind -lia -linarith -ring -order [State.rxPfc_keeps, outKeeps_next]

theorem execPause_keeps {k m s0}  (_mac) (s) (h : Keeps k m s0 s) :
    OutKeeps k m s0 (execPause _mac s) := by
  unfold execPause; grind -lia -linarith -ring -order [outKeeps_next]

theorem execHelloTimer_keeps {k m s0} [Spares m .macs] [Spares m .out] (s) (h : Keeps k m s0 s) :
    OutKeeps k m s0 (execHelloTimer s) := by
  unfold execHelloTimer; grind -lia -linarith -ring -order [keeps_foldS, State.groupFrame_keeps, outKeeps_next]

theorem State.rxHello_keeps {k m s0} [Spares m .mem] [Spares m .poison] [Spares m .fab] [Spares m .macs] [Spares m .fresh] [Spares m .out] (s) (f) (h : Keeps k m s0 s) :
    Keeps k m s0 (State.rxHello s f) := by
  unfold State.rxHello; grind -lia -linarith -ring -order [State.countFrame_keeps, State.settleFabric_keeps, State.setMac_keeps]

theorem execHello_keeps {k m s0} [Spares m .mem] [Spares m .poison] [Spares m .fab] [Spares m .macs] [Spares m .fresh] [Spares m .out] (f) (s) (h : Keeps k m s0 s) :
    OutKeeps k m s0 (execHello f s) := by
  unfold execHello; grind -lia -linarith -ring -order [State.rxHello_keeps, outKeeps_next]

theorem execHelloWaitExpiry_keeps {k m s0} [Spares m .mem] [Spares m .poison] [Spares m .fab] [Spares m .macs] [Spares m .fresh] [Spares m .out] (mac) (s) (h : Keeps k m s0 s) :
    OutKeeps k m s0 (execHelloWaitExpiry mac s) := by
  unfold execHelloWaitExpiry; grind -lia -linarith -ring -order [State.settleFabric_keeps, State.setMac_keeps, outKeeps_next]

theorem State.takeRecord_keeps {k m s0} [Spares m .rec'] [Spares m .mem] [Spares m .poison] [Spares m .fab] (s) (src) (hops) (r) (h : Keeps k m s0 s) :
    Keeps k m s0 (State.takeRecord s src hops r) := by
  unfold State.takeRecord; grind -lia -linarith -ring -order [State.record_keeps, keeps_mk_fab, State.setReach_keeps]

theorem State.rxCensus_keeps {k m s0} [Spares m .now] [Spares m .rec'] [Spares m .mem] [Spares m .poison] [Spares m .fab] [Spares m .macs] [Spares m .parts] [Spares m .fresh] [Spares m .out] (s0_) (f) (t) (h : Keeps k m s0 s0_) :
    Keeps k m s0 (State.rxCensus s0_ f t) := by
  unfold State.rxCensus; grind -lia -linarith -ring -order [State.advance_keeps, State.countFrame_keeps, keeps_foldS, State.takeRecord_keeps, State.drawNonce_keeps]

theorem execCensus_keeps {k m s0} [Spares m .now] [Spares m .rec'] [Spares m .mem] [Spares m .poison] [Spares m .fab] [Spares m .macs] [Spares m .parts] [Spares m .fresh] [Spares m .out] (f) (t) (s) (h : Keeps k m s0 s) :
    OutKeeps k m s0 (execCensus f t s) := by
  unfold execCensus; grind -lia -linarith -ring -order [State.rxCensus_keeps, outKeeps_next]

theorem State.censusResend_keeps {k m s0} [Spares m .fab] [Spares m .macs] [Spares m .out] (s) (pkg) (h : Keeps k m s0 s) :
    Keeps k m s0 (State.censusResend s pkg) := by
  unfold State.censusResend; grind -lia -linarith -ring -order [keeps_mk_fab, keeps_foldS, State.groupFrame_keeps]

theorem execCensusResend_keeps {k m s0} [Spares m .fab] [Spares m .macs] [Spares m .out] (pkg) (s) (h : Keeps k m s0 s) :
    OutKeeps k m s0 (execCensusResend pkg s) := by
  unfold execCensusResend; grind -lia -linarith -ring -order [State.censusResend_keeps, outKeeps_next]

theorem execCensusPeriodic_keeps {k m s0} [Spares m .mem] [Spares m .poison] [Spares m .macs] [Spares m .out] (s) (h : Keeps k m s0 s) :
    OutKeeps k m s0 (execCensusPeriodic s) := by
  unfold execCensusPeriodic; grind -lia -linarith -ring -order [State.sendOwn_keeps, outKeeps_next]

theorem State.endCensus_keeps {k m s0} [Spares m .fab] (s) (incomplete) (h : Keeps k m s0 s) :
    Keeps k m s0 (State.endCensus s incomplete) := by
  unfold State.endCensus; grind -lia -linarith -ring -order [State.settleLock_keeps, keeps_mk_fab]

theorem execCensusQuiet_keeps {k m s0} [Spares m .fab] (s) (h : Keeps k m s0 s) :
    OutKeeps k m s0 (execCensusQuiet s) := by
  unfold execCensusQuiet; grind -lia -linarith -ring -order [State.endCensus_keeps, outKeeps_next]

theorem execCensusLimit_keeps {k m s0} [Spares m .fab] (s) (h : Keeps k m s0 s) :
    OutKeeps k m s0 (execCensusLimit s) := by
  unfold execCensusLimit; grind -lia -linarith -ring -order [State.endCensus_keeps, outKeeps_next]

theorem State.bindJob_keeps {k m s0} [Spares m .tick] [Spares m .mgmt] [Spares m .fab] [Spares m .parts] (s) (p) (a) (h : Keeps k m s0 s) :
    Keeps k m s0 (State.bindJob s p a) := by
  unfold State.bindJob; grind -lia -linarith -ring -order [State.noteAccess_keeps, keeps_mk_fab, keeps_mk_tick, State.updPart_keeps, State.commitEpoch_keeps]

theorem State.bindWrite_keeps {k m s0} [Spares m .now] [Spares m .tick] [Spares m .mgmt] [Spares m .fab] [Spares m .parts] (s0_) (v) (t) (h : Keeps k m s0 s0_) :
    Keeps k m s0 (State.bindWrite s0_ v t) := by
  unfold State.bindWrite; grind -lia -linarith -ring -order [State.advance_keeps, keeps_mk_fab, State.bindJob_keeps]

theorem execBind_keeps {k m s0} [Spares m .now] [Spares m .tick] [Spares m .rec'] [Spares m .mgmt] [Spares m .memc] [Spares m .mem] [Spares m .poison] [Spares m .fab] [Spares m .chipFixed] [Spares m .parts] [Spares m .fresh] [Spares m .out] (value) (t) (s) (h : Keeps k m s0 s) :
    OutKeeps k m s0 (execBind value t s) := by
  unfold execBind; grind -lia -linarith -ring -order [State.bindWrite_keeps, State.findAll_keeps, outKeeps_next]

theorem State.unbindJob_keeps {k m s0} [Spares m .fab] [Spares m .parts] [Spares m .fresh] (s) (p) (h : Keeps k m s0 s) :
    Keeps k m s0 (State.unbindJob s p) := by
  unfold State.unbindJob; grind -lia -linarith -ring -order [State.freeBelow_keeps, State.updPart_keeps, keeps_mk_fab]

theorem State.unbindWrite_keeps {k m s0} [Spares m .fab] [Spares m .parts] [Spares m .fresh] (s) (v) (h : Keeps k m s0 s) :
    Keeps k m s0 (State.unbindWrite s v) := by
  unfold State.unbindWrite; grind -lia -linarith -ring -order [State.unbindJob_keeps, keeps_mk_fab]

theorem execUnbind_keeps {k m s0} [Spares m .fab] [Spares m .parts] [Spares m .fresh] (value) (s) (h : Keeps k m s0 s) :
    OutKeeps k m s0 (execUnbind value s) := by
  unfold execUnbind; grind -lia -linarith -ring -order [State.unbindWrite_keeps, outKeeps_next]

end Sys2Proof.Machine
end

