-- ==== Sys2Proof/Laws/KeepsRegSet.lean ====
section
/-!
SUPPORT. That each function of Machine/RegSet.lean keeps what a command keeps (`Keeps`, `OutKeeps`).
-/

namespace Sys2Proof.Machine

theorem State.entryWrite_keeps {k m s0} [Spares m .rec'] [Spares m .mgmt] [Spares m .media] [Spares m .mem] [Spares m .poison] [Spares m .macs] [Spares m .chans] [Spares m .acc] [Spares m .accGen] [Spares m .res] [Spares m .vec] [Spares m .upd] [Spares m .parts] [Spares m .fresh] [Spares m .out] (s) (p) (w) (v) (h : Keeps k m s0 s) :
    Keeps k m s0 (State.entryWrite s p w v) := by
  unfold State.entryWrite; grind -lia -linarith -ring -order [State.setPart_keeps, State.destroyPart_keeps, State.createPart_keeps]

theorem State.setFabId_keeps {k m s0} [Spares m .fab] (s) (v) (h : Keeps k m s0 s) :
    Keeps k m s0 (State.setFabId s v) := by
  unfold State.setFabId; grind -lia -linarith -ring -order [keeps_mk_fab]

theorem State.setFabPort_keeps {k m s0} [Spares m .fab] (s) (p) (v) (h : Keeps k m s0 s) :
    Keeps k m s0 (State.setFabPort s p v) := by
  unfold State.setFabPort; grind -lia -linarith -ring -order [keeps_mk_fab]

theorem State.endPauses_keeps {k m s0} [Spares m .macs] [Spares m .out] (s) (h : Keeps k m s0 s) :
    Keeps k m s0 (State.endPauses s) := by
  unfold State.endPauses; grind -lia -linarith -ring -order [keeps_foldS, State.flushPrio_keeps, State.setMac_keeps]

theorem State.setFabFrame_keeps {k m s0} [Spares m .fab] [Spares m .macs] [Spares m .out] (s) (v) (h : Keeps k m s0 s) :
    Keeps k m s0 (State.setFabFrame s v) := by
  unfold State.setFabFrame; grind -lia -linarith -ring -order [State.endPauses_keeps, keeps_mk_fab]

theorem State.setFabPtp_keeps {k m s0} [Spares m .fab] (s) (v) (h : Keeps k m s0 s) :
    Keeps k m s0 (State.setFabPtp s v) := by
  unfold State.setFabPtp; grind -lia -linarith -ring -order [keeps_mk_fab]

theorem State.setFabCensus_keeps {k m s0} [Spares m .fab] (s) (v) (h : Keeps k m s0 s) :
    Keeps k m s0 (State.setFabCensus s v) := by
  unfold State.setFabCensus; grind -lia -linarith -ring -order [keeps_mk_fab]

theorem State.setPwrGov_keeps {k m s0} [Spares m .pwr] (s) (v) (h : Keeps k m s0 s) :
    Keeps k m s0 (State.setPwrGov s v) := by
  unfold State.setPwrGov; grind -lia -linarith -ring -order [keeps_mk_pwr]

theorem State.setPwrTherm_keeps {k m s0} [Spares m .pwr] (s) (v) (h : Keeps k m s0 s) :
    Keeps k m s0 (State.setPwrTherm s v) := by
  unfold State.setPwrTherm; grind -lia -linarith -ring -order [keeps_mk_pwr]

theorem State.setPwrWake_keeps {k m s0} [Spares m .pwr] (s) (v) (h : Keeps k m s0 s) :
    Keeps k m s0 (State.setPwrWake s v) := by
  unfold State.setPwrWake; grind -lia -linarith -ring -order [keeps_mk_pwr]

theorem State.clearWake_keeps {k m s0} [Spares m .pwr] (s) (v) (h : Keeps k m s0 s) :
    Keeps k m s0 (State.clearWake s v) := by
  unfold State.clearWake; grind -lia -linarith -ring -order [keeps_mk_pwr]

theorem State.setScrub_keeps {k m s0} [Spares m .memc] (s) (v) (h : Keeps k m s0 s) :
    Keeps k m s0 (State.setScrub s v) := by
  unfold State.setScrub; grind -lia -linarith -ring -order [keeps_mk_memc]

theorem State.setRetireReq_keeps {k m s0} [Spares m .memc] (s) (st) (v) (h : Keeps k m s0 s) :
    Keeps k m s0 (State.setRetireReq s st v) := by
  unfold State.setRetireReq; grind -lia -linarith -ring -order [keeps_mk_memc]

theorem State.setVideoOff_keeps {k m s0} [Spares m .media] (s) (v) (h : Keeps k m s0 s) :
    Keeps k m s0 (State.setVideoOff s v) := by
  unfold State.setVideoOff; grind -lia -linarith -ring -order [keeps_mk_media]

theorem State.setOtherOff_keeps {k m s0} [Spares m .media] (s) (v) (h : Keeps k m s0 s) :
    Keeps k m s0 (State.setOtherOff s v) := by
  unfold State.setOtherOff; grind -lia -linarith -ring -order [keeps_mk_media]

theorem State.setCollInject_keeps {k m s0} [Spares m .collInject] (s) (v) (h : Keeps k m s0 s) :
    Keeps k m s0 (State.setCollInject s v) := by
  unfold State.setCollInject; grind -lia -linarith -ring -order [keeps_mk_collInject]

theorem State.setUpdInject_keeps {k m s0} [Spares m .updInject] (s) (v) (h : Keeps k m s0 s) :
    Keeps k m s0 (State.setUpdInject s v) := by
  unfold State.setUpdInject; grind -lia -linarith -ring -order [keeps_mk_updInject]

theorem State.extend_keeps {k m s0} [Spares m .mgmt] (s) (i) (d) (h : Keeps k m s0 s) :
    Keeps k m s0 (State.extend s i d) := by
  unfold State.extend; grind -lia -linarith -ring -order [keeps_mk_mgmt]

theorem State.setPolicy_keeps {k m s0} [Spares m .mgmt] (s) (v) (h : Keeps k m s0 s) :
    Keeps k m s0 (State.setPolicy s v) := by
  unfold State.setPolicy; grind -lia -linarith -ring -order [keeps_mk_mgmt, State.extend_keeps]

theorem State.setDbg_keeps {k m s0} [Spares m .mgmt] (s) (b) (h : Keeps k m s0 s) :
    Keeps k m s0 (State.setDbg s b) := by
  unfold State.setDbg; grind -lia -linarith -ring -order [keeps_mk_mgmt, State.extend_keeps]

theorem State.setWdt_keeps {k m s0} [Spares m .mgmt] (s) (v) (h : Keeps k m s0 s) :
    Keeps k m s0 (State.setWdt s v) := by
  unfold State.setWdt; grind -lia -linarith -ring -order [keeps_mk_mgmt]

theorem State.setPartPolicy_keeps {k m s0} [Spares m .parts] (s) (p) (v) (h : Keeps k m s0 s) :
    Keeps k m s0 (State.setPartPolicy s p v) := by
  unfold State.setPartPolicy; grind -lia -linarith -ring -order [State.updPart_keeps]

theorem State.setScratch_keeps {k m s0} [Spares m .scratch] (s) (n) (v) (h : Keeps k m s0 s) :
    Keeps k m s0 (State.setScratch s n v) := by
  unfold State.setScratch; grind -lia -linarith -ring -order [keeps_mk_scratch]

theorem State.placeRetire_keeps {k m s0} [Spares m .memc] (s) (h : Keeps k m s0 s) :
    Keeps k m s0 (State.placeRetire s) := by
  unfold State.placeRetire; grind -lia -linarith -ring -order [keeps_foldS, State.setRetireReq_keeps]

end Sys2Proof.Machine
end

