-- ==== Sys2Proof/Laws/KeepsPower.lean ====
section
/-!
SUPPORT. That each function of Machine/Power.lean keeps what a command keeps (`Keeps`, `OutKeeps`).
-/

namespace Sys2Proof.Machine

theorem State.abandonUpdate_keeps {k m s0} [Spares m .mgmt] [Spares m .fresh] (s) (h : Keeps k m s0 s) :
    Keeps k m s0 (State.abandonUpdate s) := by
  unfold State.abandonUpdate; grind -lia -linarith -ring -order [State.freeBelow_keeps, keeps_mk_mgmt]

theorem keysRise_map {α : Type} (f : α → α) : ∀ (l : List (Nat × α)) (lo : Nat),
    keysRise lo (l.map fun (e : Nat × α) => (e.1, f e.2)) = keysRise lo l
  | [], _ => rfl
  | e :: t, lo => by simp [keysRise, keysRise_map f t]

theorem State.resetAtts_wf {s t : State} (h : hostWf s = true) (e : t.atts = s.resetAtts) : hostWf t = true := by
  simp only [hostWf, twf, e, State.resetAtts, Bool.and_eq_true, List.all_eq_true, List.mem_filter, List.mem_map,
    decide_eq_true_eq] at h ⊢
  refine ⟨⟨keysRise_filter _ ((keysRise_map Attach.reset s.atts 0).trans h.1.1), fun _ g => g.2⟩, ?_⟩
  rintro _ ⟨⟨x, hx, rfl⟩, -⟩
  exact h.2 x hx

theorem State.coldReset_keeps {m s0} [Spares m .now] [Spares m .tick] [Spares m .ptp] [Spares m .rec'] [Spares m .mgmt] [Spares m .sec] [Spares m .pwr] [Spares m .pins] [Spares m .links] [Spares m .scratch] [Spares m .media] [Spares m .collInject] [Spares m .updInject] [Spares m .memc] [Spares m .mem] [Spares m .poison] [Spares m .fab] [Spares m .macs] [Spares m .chans] [Spares m .acc] [Spares m .accGen] [Spares m .res] [Spares m .clbuf] [Spares m .opbuf] [Spares m .chipFixed] [Spares m .vec] [Spares m .upd] [Spares m .atts] [Spares m .parts] [Spares m .served] [Spares m .image] [Spares m .halted] [Spares m .fresh] [Spares m .out] (s0_) (h : Keeps false m s0 s0_) :
    Keeps false m s0 (State.coldReset s0_) := by
  have g := State.abandonUpdate_keeps s0_ h
  exact ⟨fun f hf => by cases f <;> exact Spares.elim hf, g.queue, g.fuse, g.svn, fun _ => rfl, fun _ => rfl, fun hs => State.resetAtts_wf (g.host hs) rfl, g.out, g.fresh,
    fun e => by simp at e⟩

theorem State.endRepairs_keeps {k m s0} [Spares m .memc] (s) (h : Keeps k m s0 s) :
    Keeps k m s0 (State.endRepairs s) := by
  unfold State.endRepairs; grind -lia -linarith -ring -order [keeps_foldS, State.repairEnd_keeps]

theorem State.warmReset_keeps {k m s0} [Spares m .now] [Spares m .tick] [Spares m .ptp] [Spares m .rec'] [Spares m .mgmt] [Spares m .sec] [Spares m .pwr] [Spares m .pins] [Spares m .links] [Spares m .scratch] [Spares m .media] [Spares m .collInject] [Spares m .updInject] [Spares m .memc] [Spares m .mem] [Spares m .poison] [Spares m .fab] [Spares m .macs] [Spares m .chans] [Spares m .acc] [Spares m .accGen] [Spares m .res] [Spares m .clbuf] [Spares m .opbuf] [Spares m .chipFixed] [Spares m .vec] [Spares m .upd] [Spares m .atts] [Spares m .parts] [Spares m .served] [Spares m .image] [Spares m .halted] [Spares m .fresh] [Spares m .out] (s0_) (h : Keeps k m s0 s0_) :
    Keeps k m s0 (State.warmReset s0_) := by
  have g := State.endRepairs_keeps s0_ h
  have g2 := State.abandonUpdate_keeps _ g
  exact ⟨fun f hf => by cases f <;> first | exact g2.same _ hf | exact Spares.elim hf, g2.queue, g2.fuse, g2.svn, g.mem, g.poison, fun hs => State.resetAtts_wf (g2.host hs) rfl, g2.out, g2.fresh, g.halt⟩

theorem State.domainReset_keeps {m s0} [Spares m .now] [Spares m .tick] [Spares m .ptp] [Spares m .rec'] [Spares m .mgmt] [Spares m .sec] [Spares m .pwr] [Spares m .pins] [Spares m .links] [Spares m .scratch] [Spares m .media] [Spares m .collInject] [Spares m .updInject] [Spares m .memc] [Spares m .mem] [Spares m .poison] [Spares m .fab] [Spares m .macs] [Spares m .chans] [Spares m .acc] [Spares m .accGen] [Spares m .res] [Spares m .clbuf] [Spares m .opbuf] [Spares m .chipFixed] [Spares m .vec] [Spares m .upd] [Spares m .atts] [Spares m .parts] [Spares m .served] [Spares m .image] [Spares m .halted] [Spares m .fresh] [Spares m .out] (s) (h : Keeps false m s0 s) :
    Keeps false m s0 (State.domainReset s) := by
  have g := State.coldReset_keeps s h
  have g2 := State.abandonUpdate_keeps s h
  exact ⟨fun f hf => by cases f <;> exact Spares.elim hf, g.queue, g.fuse, g.svn, g.mem, g.poison, g.host, g.out, g.fresh,
    fun e => by simp at e⟩

theorem execCold_keeps {m s0} [Spares m .now] [Spares m .tick] [Spares m .ptp] [Spares m .rec'] [Spares m .mgmt] [Spares m .sec] [Spares m .pwr] [Spares m .pins] [Spares m .links] [Spares m .scratch] [Spares m .media] [Spares m .collInject] [Spares m .updInject] [Spares m .memc] [Spares m .mem] [Spares m .poison] [Spares m .fab] [Spares m .macs] [Spares m .chans] [Spares m .acc] [Spares m .accGen] [Spares m .res] [Spares m .clbuf] [Spares m .opbuf] [Spares m .chipFixed] [Spares m .vec] [Spares m .upd] [Spares m .atts] [Spares m .parts] [Spares m .served] [Spares m .image] [Spares m .halted] [Spares m .fresh] [Spares m .out] (s) (h : Keeps false m s0 s) :
    OutKeeps false m s0 (execCold s) := by
  unfold execCold; grind -lia -linarith -ring -order [State.coldReset_keeps, outKeeps_next]

theorem execWarm_keeps {k m s0} [Spares m .now] [Spares m .tick] [Spares m .ptp] [Spares m .rec'] [Spares m .mgmt] [Spares m .sec] [Spares m .pwr] [Spares m .pins] [Spares m .links] [Spares m .scratch] [Spares m .media] [Spares m .collInject] [Spares m .updInject] [Spares m .memc] [Spares m .mem] [Spares m .poison] [Spares m .fab] [Spares m .macs] [Spares m .chans] [Spares m .acc] [Spares m .accGen] [Spares m .res] [Spares m .clbuf] [Spares m .opbuf] [Spares m .chipFixed] [Spares m .vec] [Spares m .upd] [Spares m .atts] [Spares m .parts] [Spares m .served] [Spares m .image] [Spares m .halted] [Spares m .fresh] [Spares m .out] (s) (h : Keeps k m s0 s) :
    OutKeeps k m s0 (execWarm s) := by
  unfold execWarm; grind -lia -linarith -ring -order [State.warmReset_keeps, outKeeps_next]

theorem execColdResetN_keeps {m s0} [Spares m .now] [Spares m .tick] [Spares m .ptp] [Spares m .rec'] [Spares m .mgmt] [Spares m .sec] [Spares m .pwr] [Spares m .pins] [Spares m .links] [Spares m .scratch] [Spares m .media] [Spares m .collInject] [Spares m .updInject] [Spares m .memc] [Spares m .mem] [Spares m .poison] [Spares m .fab] [Spares m .macs] [Spares m .chans] [Spares m .acc] [Spares m .accGen] [Spares m .res] [Spares m .clbuf] [Spares m .opbuf] [Spares m .chipFixed] [Spares m .vec] [Spares m .upd] [Spares m .atts] [Spares m .parts] [Spares m .served] [Spares m .image] [Spares m .halted] [Spares m .fresh] [Spares m .out] (s) (h : Keeps false m s0 s) :
    OutKeeps false m s0 (execColdResetN s) := by
  unfold execColdResetN; grind -lia -linarith -ring -order [State.coldReset_keeps, outKeeps_next]

theorem execWarmResetN_keeps {k m s0} [Spares m .now] [Spares m .tick] [Spares m .ptp] [Spares m .rec'] [Spares m .mgmt] [Spares m .sec] [Spares m .pwr] [Spares m .pins] [Spares m .links] [Spares m .scratch] [Spares m .media] [Spares m .collInject] [Spares m .updInject] [Spares m .memc] [Spares m .mem] [Spares m .poison] [Spares m .fab] [Spares m .macs] [Spares m .chans] [Spares m .acc] [Spares m .accGen] [Spares m .res] [Spares m .clbuf] [Spares m .opbuf] [Spares m .chipFixed] [Spares m .vec] [Spares m .upd] [Spares m .atts] [Spares m .parts] [Spares m .served] [Spares m .image] [Spares m .halted] [Spares m .fresh] [Spares m .out] (s) (h : Keeps k m s0 s) :
    OutKeeps k m s0 (execWarmResetN s) := by
  unfold execWarmResetN; grind -lia -linarith -ring -order [State.warmReset_keeps, outKeeps_next]

theorem State.aonReset_keeps {m s0} [Spares m .now] [Spares m .tick] [Spares m .ptp] [Spares m .rec'] [Spares m .mgmt] [Spares m .sec] [Spares m .pwr] [Spares m .pins] [Spares m .links] [Spares m .scratch] [Spares m .media] [Spares m .collInject] [Spares m .updInject] [Spares m .memc] [Spares m .mem] [Spares m .poison] [Spares m .fab] [Spares m .macs] [Spares m .chans] [Spares m .acc] [Spares m .accGen] [Spares m .res] [Spares m .clbuf] [Spares m .opbuf] [Spares m .chipFixed] [Spares m .vec] [Spares m .upd] [Spares m .atts] [Spares m .parts] [Spares m .served] [Spares m .image] [Spares m .halted] [Spares m .fresh] [Spares m .out] (s) (release) (h : Keeps false m s0 s) :
    Keeps false m s0 (State.aonReset s release) := by
  unfold State.aonReset; grind -lia -linarith -ring -order [keeps_mk_tick_mgmt_pins, State.coldReset_keeps]

theorem execAonResetN_keeps {m s0} [Spares m .now] [Spares m .tick] [Spares m .ptp] [Spares m .rec'] [Spares m .mgmt] [Spares m .sec] [Spares m .pwr] [Spares m .pins] [Spares m .links] [Spares m .scratch] [Spares m .media] [Spares m .collInject] [Spares m .updInject] [Spares m .memc] [Spares m .mem] [Spares m .poison] [Spares m .fab] [Spares m .macs] [Spares m .chans] [Spares m .acc] [Spares m .accGen] [Spares m .res] [Spares m .clbuf] [Spares m .opbuf] [Spares m .chipFixed] [Spares m .vec] [Spares m .upd] [Spares m .atts] [Spares m .parts] [Spares m .served] [Spares m .image] [Spares m .halted] [Spares m .fresh] [Spares m .out] (release) (s) (h : Keeps false m s0 s) :
    OutKeeps false m s0 (execAonResetN release s) := by
  unfold execAonResetN; grind -lia -linarith -ring -order [State.aonReset_keeps, outKeeps_next]

theorem execAlwaysOnRailLoss_keeps {m s0} [Spares m .now] [Spares m .tick] [Spares m .ptp] [Spares m .rec'] [Spares m .mgmt] [Spares m .sec] [Spares m .pwr] [Spares m .pins] [Spares m .links] [Spares m .scratch] [Spares m .media] [Spares m .collInject] [Spares m .updInject] [Spares m .memc] [Spares m .mem] [Spares m .poison] [Spares m .fab] [Spares m .macs] [Spares m .chans] [Spares m .acc] [Spares m .accGen] [Spares m .res] [Spares m .clbuf] [Spares m .opbuf] [Spares m .chipFixed] [Spares m .vec] [Spares m .upd] [Spares m .atts] [Spares m .parts] [Spares m .served] [Spares m .image] [Spares m .halted] [Spares m .fresh] [Spares m .out] (s) (h : Keeps false m s0 s) :
    OutKeeps false m s0 (execAlwaysOnRailLoss s) := by
  unfold execAlwaysOnRailLoss; grind -lia -linarith -ring -order [State.aonReset_keeps, keeps_mk_rec, outKeeps_next, State.coldReset_keeps]

theorem State.holdDomains_keeps {m s0} [Spares m .now] [Spares m .tick] [Spares m .ptp] [Spares m .rec'] [Spares m .mgmt] [Spares m .sec] [Spares m .pwr] [Spares m .pins] [Spares m .links] [Spares m .scratch] [Spares m .media] [Spares m .collInject] [Spares m .updInject] [Spares m .memc] [Spares m .mem] [Spares m .poison] [Spares m .fab] [Spares m .macs] [Spares m .chans] [Spares m .acc] [Spares m .accGen] [Spares m .res] [Spares m .clbuf] [Spares m .opbuf] [Spares m .chipFixed] [Spares m .vec] [Spares m .upd] [Spares m .atts] [Spares m .parts] [Spares m .served] [Spares m .image] [Spares m .halted] [Spares m .fresh] [Spares m .out] (s) (h : Keeps false m s0 s) :
    Keeps false m s0 (State.holdDomains s) := by
  unfold State.holdDomains; grind -lia -linarith -ring -order [State.domainReset_keeps, keeps_mk_tick_pins]

theorem State.freeDomains_keeps {m s0} [Spares m .now] [Spares m .tick] [Spares m .ptp] [Spares m .rec'] [Spares m .mgmt] [Spares m .sec] [Spares m .pwr] [Spares m .pins] [Spares m .links] [Spares m .scratch] [Spares m .media] [Spares m .collInject] [Spares m .updInject] [Spares m .memc] [Spares m .mem] [Spares m .poison] [Spares m .fab] [Spares m .macs] [Spares m .chans] [Spares m .acc] [Spares m .accGen] [Spares m .res] [Spares m .clbuf] [Spares m .opbuf] [Spares m .chipFixed] [Spares m .vec] [Spares m .upd] [Spares m .atts] [Spares m .parts] [Spares m .served] [Spares m .image] [Spares m .halted] [Spares m .fresh] [Spares m .out] (s) (h : Keeps false m s0 s) :
    Keeps false m s0 (State.freeDomains s) := by
  unfold State.freeDomains; grind -lia -linarith -ring -order [State.domainReset_keeps, keeps_mk_tick_pins, keeps_mk_pins]

theorem execMainPwrgd_keeps {m s0} [Spares m .now] [Spares m .tick] [Spares m .ptp] [Spares m .rec'] [Spares m .mgmt] [Spares m .sec] [Spares m .pwr] [Spares m .pins] [Spares m .links] [Spares m .scratch] [Spares m .media] [Spares m .collInject] [Spares m .updInject] [Spares m .memc] [Spares m .mem] [Spares m .poison] [Spares m .fab] [Spares m .macs] [Spares m .chans] [Spares m .acc] [Spares m .accGen] [Spares m .res] [Spares m .clbuf] [Spares m .opbuf] [Spares m .chipFixed] [Spares m .vec] [Spares m .upd] [Spares m .atts] [Spares m .parts] [Spares m .served] [Spares m .image] [Spares m .halted] [Spares m .fresh] [Spares m .out] (up) (s) (h : Keeps false m s0 s) :
    OutKeeps false m s0 (execMainPwrgd up s) := by
  unfold execMainPwrgd; grind -lia -linarith -ring -order [keeps_mk_pins, State.freeDomains_keeps, State.holdDomains_keeps, outKeeps_next]

theorem execRefclk100Loss_keeps {m s0} [Spares m .now] [Spares m .tick] [Spares m .ptp] [Spares m .rec'] [Spares m .mgmt] [Spares m .sec] [Spares m .pwr] [Spares m .pins] [Spares m .links] [Spares m .scratch] [Spares m .media] [Spares m .collInject] [Spares m .updInject] [Spares m .memc] [Spares m .mem] [Spares m .poison] [Spares m .fab] [Spares m .macs] [Spares m .chans] [Spares m .acc] [Spares m .accGen] [Spares m .res] [Spares m .clbuf] [Spares m .opbuf] [Spares m .chipFixed] [Spares m .vec] [Spares m .upd] [Spares m .atts] [Spares m .parts] [Spares m .served] [Spares m .image] [Spares m .halted] [Spares m .fresh] [Spares m .out] (s) (h : Keeps false m s0 s) :
    OutKeeps false m s0 (execRefclk100Loss s) := by
  unfold execRefclk100Loss; grind -lia -linarith -ring -order [State.holdDomains_keeps, keeps_mk_pins, outKeeps_next]

theorem execRefclk100Return_keeps {m s0} [Spares m .now] [Spares m .tick] [Spares m .ptp] [Spares m .rec'] [Spares m .mgmt] [Spares m .sec] [Spares m .pwr] [Spares m .pins] [Spares m .links] [Spares m .scratch] [Spares m .media] [Spares m .collInject] [Spares m .updInject] [Spares m .memc] [Spares m .mem] [Spares m .poison] [Spares m .fab] [Spares m .macs] [Spares m .chans] [Spares m .acc] [Spares m .accGen] [Spares m .res] [Spares m .clbuf] [Spares m .opbuf] [Spares m .chipFixed] [Spares m .vec] [Spares m .upd] [Spares m .atts] [Spares m .parts] [Spares m .served] [Spares m .image] [Spares m .halted] [Spares m .fresh] [Spares m .out] (s) (h : Keeps false m s0 s) :
    OutKeeps false m s0 (execRefclk100Return s) := by
  unfold execRefclk100Return; grind -lia -linarith -ring -order [State.freeDomains_keeps, keeps_mk_pins, outKeeps_next]

theorem execRefclk156Loss_keeps {k m s0} [Spares m .rec'] [Spares m .pins] [Spares m .macs] (s) (h : Keeps k m s0 s) :
    OutKeeps k m s0 (execRefclk156Loss s) := by
  unfold execRefclk156Loss; grind -lia -linarith -ring -order [keeps_foldS, State.setLink_keeps, keeps_mk_pins, outKeeps_next]

theorem execRefclk156Return_keeps {k m s0} [Spares m .pins] (s) (h : Keeps k m s0 s) :
    OutKeeps k m s0 (execRefclk156Return s) := by
  unfold execRefclk156Return; grind -lia -linarith -ring -order [keeps_mk_pins, outKeeps_next]

theorem execRefclk25Loss_keeps {k m s0} [Spares m .pins] (s) (h : Keeps k m s0 s) :
    OutKeeps k m s0 (execRefclk25Loss s) := by
  unfold execRefclk25Loss; grind -lia -linarith -ring -order [keeps_mk_pins, outKeeps_next]

theorem execRefclk25Return_keeps {k m s0} [Spares m .pins] (s) (h : Keeps k m s0 s) :
    OutKeeps k m s0 (execRefclk25Return s) := by
  unfold execRefclk25Return; grind -lia -linarith -ring -order [keeps_mk_pins, outKeeps_next]

theorem State.restoreImage_keeps {k m s0} [Spares m .tick] [Spares m .mgmt] [Spares m .pwr] [Spares m .links] [Spares m .scratch] [Spares m .media] [Spares m .collInject] [Spares m .updInject] [Spares m .memc] [Spares m .fab] [Spares m .parts] [Spares m .image] (s) (i) (h : Keeps k m s0 s) :
    Keeps k m s0 (State.restoreImage s i) := by
  unfold State.restoreImage; grind -lia -linarith -ring -order [keeps_foldS, State.updPart_keeps, keeps_mk_tick_mgmt_pwr_links_scratch_media_collInject_updInject_memc_fab_image]

theorem State.dropLink_keeps {k m s0} [Spares m .rec'] [Spares m .atts] [Spares m .parts] [Spares m .out] (s) (att) (h : Keeps k m s0 s) :
    Keeps k m s0 (State.dropLink s att) := by
  unfold State.dropLink; grind -lia -linarith -ring -order [State.attLink_keeps, State.emit_keeps]

theorem State.enter_keeps {k m s0} [Spares m .rec'] [Spares m .pwr] [Spares m .atts] [Spares m .parts] [Spares m .image] [Spares m .out] (s) (target) (h : Keeps k m s0 s) :
    Keeps k m s0 (State.enter s target) := by
  unfold State.enter; grind -lia -linarith -ring -order [keeps_foldS, State.dropLink_keeps, keeps_mk_pwr_image]

theorem State.beginExit_keeps {m s0} [Spares m .now] [Spares m .tick] [Spares m .ptp] [Spares m .rec'] [Spares m .mgmt] [Spares m .sec] [Spares m .pwr] [Spares m .pins] [Spares m .links] [Spares m .scratch] [Spares m .media] [Spares m .collInject] [Spares m .updInject] [Spares m .memc] [Spares m .mem] [Spares m .poison] [Spares m .fab] [Spares m .macs] [Spares m .chans] [Spares m .acc] [Spares m .accGen] [Spares m .res] [Spares m .clbuf] [Spares m .opbuf] [Spares m .chipFixed] [Spares m .vec] [Spares m .upd] [Spares m .atts] [Spares m .parts] [Spares m .served] [Spares m .image] [Spares m .halted] [Spares m .fresh] [Spares m .out] (s) (h : Keeps false m s0 s) :
    Keeps false m s0 (State.beginExit s) := by
  unfold State.beginExit; grind -lia -linarith -ring -order [State.coldReset_keeps, State.restoreImage_keeps, keeps_mk_pwr_memc]

theorem State.goWrite_keeps {m s0} [Spares m .now] [Spares m .tick] [Spares m .ptp] [Spares m .rec'] [Spares m .mgmt] [Spares m .sec] [Spares m .pwr] [Spares m .pins] [Spares m .links] [Spares m .scratch] [Spares m .media] [Spares m .collInject] [Spares m .updInject] [Spares m .memc] [Spares m .mem] [Spares m .poison] [Spares m .fab] [Spares m .macs] [Spares m .chans] [Spares m .acc] [Spares m .accGen] [Spares m .res] [Spares m .clbuf] [Spares m .opbuf] [Spares m .chipFixed] [Spares m .vec] [Spares m .upd] [Spares m .atts] [Spares m .parts] [Spares m .served] [Spares m .image] [Spares m .halted] [Spares m .fresh] [Spares m .out] (s) (v) (h : Keeps false m s0 s) :
    Keeps false m s0 (State.goWrite s v) := by
  unfold State.goWrite; grind -lia -linarith -ring -order [keeps_mk_pwr, State.enter_keeps, State.beginExit_keeps]

theorem execGo_keeps {m s0} [Spares m .now] [Spares m .tick] [Spares m .ptp] [Spares m .rec'] [Spares m .mgmt] [Spares m .sec] [Spares m .pwr] [Spares m .pins] [Spares m .links] [Spares m .scratch] [Spares m .media] [Spares m .collInject] [Spares m .updInject] [Spares m .memc] [Spares m .mem] [Spares m .poison] [Spares m .fab] [Spares m .macs] [Spares m .chans] [Spares m .acc] [Spares m .accGen] [Spares m .res] [Spares m .clbuf] [Spares m .opbuf] [Spares m .chipFixed] [Spares m .vec] [Spares m .upd] [Spares m .atts] [Spares m .parts] [Spares m .served] [Spares m .image] [Spares m .halted] [Spares m .fresh] [Spares m .out] (value) (s) (h : Keeps false m s0 s) :
    OutKeeps false m s0 (execGo value s) := by
  unfold execGo; grind -lia -linarith -ring -order [State.goWrite_keeps, outKeeps_next]

theorem State.switchOff_keeps {k m s0} [Spares m .tick] [Spares m .ptp] [Spares m .sec] [Spares m .pwr] [Spares m .links] [Spares m .media] [Spares m .collInject] [Spares m .updInject] [Spares m .memc] [Spares m .mem] [Spares m .poison] [Spares m .fab] [Spares m .macs] [Spares m .chans] [Spares m .acc] [Spares m .accGen] [Spares m .res] [Spares m .clbuf] [Spares m .opbuf] [Spares m .chipFixed] [Spares m .vec] [Spares m .upd] [Spares m .atts] [Spares m .parts] [Spares m .served] (s) (target) (h : Keeps k m s0 s) :
    Keeps k m s0 (State.switchOff s target) := by
  rw [State.switchOff]
  refine ⟨fun f hf => by cases f <;> first | exact h.same _ hf | exact Spares.elim hf, h.queue, h.fuse, h.svn, fun hs => ?_, fun hs => ?_, fun hs => State.resetAtts_wf (h.host hs) rfl, h.out, h.fresh, h.halt⟩
  · show Memory.wf (if decide (target = 1) = true then s.mem else []) = true
    split
    · exact h.mem hs
    · rfl
  · show srise 0 (if decide (target = 1) = true then s.poison else []) = true
    split
    · exact h.poison hs
    · rfl

theorem State.sleepNow_keeps {k m s0} [Spares m .tick] [Spares m .ptp] [Spares m .rec'] [Spares m .sec] [Spares m .pwr] [Spares m .links] [Spares m .media] [Spares m .collInject] [Spares m .updInject] [Spares m .memc] [Spares m .mem] [Spares m .poison] [Spares m .fab] [Spares m .macs] [Spares m .chans] [Spares m .acc] [Spares m .accGen] [Spares m .res] [Spares m .clbuf] [Spares m .opbuf] [Spares m .chipFixed] [Spares m .vec] [Spares m .upd] [Spares m .atts] [Spares m .parts] [Spares m .served] [Spares m .image] [Spares m .fresh] (s) (target) (h : Keeps k m s0 s) :
    Keeps k m s0 (State.sleepNow s target) := by
  unfold State.sleepNow; grind -lia -linarith -ring -order [State.freeBelow_keeps, State.switchOff_keeps, State.record_keeps, keeps_mk_pwr_image]

theorem State.sleepHalted_keeps {k m s0} [Spares m .tick] [Spares m .ptp] [Spares m .sec] [Spares m .pwr] [Spares m .links] [Spares m .media] [Spares m .collInject] [Spares m .updInject] [Spares m .memc] [Spares m .mem] [Spares m .poison] [Spares m .fab] [Spares m .macs] [Spares m .chans] [Spares m .acc] [Spares m .accGen] [Spares m .res] [Spares m .clbuf] [Spares m .opbuf] [Spares m .chipFixed] [Spares m .vec] [Spares m .upd] [Spares m .atts] [Spares m .parts] [Spares m .served] (s) (h : Keeps k m s0 s) :
    Keeps k m s0 (State.sleepHalted s) := by
  unfold State.sleepHalted; grind -lia -linarith -ring -order [State.switchOff_keeps, keeps_mk_pwr_memc, keeps_mk_pwr]

theorem execPackageStateEntered_keeps {k m s0} [Spares m .tick] [Spares m .ptp] [Spares m .rec'] [Spares m .sec] [Spares m .pwr] [Spares m .links] [Spares m .media] [Spares m .collInject] [Spares m .updInject] [Spares m .memc] [Spares m .mem] [Spares m .poison] [Spares m .fab] [Spares m .macs] [Spares m .chans] [Spares m .acc] [Spares m .accGen] [Spares m .res] [Spares m .clbuf] [Spares m .opbuf] [Spares m .chipFixed] [Spares m .vec] [Spares m .upd] [Spares m .atts] [Spares m .parts] [Spares m .served] [Spares m .image] [Spares m .fresh] (s) (h : Keeps k m s0 s) :
    OutKeeps k m s0 (execPackageStateEntered s) := by
  unfold execPackageStateEntered; grind -lia -linarith -ring -order [State.sleepHalted_keeps, State.sleepNow_keeps, outKeeps_next]

theorem State.exitDone_keeps {m s0} [Spares m .now] [Spares m .tick] [Spares m .ptp] [Spares m .rec'] [Spares m .mgmt] [Spares m .sec] [Spares m .pwr] [Spares m .pins] [Spares m .links] [Spares m .scratch] [Spares m .media] [Spares m .collInject] [Spares m .updInject] [Spares m .memc] [Spares m .mem] [Spares m .poison] [Spares m .fab] [Spares m .macs] [Spares m .chans] [Spares m .acc] [Spares m .accGen] [Spares m .res] [Spares m .clbuf] [Spares m .opbuf] [Spares m .chipFixed] [Spares m .vec] [Spares m .upd] [Spares m .atts] [Spares m .parts] [Spares m .served] [Spares m .image] [Spares m .halted] [Spares m .fresh] [Spares m .out] (s) (h : Keeps false m s0 s) :
    Keeps false m s0 (State.exitDone s) := by
  unfold State.exitDone; grind -lia -linarith -ring -order [State.record_keeps, keeps_mk_tick_pwr_fab_parts, State.holdDomains_keeps]

theorem execPackageStateExitComplete_keeps {m s0} [Spares m .now] [Spares m .tick] [Spares m .ptp] [Spares m .rec'] [Spares m .mgmt] [Spares m .sec] [Spares m .pwr] [Spares m .pins] [Spares m .links] [Spares m .scratch] [Spares m .media] [Spares m .collInject] [Spares m .updInject] [Spares m .memc] [Spares m .mem] [Spares m .poison] [Spares m .fab] [Spares m .macs] [Spares m .chans] [Spares m .acc] [Spares m .accGen] [Spares m .res] [Spares m .clbuf] [Spares m .opbuf] [Spares m .chipFixed] [Spares m .vec] [Spares m .upd] [Spares m .atts] [Spares m .parts] [Spares m .served] [Spares m .image] [Spares m .halted] [Spares m .fresh] [Spares m .out] (s) (h : Keeps false m s0 s) :
    OutKeeps false m s0 (execPackageStateExitComplete s) := by
  unfold execPackageStateExitComplete; grind -lia -linarith -ring -order [State.exitDone_keeps, outKeeps_next]

theorem State.wake_keeps {k m s0} [Spares m .pwr] (s) (bit) (h : Keeps k m s0 s) :
    Keeps k m s0 (State.wake s bit) := by
  unfold State.wake; grind -lia -linarith -ring -order [keeps_mk_pwr]

theorem execWakeAddressMatch_keeps {k m s0} [Spares m .pwr] (addr) (s) (h : Keeps k m s0 s) :
    OutKeeps k m s0 (execWakeAddressMatch addr s) := by
  unfold execWakeAddressMatch; grind -lia -linarith -ring -order [State.wake_keeps, outKeeps_next]

theorem execThermalAlert_keeps {k m s0} [Spares m .pwr] (temp) (s) (h : Keeps k m s0 s) :
    OutKeeps k m s0 (execThermalAlert temp s) := by
  unfold execThermalAlert; grind -lia -linarith -ring -order [State.wake_keeps, outKeeps_next]

theorem execRelease_keeps {k m s0} [Spares m .pwr] (value) (s) (h : Keeps k m s0 s) :
    OutKeeps k m s0 (execRelease value s) := by
  unfold execRelease; grind -lia -linarith -ring -order [keeps_mk_pwr, outKeeps_next]

end Sys2Proof.Machine
end

