-- ==== Sys2Proof/Laws/KeepsFirmware.lean ====
section
/-!
SUPPORT. That each function of Machine/Firmware.lean keeps what a command keeps (`Keeps`, `OutKeeps`).
-/

namespace Sys2Proof.Machine

theorem State.freezeRec_keeps {k m s0} [Spares m .rec'] (s) (h : Keeps k m s0 s) :
    Keeps k m s0 (State.freezeRec s) := by
  unfold State.freezeRec; grind -lia -linarith -ring -order [keeps_mk_rec]

theorem State.spill_keeps {k m s0} [Spares m .mem] [Spares m .poison] (s) (k_) (h : Keeps k m s0 s) :
    Keeps k m s0 (State.spill s k_) := by
  unfold State.spill; grind -lia -linarith -ring -order [keeps_foldS, State.wrBytes_keeps, State.zeroRange_keeps]

theorem State.unfreezeRec_keeps {k m s0} [Spares m .rec'] [Spares m .mem] [Spares m .poison] (s) (h : Keeps k m s0 s) :
    Keeps k m s0 (State.unfreezeRec s) := by
  unfold State.unfreezeRec; grind -lia -linarith -ring -order [State.spill_keeps, keeps_mk_rec]

theorem execFreeze_keeps {k m s0} [Spares m .rec'] (s) (h : Keeps k m s0 s) :
    OutKeeps k m s0 (execFreeze s) := by
  unfold execFreeze; grind -lia -linarith -ring -order [State.freezeRec_keeps, outKeeps_next]

theorem execUnfreeze_keeps {k m s0} [Spares m .rec'] [Spares m .mem] [Spares m .poison] (s) (h : Keeps k m s0 s) :
    OutKeeps k m s0 (execUnfreeze s) := by
  unfold execUnfreeze; grind -lia -linarith -ring -order [State.unfreezeRec_keeps, outKeeps_next]

theorem State.drainOne_keeps {k m s0} [Spares m .rec'] [Spares m .mem] [Spares m .poison] (s) (h : Keeps k m s0 s) :
    Keeps k m s0 (State.drainOne s) := by
  unfold State.drainOne; grind -lia -linarith -ring -order [State.wrBytes_keeps, keeps_mk_rec]

theorem State.drain_keeps {k m s0} [Spares m .rec'] [Spares m .mem] [Spares m .poison] : ∀ (n : Nat) (s : State), Keeps k m s0 s → Keeps k m s0 (s.drain n)
  | 0, _, h => h
  | n + 1, s, h => by
    rw [State.drain]; exact State.drain_keeps n _ (State.drainOne_keeps _ h)

theorem execRecorderDrain_keeps {k m s0} [Spares m .rec'] [Spares m .mem] [Spares m .poison] (count) (s) (h : Keeps k m s0 s) :
    OutKeeps k m s0 (execRecorderDrain count s) := by
  unfold execRecorderDrain; grind -lia -linarith -ring -order [State.drain_keeps, outKeeps_next]

theorem State.recover_keeps {k m s0} [Spares m .tick] [Spares m .mgmt] (s) (h : Keeps k m s0 s) :
    Keeps k m s0 (State.recover s) := by
  unfold State.recover; grind -lia -linarith -ring -order [keeps_mk_tick_mgmt]

theorem State.expire_keeps {k m s0} [Spares m .now] [Spares m .tick] [Spares m .rec'] [Spares m .mgmt] [Spares m .parts] [Spares m .fresh] (s0_) (t) (h : Keeps k m s0 s0_) :
    Keeps k m s0 (State.expire s0_ t) := by
  unfold State.expire; grind -lia -linarith -ring -order [State.abandonUpdate_keeps, State.record_keeps, State.advance_keeps, State.recover_keeps, keeps_mk_mgmt]

theorem execWatchdogExpiry_keeps {k m s0} [Spares m .now] [Spares m .tick] [Spares m .rec'] [Spares m .mgmt] [Spares m .parts] [Spares m .fresh] (t) (s) (h : Keeps k m s0 s) :
    OutKeeps k m s0 (execWatchdogExpiry t s) := by
  unfold execWatchdogExpiry; grind -lia -linarith -ring -order [State.expire_keeps, outKeeps_next]

theorem execKick_keeps {k m s0} [Spares m .mgmt] (s) (h : Keeps k m s0 s) :
    OutKeeps k m s0 (execKick s) := by
  unfold execKick; grind -lia -linarith -ring -order [keeps_mk_mgmt, outKeeps_next]

theorem execManagementEccError_keeps {k m s0} [Spares m .now] [Spares m .tick] [Spares m .rec'] [Spares m .mgmt] [Spares m .parts] [Spares m .fresh] (uncorrectable) (t) (s) (h : Keeps k m s0 s) :
    OutKeeps k m s0 (execManagementEccError uncorrectable t s) := by
  unfold execManagementEccError; grind -lia -linarith -ring -order [State.expire_keeps, State.record_keeps, State.advance_keeps, outKeeps_next]

theorem State.freeImage_keeps {k m s0} [Spares m .fresh] (s) (b) (h : Keeps k m s0 s) :
    Keeps k m s0 (State.freeImage s b).2 := by
  unfold State.freeImage
  repeat' first
    | with_reducible assumption
    | with_reducible apply State.freeBelow_keeps
    | with_reducible apply State.free_keeps
    | exact State.freeBelow_keeps' ‹_› ‹_›
    | refine State.freeBelow_keeps' ‹_› ?_
    | exact State.free_keeps' ‹_› ‹_›
    | refine State.free_keeps' ‹_› ?_
    | intro _
    | split
    | dsimp only
theorem State.freeImage_keeps' {k m s0} [Spares m .fresh] {s} {b} {x t} (eq_ : State.freeImage s b = (x, t)) (h : Keeps k m s0 s) : Keeps k m s0 t := by
  have g := State.freeImage_keeps s b h
  rw [eq_] at g; exact g

theorem State.bootImage_keeps {k m s0} [Spares m .fresh] (s) (b) (h : Keeps k m s0 s) :
    Keeps k m s0 (State.bootImage s b).2 := by
  unfold State.bootImage; grind -lia -linarith -ring -order [State.freeImage_keeps]
theorem State.bootImage_keeps' {k m s0} [Spares m .fresh] {s} {b} {x t} (eq_ : State.bootImage s b = (x, t)) (h : Keeps k m s0 s) : Keeps k m s0 t := by
  have g := State.bootImage_keeps s b h
  rw [eq_] at g; exact g

theorem State.toRecovery_keeps {k m s0} [Spares m .tick] [Spares m .rec'] [Spares m .mgmt] (s) (h : Keeps k m s0 s) :
    Keeps k m s0 (State.toRecovery s) := by
  unfold State.toRecovery; grind -lia -linarith -ring -order [State.recover_keeps, State.record_keeps, keeps_mk_tick_mgmt]

theorem State.stageRuns_keeps {k m s0} [Spares m .mgmt] (s) (i) (h : Keeps k m s0 s) :
    Keeps k m s0 (State.stageRuns s i) := by
  unfold State.stageRuns; grind -lia -linarith -ring -order [State.extend_keeps, keeps_mk_mgmt]

theorem State.commitSvn_keeps {k m s0} [Spares m .rec'] (s) (i) (h : Keeps k m s0 s) :
    Keeps k m s0 (State.commitSvn s i) := by
  rw [State.commitSvn]
  split
  · rename_i hc
    apply State.record_keeps
    have hc : s.fuse.svn < i.svn := by simpa using (Bool.and_eq_true_iff.1 hc).2
    exact ⟨fun f hf => by cases f <;> first | exact h.same _ hf | exact Spares.elim hf, h.queue, by rw [h.fuse], Nat.le_trans h.svn (Nat.le_of_lt hc), h.mem, h.poison, h.host, h.out, h.fresh, h.halt⟩
  · exact h

theorem State.readRecord_keeps {k m s0} [Spares m .mgmt] (s) (ok) (h : Keeps k m s0 s) :
    Keeps k m s0 (State.readRecord s ok) := by
  unfold State.readRecord; grind -lia -linarith -ring -order [keeps_mk_mgmt]

theorem State.loadRetire_keeps {k m s0} [Spares m .mgmt] [Spares m .memc] (s) (ok) (h : Keeps k m s0 s) :
    Keeps k m s0 (State.loadRetire s ok) := by
  unfold State.loadRetire; grind -lia -linarith -ring -order [State.readRecord_keeps, State.placeRetire_keeps]

theorem execTrain_keeps {k m s0} [Spares m .memc] (s) (h : Keeps k m s0 s) :
    OutKeeps k m s0 (execTrain s) := by
  unfold execTrain; grind -lia -linarith -ring -order [State.placeRetire_keeps, keeps_mk_memc, outKeeps_next]

theorem State.placeComponents_keeps {k m s0} [Spares m .mem] [Spares m .poison] (s) (h : Keeps k m s0 s) :
    Keeps k m s0 (State.placeComponents s) := by
  unfold State.placeComponents; grind -lia -linarith -ring -order [State.wrBytes_keeps]

theorem State.loadAll_keeps {k m s0} [Spares m .rec'] [Spares m .mgmt] [Spares m .memc] [Spares m .mem] [Spares m .poison] [Spares m .fab] (s) (i) (b) (h : Keeps k m s0 s) :
    Keeps k m s0 (State.loadAll s i b) := by
  rw [State.loadAll]
  split
  · exact State.record_keeps _ _ _ _ _ _ _ (keeps_mk_mgmt h)
  · refine keeps_ite (State.record_keeps _ _ _ _ _ _ _ (keeps_mk_mgmt h)) ?_
    refine State.placeComponents_keeps _ (State.settleStart_keeps _ (keeps_mk_fab (State.loadRetire_keeps _ _
      (State.record_keeps _ _ _ _ _ _ _ (State.commitSvn_keeps _ _ ?_)))))
    exact keeps_foldS (fun t d ht => State.extend_keeps t 3 d ht) (keeps_mk_mgmt h)

theorem State.fwuFail_keeps {k m s0} [Spares m .parts] (s) (p) (code) (h : Keeps k m s0 s) :
    Keeps k m s0 (State.fwuFail s p code) := by
  unfold State.fwuFail; grind -lia -linarith -ring -order [State.updPart_keeps]

theorem State.fwuTake_keeps {k m s0} [Spares m .rec'] [Spares m .mgmt] [Spares m .mem] [Spares m .poison] [Spares m .parts] (s) (p) (h : Keeps k m s0 s) :
    Keeps k m s0 (State.fwuTake s p) := by
  unfold State.fwuTake; grind -lia -linarith -ring -order [State.record_keeps, State.fwuFail_keeps, State.wrBytes_keeps, keeps_mk_mgmt]

theorem State.fwuStart_keeps {k m s0} [Spares m .rec'] [Spares m .mgmt] [Spares m .mem] [Spares m .poison] [Spares m .parts] (s) (p) (v) (h : Keeps k m s0 s) :
    Keeps k m s0 (State.fwuStart s p v) := by
  unfold State.fwuStart; grind -lia -linarith -ring -order [State.setPart_keeps, State.updPart_keeps, State.fwuTake_keeps, State.record_keeps, State.fwuFail_keeps, State.wrBytes_keeps, keeps_mk_mgmt]

theorem State.resumeUpdates_keeps {k m s0} [Spares m .rec'] [Spares m .mgmt] [Spares m .mem] [Spares m .poison] [Spares m .parts] (s) (h : Keeps k m s0 s) :
    Keeps k m s0 (State.resumeUpdates s) := by
  unfold State.resumeUpdates; grind -lia -linarith -ring -order [keeps_foldS, State.fwuTake_keeps]

theorem State.loadOrWait_keeps {k m s0} [Spares m .rec'] [Spares m .mgmt] [Spares m .memc] [Spares m .mem] [Spares m .poison] [Spares m .fab] (s) (i) (b) (h : Keeps k m s0 s) :
    Keeps k m s0 (State.loadOrWait s i b) := by
  unfold State.loadOrWait; grind -lia -linarith -ring -order [State.loadAll_keeps, keeps_mk_mgmt]

theorem State.stageGoes_keeps {k m s0} [Spares m .rec'] [Spares m .mgmt] [Spares m .memc] [Spares m .mem] [Spares m .poison] [Spares m .fab] (s) (i) (b) (h : Keeps k m s0 s) :
    Keeps k m s0 (State.stageGoes s i b) := by
  unfold State.stageGoes; grind -lia -linarith -ring -order [State.record_keeps, State.loadOrWait_keeps, keeps_mk_mgmt]

theorem State.boot_keeps {k m s0} [Spares m .tick] [Spares m .rec'] [Spares m .mgmt] [Spares m .memc] [Spares m .mem] [Spares m .poison] [Spares m .fab] [Spares m .parts] [Spares m .fresh] (s) (b) (h : Keeps k m s0 s) :
    Keeps k m s0 (State.boot s b) := by
  unfold State.boot; grind -lia -linarith -ring -order [State.bootImage_keeps, State.loadOrWait_keeps, State.toRecovery_keeps, State.resumeUpdates_keeps, State.stageGoes_keeps, State.stageRuns_keeps, State.loadAll_keeps, keeps_mk_mgmt, State.record_keeps]

theorem execBootComplete_keeps {k m s0} [Spares m .tick] [Spares m .rec'] [Spares m .mgmt] [Spares m .memc] [Spares m .mem] [Spares m .poison] [Spares m .fab] [Spares m .parts] [Spares m .fresh] (b) (s) (h : Keeps k m s0 s) :
    OutKeeps k m s0 (execBootComplete b s) := by
  unfold execBootComplete; grind -lia -linarith -ring -order [State.boot_keeps, outKeeps_next]

theorem State.endFwu_keeps {k m s0} [Spares m .mem] [Spares m .poison] [Spares m .parts] (s) (f) (code) (h : Keeps k m s0 s) :
    Keeps k m s0 (State.endFwu s f code) := by
  unfold State.endFwu; grind -lia -linarith -ring -order [State.updPart_keeps, State.testWaits_keeps, State.wrN_keeps]

theorem State.updateEnds_keeps {k m s0} [Spares m .rec'] [Spares m .mgmt] [Spares m .mem] [Spares m .poison] [Spares m .parts] (s) (code) (erased) (h : Keeps k m s0 s) :
    Keeps k m s0 (State.updateEnds s code erased) := by
  unfold State.updateEnds; grind -lia -linarith -ring -order [keeps_mk_mgmt, State.endFwu_keeps, State.record_keeps]

theorem execFirmwareUpdateComplete_keeps {k m s0} [Spares m .rec'] [Spares m .mgmt] [Spares m .memc] [Spares m .mem] [Spares m .poison] [Spares m .chipFixed] [Spares m .parts] [Spares m .fresh] [Spares m .out] (code) (erased) (s) (h : Keeps k m s0 s) :
    OutKeeps k m s0 (execFirmwareUpdateComplete code erased s) := by
  unfold execFirmwareUpdateComplete; grind -lia -linarith -ring -order [State.updateEnds_keeps, State.findAll_keeps, outKeeps_next]

theorem execPartFwuCmd_keeps {k m s0} [Spares m .rec'] [Spares m .mgmt] [Spares m .memc] [Spares m .mem] [Spares m .poison] [Spares m .chipFixed] [Spares m .parts] [Spares m .fresh] [Spares m .out] (h_) (v) (s) (h : Keeps k m s0 s) :
    OutKeeps k m s0 (execPartFwuCmd h_ v s) := by
  unfold execPartFwuCmd; grind -lia -linarith -ring -order [State.pageWrite_keeps, State.fwuStart_keeps, State.findAll_keeps, outKeeps_next]

theorem State.mctp_keeps {k m s0} [Spares m .out] (s) (typ) (code) (data) (h : Keeps k m s0 s) :
    Keeps k m s0 (State.mctp s typ code data) := by
  unfold State.mctp; grind -lia -linarith -ring -order [State.emit_keeps]

theorem execRequestUpdate_keeps {k m s0} [Spares m .mgmt] [Spares m .out] (s) (h : Keeps k m s0 s) :
    OutKeeps k m s0 (execRequestUpdate s) := by
  unfold execRequestUpdate; grind -lia -linarith -ring -order [State.mctp_keeps, keeps_mk_mgmt, outKeeps_next]

theorem execPassComponentTable_keeps {k m s0} [Spares m .mgmt] [Spares m .out] (comps) (s) (h : Keeps k m s0 s) :
    OutKeeps k m s0 (execPassComponentTable comps s) := by
  unfold execPassComponentTable; grind -lia -linarith -ring -order [State.mctp_keeps, keeps_mk_mgmt, outKeeps_next]

theorem execUpdateComponent_keeps {k m s0} [Spares m .mgmt] [Spares m .out] (size) (s) (h : Keeps k m s0 s) :
    OutKeeps k m s0 (execUpdateComponent size s) := by
  unfold execUpdateComponent; grind -lia -linarith -ring -order [State.mctp_keeps, keeps_mk_mgmt, outKeeps_next]

theorem State.storePiece_keeps {k m s0} [Spares m .mgmt] [Spares m .mem] [Spares m .poison] (s) (f) (piece) (h : Keeps k m s0 s) :
    Keeps k m s0 (State.storePiece s f piece) := by
  unfold State.storePiece; grind -lia -linarith -ring -order [keeps_mk_mgmt, State.wrBytes_keeps, State.noteAccess_keeps]

theorem State.recoveryDone_keeps {m s0} [Spares m .now] [Spares m .tick] [Spares m .ptp] [Spares m .rec'] [Spares m .mgmt] [Spares m .sec] [Spares m .pwr] [Spares m .pins] [Spares m .links] [Spares m .scratch] [Spares m .media] [Spares m .collInject] [Spares m .updInject] [Spares m .memc] [Spares m .mem] [Spares m .poison] [Spares m .fab] [Spares m .macs] [Spares m .chans] [Spares m .acc] [Spares m .accGen] [Spares m .res] [Spares m .clbuf] [Spares m .opbuf] [Spares m .chipFixed] [Spares m .vec] [Spares m .upd] [Spares m .atts] [Spares m .parts] [Spares m .served] [Spares m .image] [Spares m .halted] [Spares m .fresh] [Spares m .out] (s) (h : Keeps false m s0 s) :
    Keeps false m s0 (State.recoveryDone s) := by
  unfold State.recoveryDone; grind -lia -linarith -ring -order [keeps_mk_mgmt, State.coldReset_keeps, State.mctp_keeps]

theorem State.takePiece_keeps {m s0} [Spares m .now] [Spares m .tick] [Spares m .ptp] [Spares m .rec'] [Spares m .mgmt] [Spares m .sec] [Spares m .pwr] [Spares m .pins] [Spares m .links] [Spares m .scratch] [Spares m .media] [Spares m .collInject] [Spares m .updInject] [Spares m .memc] [Spares m .mem] [Spares m .poison] [Spares m .fab] [Spares m .macs] [Spares m .chans] [Spares m .acc] [Spares m .accGen] [Spares m .res] [Spares m .clbuf] [Spares m .opbuf] [Spares m .chipFixed] [Spares m .vec] [Spares m .upd] [Spares m .atts] [Spares m .parts] [Spares m .served] [Spares m .image] [Spares m .halted] [Spares m .fresh] [Spares m .out] (s) (offset) (piece) (h : Keeps false m s0 s) :
    Keeps false m s0 (State.takePiece s offset piece) := by
  unfold State.takePiece; grind -lia -linarith -ring -order [State.storePiece_keeps, State.recoveryDone_keeps]

theorem execRequestFirmwareData_keeps {m s0} [Spares m .now] [Spares m .tick] [Spares m .ptp] [Spares m .rec'] [Spares m .mgmt] [Spares m .sec] [Spares m .pwr] [Spares m .pins] [Spares m .links] [Spares m .scratch] [Spares m .media] [Spares m .collInject] [Spares m .updInject] [Spares m .memc] [Spares m .mem] [Spares m .poison] [Spares m .fab] [Spares m .macs] [Spares m .chans] [Spares m .acc] [Spares m .accGen] [Spares m .res] [Spares m .clbuf] [Spares m .opbuf] [Spares m .chipFixed] [Spares m .vec] [Spares m .upd] [Spares m .atts] [Spares m .parts] [Spares m .served] [Spares m .image] [Spares m .halted] [Spares m .fresh] [Spares m .out] (offset) (piece) (s) (h : Keeps false m s0 s) :
    OutKeeps false m s0 (execRequestFirmwareData offset piece s) := by
  unfold execRequestFirmwareData; grind -lia -linarith -ring -order [State.takePiece_keeps, outKeeps_next]

theorem execActivateFirmware_keeps {k m s0} [Spares m .out] (selfContained) (s) (h : Keeps k m s0 s) :
    OutKeeps k m s0 (execActivateFirmware selfContained s) := by
  unfold execActivateFirmware; grind -lia -linarith -ring -order [State.mctp_keeps, outKeeps_next]

theorem execTrainingComplete_keeps {k m s0} [Spares m .rec'] [Spares m .memc] [Spares m .mem] [Spares m .poison] [Spares m .fab] (faults) (s) (h : Keeps k m s0 s) :
    OutKeeps k m s0 (execTrainingComplete faults s) := by
  unfold execTrainingComplete; grind -lia -linarith -ring -order [State.placeComponents_keeps, State.trainEnd_keeps, outKeeps_next]

theorem execLock_keeps {k m s0} [Spares m .mgmt] (s) (h : Keeps k m s0 s) :
    OutKeeps k m s0 (execLock s) := by
  unfold execLock; grind -lia -linarith -ring -order [State.setDbg_keeps, keeps_mk_mgmt, outKeeps_next]

theorem execNonceExpiry_keeps {k m s0} [Spares m .mgmt] (s) (h : Keeps k m s0 s) :
    OutKeeps k m s0 (execNonceExpiry s) := by
  unfold execNonceExpiry; grind -lia -linarith -ring -order [keeps_mk_mgmt, outKeeps_next]

end Sys2Proof.Machine
end

