-- ==== Sys2Proof/Laws/KeepsMgmt.lean ====
section
/-!
SUPPORT. That each function of Machine/Mgmt.lean keeps what a command keeps (`Keeps`, `OutKeeps`).
-/

namespace Sys2Proof.Machine

theorem State.respond_keeps {k m s0} [Spares m .out] (s) (m_) (cmd) (code) (data) (h : Keeps k m s0 s) :
    Keeps k m s0 (State.respond s m_ cmd code data) := by
  unfold State.respond; grind -lia -linarith -ring -order [State.emit_keeps]

theorem State.noteRefused_keeps {k m s0} [Spares m .rec'] (s) (cmd) (h : Keeps k m s0 s) :
    Keeps k m s0 (State.noteRefused s cmd) := by
  unfold State.noteRefused; grind -lia -linarith -ring -order [State.record_keeps]

theorem State.answer_keeps {k m s0} [Spares m .rec'] [Spares m .out] (s) (m_) (cmd) (a) (h : Keeps k m s0 s) :
    Keeps k m s0 (State.answer s m_ cmd a) := by
  unfold State.answer; grind -lia -linarith -ring -order [State.respond_keeps, State.noteRefused_keeps]

theorem State.otherCommand_keeps {k m s0} [Spares m .rec'] [Spares m .out] (s) (m_) (h : Keeps k m s0 s) :
    Keeps k m s0 (State.otherCommand s m_) := by
  unfold State.otherCommand; grind -lia -linarith -ring -order [State.answer_keeps]

theorem State.command_keeps {k m s0} [Spares m .rec'] [Spares m .out] (s : State) (q : Msg) (cmd : Nat) (secured : Bool) (f : State → CmdEnd × State)
    (hf : ∀ t, Keeps k m s0 t → Keeps k m s0 (f t).2) (h : Keeps k m s0 s) : Keeps k m s0 (s.command q cmd secured f) := by
  unfold State.command
  exact keeps_ite h (keeps_ite (State.otherCommand_keeps _ _ h) (keeps_ite (State.answer_keeps _ _ _ _ h)
    (keeps_ite (State.respond_keeps _ _ _ _ _ h) (State.answer_keeps _ _ _ _ (hf _ h)))))

theorem State.noteCommand_keeps {k m s0} [Spares m .rec'] (s) (cmd) (part) (h : Keeps k m s0 s) :
    Keeps k m s0 (State.noteCommand s cmd part) := by
  unfold State.noteCommand; grind -lia -linarith -ring -order [State.record_keeps]

theorem change_keeps {k m s0} [Spares m .rec'] (cmd : Nat) (part : Option Nat) (ok : Bool) (f : State → State) (s : State)
    (hf : ∀ t, Keeps k m s0 t → Keeps k m s0 (f t)) (h : Keeps k m s0 s) : Keeps k m s0 (change cmd part ok f s).2 := by
  unfold change
  split
  · exact State.noteCommand_keeps _ _ _ (hf _ h)
  · exact h

theorem State.random_keeps {k m s0} [Spares m .fresh] (s) (n) (h : Keeps k m s0 s) :
    Keeps k m s0 (State.random s n).2 := by
  exact keeps_mk_fresh h
theorem State.random_keeps' {k m s0} [Spares m .fresh] {s} {n} {x t} (eq_ : State.random s n = (x, t)) (h : Keeps k m s0 s) : Keeps k m s0 t := by
  have g := State.random_keeps s n h
  rw [eq_] at g; exact g

theorem infoOf_keeps {k m s0} [Spares m .mgmt] [Spares m .fresh] (s0_) (h : Keeps k m s0 s0_) :
    Keeps k m s0 (infoOf s0_).2 := by
  unfold infoOf; grind -lia -linarith -ring -order [State.random_keeps, keeps_mk_mgmt]
theorem infoOf_keeps' {k m s0} [Spares m .mgmt] [Spares m .fresh] {s0_} {x t} (eq_ : infoOf s0_ = (x, t)) (h : Keeps k m s0 s0_) : Keeps k m s0 t := by
  have g := infoOf_keeps s0_ h
  rw [eq_] at g; exact g

theorem execGetInfo_keeps {k m s0} [Spares m .rec'] [Spares m .mgmt] [Spares m .fresh] [Spares m .out] (m_) (s) (h : Keeps k m s0 s) :
    OutKeeps k m s0 (execGetInfo m_ s) := by
  unfold execGetInfo; grind -lia -linarith -ring -order [State.command_keeps, infoOf_keeps, outKeeps_next]

theorem execRecorderRead_keeps {k m s0} [Spares m .rec'] [Spares m .out] (m_) (s) (h : Keeps k m s0 s) :
    OutKeeps k m s0 (execRecorderRead m_ s) := by
  unfold execRecorderRead; grind -lia -linarith -ring -order [State.answer_keeps, State.command_keeps, outKeeps_next]

theorem execRecorderFreeze_keeps {k m s0} [Spares m .rec'] [Spares m .out] (m_) (s) (h : Keeps k m s0 s) :
    OutKeeps k m s0 (execRecorderFreeze m_ s) := by
  unfold execRecorderFreeze; grind -lia -linarith -ring -order [State.command_keeps, State.freezeRec_keeps, State.noteCommand_keeps, outKeeps_next]

theorem execRecorderUnfreeze_keeps {k m s0} [Spares m .rec'] [Spares m .mem] [Spares m .poison] [Spares m .out] (m_) (s) (h : Keeps k m s0 s) :
    OutKeeps k m s0 (execRecorderUnfreeze m_ s) := by
  unfold execRecorderUnfreeze; grind -lia -linarith -ring -order [State.command_keeps, change_keeps, State.unfreezeRec_keeps, outKeeps_next]

theorem execLogRead_keeps {k m s0} [Spares m .rec'] [Spares m .memc] [Spares m .mem] [Spares m .poison] [Spares m .chipFixed] [Spares m .parts] [Spares m .fresh] [Spares m .out] (m_) (s) (h : Keeps k m s0 s) :
    OutKeeps k m s0 (execLogRead m_ s) := by
  unfold execLogRead; grind -lia -linarith -ring -order [State.command_keeps, State.findAll_keeps, outKeeps_next]

theorem State.respondLater_keeps {k m s0} [Spares m .mgmt] (s) (m_) (cmd) (p) (h : Keeps k m s0 s) :
    Keeps k m s0 (State.respondLater s m_ cmd p) := by
  unfold State.respondLater; grind -lia -linarith -ring -order [keeps_mk_mgmt]

theorem State.setEntry_keeps {k m s0} [Spares m .rec'] [Spares m .mgmt] [Spares m .media] [Spares m .mem] [Spares m .poison] [Spares m .macs] [Spares m .chans] [Spares m .acc] [Spares m .accGen] [Spares m .res] [Spares m .vec] [Spares m .upd] [Spares m .parts] [Spares m .fresh] [Spares m .out] (s) (p) (bytes) (h : Keeps k m s0 s) :
    Keeps k m s0 (State.setEntry s p bytes) := by
  unfold State.setEntry; grind -lia -linarith -ring -order [keeps_foldS, State.entryWrite_keeps]

theorem setPartition_keeps {k m s0} [Spares m .rec'] [Spares m .mgmt] [Spares m .media] [Spares m .mem] [Spares m .poison] [Spares m .macs] [Spares m .chans] [Spares m .acc] [Spares m .accGen] [Spares m .res] [Spares m .vec] [Spares m .upd] [Spares m .parts] [Spares m .fresh] [Spares m .out] (m_) (s) (h : Keeps k m s0 s) :
    Keeps k m s0 (setPartition m_ s).2 := by
  unfold setPartition; grind -lia -linarith -ring -order [State.setEntry_keeps, State.respondLater_keeps, State.noteCommand_keeps, State.noteRefused_keeps]
theorem setPartition_keeps' {k m s0} [Spares m .rec'] [Spares m .mgmt] [Spares m .media] [Spares m .mem] [Spares m .poison] [Spares m .macs] [Spares m .chans] [Spares m .acc] [Spares m .accGen] [Spares m .res] [Spares m .vec] [Spares m .upd] [Spares m .parts] [Spares m .fresh] [Spares m .out] {m_} {s} {x t} (eq_ : setPartition m_ s = (x, t)) (h : Keeps k m s0 s) : Keeps k m s0 t := by
  have g := setPartition_keeps m_ s h
  rw [eq_] at g; exact g

theorem execPartitionSet_keeps {k m s0} [Spares m .rec'] [Spares m .mgmt] [Spares m .media] [Spares m .mem] [Spares m .poison] [Spares m .macs] [Spares m .chans] [Spares m .acc] [Spares m .accGen] [Spares m .res] [Spares m .vec] [Spares m .upd] [Spares m .parts] [Spares m .fresh] [Spares m .out] (m_) (s) (h : Keeps k m s0 s) :
    OutKeeps k m s0 (execPartitionSet m_ s) := by
  unfold execPartitionSet; grind -lia -linarith -ring -order [State.command_keeps, setPartition_keeps, outKeeps_next]

theorem execPartitionMode_keeps {k m s0} [Spares m .rec'] [Spares m .parts] [Spares m .out] (m_) (s) (h : Keeps k m s0 s) :
    OutKeeps k m s0 (execPartitionMode m_ s) := by
  unfold execPartitionMode; grind -lia -linarith -ring -order [State.command_keeps, change_keeps, State.updPart_keeps, outKeeps_next]

theorem clearPartition_keeps {k m s0} [Spares m .rec'] [Spares m .mgmt] [Spares m .mem] [Spares m .poison] [Spares m .macs] [Spares m .chans] [Spares m .acc] [Spares m .accGen] [Spares m .res] [Spares m .vec] [Spares m .upd] [Spares m .parts] [Spares m .fresh] [Spares m .out] (m_) (s) (h : Keeps k m s0 s) :
    Keeps k m s0 (clearPartition m_ s).2 := by
  unfold clearPartition; grind -lia -linarith -ring -order [State.destroyPart_keeps, State.respondLater_keeps]
theorem clearPartition_keeps' {k m s0} [Spares m .rec'] [Spares m .mgmt] [Spares m .mem] [Spares m .poison] [Spares m .macs] [Spares m .chans] [Spares m .acc] [Spares m .accGen] [Spares m .res] [Spares m .vec] [Spares m .upd] [Spares m .parts] [Spares m .fresh] [Spares m .out] {m_} {s} {x t} (eq_ : clearPartition m_ s = (x, t)) (h : Keeps k m s0 s) : Keeps k m s0 t := by
  have g := clearPartition_keeps m_ s h
  rw [eq_] at g; exact g

theorem execPartitionClear_keeps {k m s0} [Spares m .rec'] [Spares m .mgmt] [Spares m .mem] [Spares m .poison] [Spares m .macs] [Spares m .chans] [Spares m .acc] [Spares m .accGen] [Spares m .res] [Spares m .vec] [Spares m .upd] [Spares m .parts] [Spares m .fresh] [Spares m .out] (m_) (s) (h : Keeps k m s0 s) :
    OutKeeps k m s0 (execPartitionClear m_ s) := by
  unfold execPartitionClear; grind -lia -linarith -ring -order [State.command_keeps, clearPartition_keeps, outKeeps_next]

theorem execPolicySet_keeps {k m s0} [Spares m .rec'] [Spares m .parts] [Spares m .out] (m_) (s) (h : Keeps k m s0 s) :
    OutKeeps k m s0 (execPolicySet m_ s) := by
  unfold execPolicySet; grind -lia -linarith -ring -order [State.command_keeps, change_keeps, State.setPartPolicy_keeps, outKeeps_next]

theorem execFabricId_keeps {k m s0} [Spares m .rec'] [Spares m .fab] [Spares m .out] (m_) (s) (h : Keeps k m s0 s) :
    OutKeeps k m s0 (execFabricId m_ s) := by
  unfold execFabricId; grind -lia -linarith -ring -order [State.command_keeps, change_keeps, State.setFabId_keeps, outKeeps_next]

theorem execFabricSetup_keeps {k m s0} [Spares m .rec'] [Spares m .mem] [Spares m .poison] [Spares m .fab] [Spares m .macs] [Spares m .fresh] [Spares m .out] (m_) (s) (h : Keeps k m s0 s) :
    OutKeeps k m s0 (execFabricSetup m_ s) := by
  unfold execFabricSetup
  repeat' first
    | with_reducible assumption
    | with_reducible apply State.command_keeps
    | with_reducible apply change_keeps
    | with_reducible apply keeps_foldS
    | with_reducible apply State.setFabPort_keeps
    | with_reducible apply State.startFabric_keeps
    | with_reducible apply State.setFabCensus_keeps
    | with_reducible apply State.setFabPtp_keeps
    | with_reducible apply State.setFabFrame_keeps
    | with_reducible apply outKeeps_next
    | exact change_keeps' ‹_› ‹_›
    | refine change_keeps' ‹_› ?_
    | intro _
    | split
    | dsimp only

theorem State.placeReserve_keeps {k m s0} [Spares m .mgmt] [Spares m .mem] [Spares m .poison] (s) (a) (bytes) (h : Keeps k m s0 s) :
    Keeps k m s0 (State.placeReserve s a bytes) := by
  unfold State.placeReserve; grind -lia -linarith -ring -order [State.wrBytes_keeps, State.noteAccess_keeps]

theorem bindCommand_keeps {k m s0} [Spares m .now] [Spares m .tick] [Spares m .rec'] [Spares m .mgmt] [Spares m .memc] [Spares m .mem] [Spares m .poison] [Spares m .fab] [Spares m .chipFixed] [Spares m .parts] [Spares m .fresh] [Spares m .out] (m_) (time) (s) (h : Keeps k m s0 s) :
    Keeps k m s0 (bindCommand m_ time s).2 := by
  unfold bindCommand; grind -lia -linarith -ring -order [State.bindWrite_keeps, State.findAll_keeps, State.placeReserve_keeps, State.noteCommand_keeps, State.noteRefused_keeps]
theorem bindCommand_keeps' {k m s0} [Spares m .now] [Spares m .tick] [Spares m .rec'] [Spares m .mgmt] [Spares m .memc] [Spares m .mem] [Spares m .poison] [Spares m .fab] [Spares m .chipFixed] [Spares m .parts] [Spares m .fresh] [Spares m .out] {m_} {time} {s} {x t} (eq_ : bindCommand m_ time s = (x, t)) (h : Keeps k m s0 s) : Keeps k m s0 t := by
  have g := bindCommand_keeps m_ time s h
  rw [eq_] at g; exact g

theorem execJobBind_keeps {k m s0} [Spares m .now] [Spares m .tick] [Spares m .rec'] [Spares m .mgmt] [Spares m .memc] [Spares m .mem] [Spares m .poison] [Spares m .fab] [Spares m .chipFixed] [Spares m .parts] [Spares m .fresh] [Spares m .out] (m_) (t) (s) (h : Keeps k m s0 s) :
    OutKeeps k m s0 (execJobBind m_ t s) := by
  unfold execJobBind; grind -lia -linarith -ring -order [State.command_keeps, bindCommand_keeps, outKeeps_next]

theorem execJobUnbind_keeps {k m s0} [Spares m .rec'] [Spares m .fab] [Spares m .parts] [Spares m .fresh] [Spares m .out] (m_) (s) (h : Keeps k m s0 s) :
    OutKeeps k m s0 (execJobUnbind m_ s) := by
  unfold execJobUnbind; grind -lia -linarith -ring -order [State.command_keeps, change_keeps, State.unbindJob_keeps, outKeeps_next]

theorem State.setStagePeriod_keeps {k m s0} [Spares m .tick] (s) (v) (h : Keeps k m s0 s) :
    Keeps k m s0 (State.setStagePeriod s v) := by
  unfold State.setStagePeriod; grind -lia -linarith -ring -order [keeps_mk_tick]

theorem execTickStage_keeps {k m s0} [Spares m .tick] [Spares m .rec'] [Spares m .out] (m_) (s) (h : Keeps k m s0 s) :
    OutKeeps k m s0 (execTickStage m_ s) := by
  unfold execTickStage; grind -lia -linarith -ring -order [State.command_keeps, change_keeps, State.stageAt_keeps, State.setStagePeriod_keeps, outKeeps_next]

theorem powerCommand_keeps {m s0} [Spares m .now] [Spares m .tick] [Spares m .ptp] [Spares m .rec'] [Spares m .mgmt] [Spares m .sec] [Spares m .pwr] [Spares m .pins] [Spares m .links] [Spares m .scratch] [Spares m .media] [Spares m .collInject] [Spares m .updInject] [Spares m .memc] [Spares m .mem] [Spares m .poison] [Spares m .fab] [Spares m .macs] [Spares m .chans] [Spares m .acc] [Spares m .accGen] [Spares m .res] [Spares m .clbuf] [Spares m .opbuf] [Spares m .chipFixed] [Spares m .vec] [Spares m .upd] [Spares m .atts] [Spares m .parts] [Spares m .served] [Spares m .image] [Spares m .halted] [Spares m .fresh] [Spares m .out] (m_) (s) (h : Keeps false m s0 s) :
    Keeps false m s0 (powerCommand m_ s).2 := by
  unfold powerCommand; grind -lia -linarith -ring -order [State.goWrite_keeps, State.noteCommand_keeps]
theorem powerCommand_keeps' {m s0} [Spares m .now] [Spares m .tick] [Spares m .ptp] [Spares m .rec'] [Spares m .mgmt] [Spares m .sec] [Spares m .pwr] [Spares m .pins] [Spares m .links] [Spares m .scratch] [Spares m .media] [Spares m .collInject] [Spares m .updInject] [Spares m .memc] [Spares m .mem] [Spares m .poison] [Spares m .fab] [Spares m .macs] [Spares m .chans] [Spares m .acc] [Spares m .accGen] [Spares m .res] [Spares m .clbuf] [Spares m .opbuf] [Spares m .chipFixed] [Spares m .vec] [Spares m .upd] [Spares m .atts] [Spares m .parts] [Spares m .served] [Spares m .image] [Spares m .halted] [Spares m .fresh] [Spares m .out] {m_} {s} {x t} (eq_ : powerCommand m_ s = (x, t)) (h : Keeps false m s0 s) : Keeps false m s0 t := by
  have g := powerCommand_keeps m_ s h
  rw [eq_] at g; exact g

theorem execPowerState_keeps {m s0} [Spares m .now] [Spares m .tick] [Spares m .ptp] [Spares m .rec'] [Spares m .mgmt] [Spares m .sec] [Spares m .pwr] [Spares m .pins] [Spares m .links] [Spares m .scratch] [Spares m .media] [Spares m .collInject] [Spares m .updInject] [Spares m .memc] [Spares m .mem] [Spares m .poison] [Spares m .fab] [Spares m .macs] [Spares m .chans] [Spares m .acc] [Spares m .accGen] [Spares m .res] [Spares m .clbuf] [Spares m .opbuf] [Spares m .chipFixed] [Spares m .vec] [Spares m .upd] [Spares m .atts] [Spares m .parts] [Spares m .served] [Spares m .image] [Spares m .halted] [Spares m .fresh] [Spares m .out] (m_) (s) (h : Keeps false m s0 s) :
    OutKeeps false m s0 (execPowerState m_ s) := by
  unfold execPowerState; grind -lia -linarith -ring -order [State.command_keeps, powerCommand_keeps, outKeeps_next]

theorem execGovernorSet_keeps {k m s0} [Spares m .rec'] [Spares m .pwr] [Spares m .out] (m_) (s) (h : Keeps k m s0 s) :
    OutKeeps k m s0 (execGovernorSet m_ s) := by
  unfold execGovernorSet; grind -lia -linarith -ring -order [State.command_keeps, change_keeps, State.setPwrTherm_keeps, State.setPwrGov_keeps, outKeeps_next]

theorem State.setRetireRecord_keeps {k m s0} [Spares m .mgmt] (s) (add) (mask) (h : Keeps k m s0 s) :
    Keeps k m s0 (State.setRetireRecord s add mask) := by
  unfold State.setRetireRecord; grind -lia -linarith -ring -order [keeps_mk_mgmt]

theorem execRetireRecord_keeps {k m s0} [Spares m .rec'] [Spares m .mgmt] [Spares m .out] (m_) (s) (h : Keeps k m s0 s) :
    OutKeeps k m s0 (execRetireRecord m_ s) := by
  unfold execRetireRecord; grind -lia -linarith -ring -order [State.command_keeps, change_keeps, State.setRetireRecord_keeps, outKeeps_next]

theorem unlock_keeps {k m s0} [Spares m .rec'] [Spares m .mgmt] (m_) (s) (h : Keeps k m s0 s) :
    Keeps k m s0 (unlock m_ s).2 := by
  unfold unlock; grind -lia -linarith -ring -order [keeps_mk_mgmt, State.noteCommand_keeps, State.record_keeps, State.setDbg_keeps]
theorem unlock_keeps' {k m s0} [Spares m .rec'] [Spares m .mgmt] {m_} {s} {x t} (eq_ : unlock m_ s = (x, t)) (h : Keeps k m s0 s) : Keeps k m s0 t := by
  have g := unlock_keeps m_ s h
  rw [eq_] at g; exact g

theorem execDebugUnlock_keeps {k m s0} [Spares m .rec'] [Spares m .mgmt] [Spares m .out] (m_) (s) (h : Keeps k m s0 s) :
    OutKeeps k m s0 (execDebugUnlock m_ s) := by
  unfold execDebugUnlock; grind -lia -linarith -ring -order [State.command_keeps, unlock_keeps, outKeeps_next]

theorem execPolicy_keeps {k m s0} [Spares m .rec'] [Spares m .mgmt] [Spares m .out] (m_) (s) (h : Keeps k m s0 s) :
    OutKeeps k m s0 (execPolicy m_ s) := by
  unfold execPolicy; grind -lia -linarith -ring -order [State.command_keeps, change_keeps, State.setPolicy_keeps, outKeeps_next]

theorem execSetEndpointId_keeps {k m s0} [Spares m .mgmt] [Spares m .out] (eid) (s) (h : Keeps k m s0 s) :
    OutKeeps k m s0 (execSetEndpointId eid s) := by
  unfold execSetEndpointId; grind -lia -linarith -ring -order [State.mctp_keeps, keeps_mk_mgmt, outKeeps_next]

theorem execGetEndpointId_keeps {k m s0} [Spares m .out] (s) (h : Keeps k m s0 s) :
    OutKeeps k m s0 (execGetEndpointId s) := by
  unfold execGetEndpointId; grind -lia -linarith -ring -order [State.mctp_keeps, outKeeps_next]

theorem execGetMctpVersionSupport_keeps {k m s0} [Spares m .fresh] [Spares m .out] (typ) (s) (h : Keeps k m s0 s) :
    OutKeeps k m s0 (execGetMctpVersionSupport typ s) := by
  unfold execGetMctpVersionSupport; grind -lia -linarith -ring -order [State.free_keeps, State.mctp_keeps, outKeeps_next]

theorem execGetMessageTypeSupport_keeps {k m s0} [Spares m .out] (s) (h : Keeps k m s0 s) :
    OutKeeps k m s0 (execGetMessageTypeSupport s) := by
  unfold execGetMessageTypeSupport; grind -lia -linarith -ring -order [State.mctp_keeps, outKeeps_next]

theorem execDynamicAddressAssignment_keeps {k m s0} [Spares m .mgmt] (addr) (s) (h : Keeps k m s0 s) :
    OutKeeps k m s0 (execDynamicAddressAssignment addr s) := by
  unfold execDynamicAddressAssignment; grind -lia -linarith -ring -order [keeps_mk_mgmt, outKeeps_next]

theorem execGetSensorReading_keeps {k m s0} [Spares m .out] (sensor) (s) (h : Keeps k m s0 s) :
    OutKeeps k m s0 (execGetSensorReading sensor s) := by
  unfold execGetSensorReading; grind -lia -linarith -ring -order [State.mctp_keeps, outKeeps_next, State.free_keeps]

theorem execGetPdr_keeps {k m s0} [Spares m .fresh] [Spares m .out] (record) (s) (h : Keeps k m s0 s) :
    OutKeeps k m s0 (execGetPdr record s) := by
  unfold execGetPdr; grind -lia -linarith -ring -order [State.free_keeps, State.mctp_keeps, outKeeps_next]

theorem execGetPdrRepositoryInfo_keeps {k m s0} [Spares m .fresh] [Spares m .out] (s) (h : Keeps k m s0 s) :
    OutKeeps k m s0 (execGetPdrRepositoryInfo s) := by
  unfold execGetPdrRepositoryInfo; grind -lia -linarith -ring -order [State.free_keeps, State.mctp_keeps, outKeeps_next]

end Sys2Proof.Machine
end

