-- ==== Sys2Proof/Laws/KeepsSecurity.lean ====
section
/-!
SUPPORT. That each function of Machine/Security.lean keeps what a command keeps (`Keeps`, `OutKeeps`).
-/

namespace Sys2Proof.Machine

theorem State.spdm_keeps {k m s0} [Spares m .out] (s) (ok) (data) (h : Keeps k m s0 s) :
    Keeps k m s0 (State.spdm s ok data) := by
  unfold State.spdm; grind -lia -linarith -ring -order [State.emit_keeps]

theorem State.setConn_keeps {k m s0} [Spares m .sec] (s) (c) (v) (h : Keeps k m s0 s) :
    Keeps k m s0 (State.setConn s c v) := by
  unfold State.setConn; grind -lia -linarith -ring -order [keeps_mk_sec]

theorem State.heard_keeps {k m s0} [Spares m .out] (s : State) (q : Spdm) (ok : State → Bool) (f : State → State)
    (hf : ∀ t, Keeps k m s0 t → Keeps k m s0 (f t)) (h : Keeps k m s0 s) : Keeps k m s0 (s.heard q ok f) := by
  unfold State.heard
  exact keeps_ite h (keeps_ite (hf _ h) (State.spdm_keeps _ _ _ h))

theorem State.secret_keeps {k m s0} [Spares m .fresh] (s) (code) (q) (h : Keeps k m s0 s) :
    Keeps k m s0 (State.secret s code q).2 := by
  exact keeps_mk_fresh h
theorem State.secret_keeps' {k m s0} [Spares m .fresh] {s} {code} {q} {x t} (eq_ : State.secret s code q = (x, t)) (h : Keeps k m s0 s) : Keeps k m s0 t := by
  have g := State.secret_keeps s code q h
  rw [eq_] at g; exact g

theorem execGetVersion_keeps {k m s0} [Spares m .sec] [Spares m .out] (q) (s) (h : Keeps k m s0 s) :
    OutKeeps k m s0 (execGetVersion q s) := by
  unfold execGetVersion; grind -lia -linarith -ring -order [State.heard_keeps, State.spdm_keeps, State.setConn_keeps, outKeeps_next]

theorem execGetCapabilities_keeps {k m s0} [Spares m .sec] [Spares m .fresh] [Spares m .out] (q) (s) (h : Keeps k m s0 s) :
    OutKeeps k m s0 (execGetCapabilities q s) := by
  unfold execGetCapabilities; grind -lia -linarith -ring -order [State.heard_keeps, State.free_keeps, State.spdm_keeps, State.setConn_keeps, outKeeps_next]

theorem execNegotiateAlgorithms_keeps {k m s0} [Spares m .sec] [Spares m .out] (q) (s) (h : Keeps k m s0 s) :
    OutKeeps k m s0 (execNegotiateAlgorithms q s) := by
  unfold execNegotiateAlgorithms; grind -lia -linarith -ring -order [State.heard_keeps, State.spdm_keeps, State.setConn_keeps, outKeeps_next]

theorem execGetDigests_keeps {k m s0} [Spares m .out] (q) (s) (h : Keeps k m s0 s) :
    OutKeeps k m s0 (execGetDigests q s) := by
  unfold execGetDigests; grind -lia -linarith -ring -order [State.heard_keeps, State.spdm_keeps, outKeeps_next]

theorem execGetCertificate_keeps {k m s0} [Spares m .out] (q) (s) (h : Keeps k m s0 s) :
    OutKeeps k m s0 (execGetCertificate q s) := by
  unfold execGetCertificate; grind -lia -linarith -ring -order [State.heard_keeps, State.spdm_keeps, outKeeps_next]

theorem execChallenge_keeps {k m s0} [Spares m .fresh] [Spares m .out] (q) (s) (h : Keeps k m s0 s) :
    OutKeeps k m s0 (execChallenge q s) := by
  unfold execChallenge; grind -lia -linarith -ring -order [State.heard_keeps, State.secret_keeps, State.spdm_keeps, outKeeps_next]

theorem execGetMeasurements_keeps {k m s0} [Spares m .fresh] [Spares m .out] (q) (s) (h : Keeps k m s0 s) :
    OutKeeps k m s0 (execGetMeasurements q s) := by
  unfold execGetMeasurements; grind -lia -linarith -ring -order [State.heard_keeps, State.secret_keeps, State.spdm_keeps, outKeeps_next]

theorem execSetCertificate_keeps {k m s0} [Spares m .sec] [Spares m .out] (q) (s) (h : Keeps k m s0 s) :
    OutKeeps k m s0 (execSetCertificate q s) := by
  unfold execSetCertificate; grind -lia -linarith -ring -order [State.heard_keeps, State.spdm_keeps, keeps_mk_sec, outKeeps_next]

theorem State.updSession_keeps {k m s0} [Spares m .sec] (s) (q) (f) (h : Keeps k m s0 s) :
    Keeps k m s0 (State.updSession s q f) := by
  unfold State.updSession; grind -lia -linarith -ring -order [keeps_mk_sec]

theorem State.dropSession_keeps {k m s0} [Spares m .sec] (s) (q) (h : Keeps k m s0 s) :
    Keeps k m s0 (State.dropSession s q) := by
  unfold State.dropSession; grind -lia -linarith -ring -order [keeps_mk_sec]

theorem State.startSession_keeps {k m s0} [Spares m .sec] [Spares m .fresh] [Spares m .out] (s) (q) (h : Keeps k m s0 s) :
    Keeps k m s0 (State.startSession s q) := by
  unfold State.startSession; grind -lia -linarith -ring -order [State.free_keeps, keeps_mk_sec, State.secret_keeps, State.spdm_keeps]

theorem execKeyExchange_keeps {k m s0} [Spares m .sec] [Spares m .fresh] [Spares m .out] (q) (s) (h : Keeps k m s0 s) :
    OutKeeps k m s0 (execKeyExchange q s) := by
  unfold execKeyExchange; grind -lia -linarith -ring -order [State.heard_keeps, State.startSession_keeps, outKeeps_next]

theorem execGetEncapsulatedRequest_keeps {k m s0} [Spares m .out] (q) (s) (h : Keeps k m s0 s) :
    OutKeeps k m s0 (execGetEncapsulatedRequest q s) := by
  unfold execGetEncapsulatedRequest; grind -lia -linarith -ring -order [State.heard_keeps, State.spdm_keeps, outKeeps_next]

theorem execDeliverEncapsulatedResponse_keeps {k m s0} [Spares m .sec] [Spares m .out] (q) (s) (h : Keeps k m s0 s) :
    OutKeeps k m s0 (execDeliverEncapsulatedResponse q s) := by
  unfold execDeliverEncapsulatedResponse; grind -lia -linarith -ring -order [State.heard_keeps, State.spdm_keeps, State.updSession_keeps, outKeeps_next]

theorem State.finishSession_keeps {k m s0} [Spares m .sec] [Spares m .out] (s) (q) (h : Keeps k m s0 s) :
    Keeps k m s0 (State.finishSession s q) := by
  unfold State.finishSession; grind -lia -linarith -ring -order [State.spdm_keeps, State.updSession_keeps, State.dropSession_keeps]

theorem execFinish_keeps {k m s0} [Spares m .sec] [Spares m .out] (q) (s) (h : Keeps k m s0 s) :
    OutKeeps k m s0 (execFinish q s) := by
  unfold execFinish; grind -lia -linarith -ring -order [State.heard_keeps, State.finishSession_keeps, outKeeps_next]

theorem execKeyUpdate_keeps {k m s0} [Spares m .sec] [Spares m .out] (q) (s) (h : Keeps k m s0 s) :
    OutKeeps k m s0 (execKeyUpdate q s) := by
  unfold execKeyUpdate; grind -lia -linarith -ring -order [State.heard_keeps, State.spdm_keeps, State.updSession_keeps, outKeeps_next]

theorem execHeartbeat_keeps {k m s0} [Spares m .out] (q) (s) (h : Keeps k m s0 s) :
    OutKeeps k m s0 (execHeartbeat q s) := by
  unfold execHeartbeat; grind -lia -linarith -ring -order [State.heard_keeps, State.spdm_keeps, outKeeps_next]

theorem execEndSession_keeps {k m s0} [Spares m .sec] [Spares m .out] (q) (s) (h : Keeps k m s0 s) :
    OutKeeps k m s0 (execEndSession q s) := by
  unfold execEndSession; grind -lia -linarith -ring -order [State.heard_keeps, State.spdm_keeps, State.dropSession_keeps, outKeeps_next]

theorem execCxlIdeKm_keeps {k m s0} [Spares m .sec] [Spares m .out] (q) (s) (h : Keeps k m s0 s) :
    OutKeeps k m s0 (execCxlIdeKm q s) := by
  unfold execCxlIdeKm; grind -lia -linarith -ring -order [State.heard_keeps, State.spdm_keeps, keeps_mk_sec, outKeeps_next]

end Sys2Proof.Machine
end

