-- ==== Sys2Proof/Laws/KeepsRegs.lean ====
section
/-!
SUPPORT. That each function of Machine/Regs.lean keeps what a command keeps (`Keeps`, `OutKeeps`).
-/

namespace Sys2Proof.Machine

theorem State.pageTake_keeps {k m s0} [Spares m .parts] (s) (p) (off) (class') (base) (value) (f) (h : Keeps k m s0 s) :
    Keeps k m s0 (State.pageTake s p off class' base value f) := by
  unfold State.pageTake; grind -lia -linarith -ring -order [State.setPart_keeps]

theorem State.pageReg_keeps {k m s0} [Spares m .rec'] [Spares m .mgmt] [Spares m .mem] [Spares m .poison] [Spares m .parts] (s) (p) (off) (v) (h : Keeps k m s0 s) :
    Keeps k m s0 (State.pageReg s p off v) := by
  unfold State.pageReg; grind -lia -linarith -ring -order [State.pageTake_keeps, State.excBaseWrite_keeps, State.bufCommit_keeps, State.drowseWrite_keeps, State.fwuStart_keeps]

theorem State.pageWriteAt_keeps {k m s0} [Spares m .rec'] [Spares m .mgmt] [Spares m .mem] [Spares m .poison] [Spares m .parts] (s) (p) (off) (size) (v) (h : Keeps k m s0 s) :
    Keeps k m s0 (State.pageWriteAt s p off size v) := by
  unfold State.pageWriteAt; grind -lia -linarith -ring -order [State.setPart_keeps, State.pageReg_keeps]

theorem State.writeDevcfg_keeps {m s0} [Spares m .now] [Spares m .tick] [Spares m .ptp] [Spares m .rec'] [Spares m .mgmt] [Spares m .sec] [Spares m .pwr] [Spares m .pins] [Spares m .links] [Spares m .scratch] [Spares m .media] [Spares m .collInject] [Spares m .updInject] [Spares m .memc] [Spares m .mem] [Spares m .poison] [Spares m .fab] [Spares m .macs] [Spares m .chans] [Spares m .acc] [Spares m .accGen] [Spares m .res] [Spares m .clbuf] [Spares m .opbuf] [Spares m .chipFixed] [Spares m .vec] [Spares m .upd] [Spares m .atts] [Spares m .parts] [Spares m .served] [Spares m .image] [Spares m .halted] [Spares m .fresh] [Spares m .out] (s) (off) (v) (h : Keeps false m s0 s) :
    Keeps false m s0 (State.writeDevcfg s off v) := by
  unfold State.writeDevcfg; grind -lia -linarith -ring -order [State.coldReset_keeps, State.warmReset_keeps, State.setScratch_keeps]

theorem State.writePart_keeps {k m s0} [Spares m .rec'] [Spares m .mgmt] [Spares m .media] [Spares m .mem] [Spares m .poison] [Spares m .macs] [Spares m .chans] [Spares m .acc] [Spares m .accGen] [Spares m .res] [Spares m .vec] [Spares m .upd] [Spares m .parts] [Spares m .fresh] [Spares m .out] (s) (off) (v) (h : Keeps k m s0 s) :
    Keeps k m s0 (State.writePart s off v) := by
  unfold State.writePart; grind -lia -linarith -ring -order [State.entryWrite_keeps, State.setPartPolicy_keeps, State.pageReg_keeps]

theorem State.writeTick_keeps {k m s0} [Spares m .now] [Spares m .tick] [Spares m .parts] (s) (off) (v) (h : Keeps k m s0 s) :
    Keeps k m s0 (State.writeTick s off v) := by
  unfold State.writeTick
  split
  · exact State.setStagePeriod_keeps _ _ h
  · exact State.stageAt_keeps _ _ h
  · exact State.writeEpoch_keeps _ _ _ h
  · exact keeps_mk_tick h
  · exact h

theorem State.startTraining_keeps {k m s0} [Spares m .memc] (s) (h : Keeps k m s0 s) :
    Keeps k m s0 (State.startTraining s) := by
  rw [State.startTraining]
  split
  · exact execTrain_keeps s h _ ‹_›
  · exact h

theorem State.writeMemc_keeps {k m s0} [Spares m .memc] (s) (off) (v) (h : Keeps k m s0 s) :
    Keeps k m s0 (State.writeMemc s off v) := by
  unfold State.writeMemc; grind -lia -linarith -ring -order [State.setScrub_keeps, State.startTraining_keeps, State.setRetireReq_keeps]

theorem State.writeBind_keeps {k m s0} [Spares m .now] [Spares m .tick] [Spares m .mgmt] [Spares m .fab] [Spares m .parts] [Spares m .fresh] (s) (v) (h : Keeps k m s0 s) :
    Keeps k m s0 (State.writeBind s v) := by
  unfold State.writeBind; grind -lia -linarith -ring -order [State.bindWrite_keeps, State.unbindWrite_keeps, keeps_mk_fab]

theorem State.writeFab_keeps {k m s0} [Spares m .now] [Spares m .tick] [Spares m .mgmt] [Spares m .mem] [Spares m .poison] [Spares m .fab] [Spares m .macs] [Spares m .parts] [Spares m .fresh] [Spares m .out] (s) (off) (v) (h : Keeps k m s0 s) :
    Keeps k m s0 (State.writeFab s off v) := by
  unfold State.writeFab; grind -lia -linarith -ring -order [State.setFabId_keeps, State.startFabric_keeps, State.setFabFrame_keeps, State.setFabPtp_keeps, State.setFabCensus_keeps, State.writeBind_keeps, State.setFabPort_keeps]

theorem State.writePwr_keeps {m s0} [Spares m .now] [Spares m .tick] [Spares m .ptp] [Spares m .rec'] [Spares m .mgmt] [Spares m .sec] [Spares m .pwr] [Spares m .pins] [Spares m .links] [Spares m .scratch] [Spares m .media] [Spares m .collInject] [Spares m .updInject] [Spares m .memc] [Spares m .mem] [Spares m .poison] [Spares m .fab] [Spares m .macs] [Spares m .chans] [Spares m .acc] [Spares m .accGen] [Spares m .res] [Spares m .clbuf] [Spares m .opbuf] [Spares m .chipFixed] [Spares m .vec] [Spares m .upd] [Spares m .atts] [Spares m .parts] [Spares m .served] [Spares m .image] [Spares m .halted] [Spares m .fresh] [Spares m .out] (s) (off) (v) (h : Keeps false m s0 s) :
    Keeps false m s0 (State.writePwr s off v) := by
  unfold State.writePwr; grind -lia -linarith -ring -order [State.goWrite_keeps, State.clearWake_keeps, keeps_mk_pwr, State.setPwrGov_keeps, State.setPwrTherm_keeps, State.setPwrWake_keeps]

theorem State.writeRecCtl_keeps {k m s0} [Spares m .rec'] [Spares m .mem] [Spares m .poison] (s) (v) (h : Keeps k m s0 s) :
    Keeps k m s0 (State.writeRecCtl s v) := by
  unfold State.writeRecCtl; grind -lia -linarith -ring -order [State.freezeRec_keeps, State.unfreezeRec_keeps]

theorem State.writeMgmt_keeps {k m s0} [Spares m .rec'] [Spares m .mgmt] [Spares m .mem] [Spares m .poison] (s) (off) (v) (h : Keeps k m s0 s) :
    Keeps k m s0 (State.writeMgmt s off v) := by
  unfold State.writeMgmt; grind -lia -linarith -ring -order [State.writeRecCtl_keeps, State.setWdt_keeps, keeps_mk_mgmt, State.setDbg_keeps, State.setPolicy_keeps]

theorem State.writeBlock_keeps {m s0} [Spares m .now] [Spares m .tick] [Spares m .ptp] [Spares m .rec'] [Spares m .mgmt] [Spares m .sec] [Spares m .pwr] [Spares m .pins] [Spares m .links] [Spares m .scratch] [Spares m .media] [Spares m .collInject] [Spares m .updInject] [Spares m .memc] [Spares m .mem] [Spares m .poison] [Spares m .fab] [Spares m .macs] [Spares m .chans] [Spares m .acc] [Spares m .accGen] [Spares m .res] [Spares m .clbuf] [Spares m .opbuf] [Spares m .chipFixed] [Spares m .vec] [Spares m .upd] [Spares m .atts] [Spares m .parts] [Spares m .served] [Spares m .image] [Spares m .halted] [Spares m .fresh] [Spares m .out] (s) (b) (off) (v) (h : Keeps false m s0 s) :
    Keeps false m s0 (State.writeBlock s b off v) := by
  unfold State.writeBlock; grind -lia -linarith -ring -order [State.writeDevcfg_keeps, State.writePart_keeps, State.writeTick_keeps, State.writeMemc_keeps, State.setVideoOff_keeps, State.setOtherOff_keeps, State.writeFab_keeps, State.setCollInject_keeps, State.setUpdInject_keeps, State.writePwr_keeps, State.writeMgmt_keeps]

theorem State.badWrite_keeps {k m s0} [Spares m .parts] (s) (b) (off) (h : Keeps k m s0 s) :
    Keeps k m s0 (State.badWrite s b off) := by
  unfold State.badWrite; grind -lia -linarith -ring -order [State.setPart_keeps]

theorem State.mgmtWrite_keeps {m s0} [Spares m .now] [Spares m .tick] [Spares m .ptp] [Spares m .rec'] [Spares m .mgmt] [Spares m .sec] [Spares m .pwr] [Spares m .pins] [Spares m .links] [Spares m .scratch] [Spares m .media] [Spares m .collInject] [Spares m .updInject] [Spares m .memc] [Spares m .mem] [Spares m .poison] [Spares m .fab] [Spares m .macs] [Spares m .chans] [Spares m .acc] [Spares m .accGen] [Spares m .res] [Spares m .clbuf] [Spares m .opbuf] [Spares m .chipFixed] [Spares m .vec] [Spares m .upd] [Spares m .atts] [Spares m .parts] [Spares m .served] [Spares m .image] [Spares m .halted] [Spares m .fresh] [Spares m .out] (s) (addr) (size) (v) (h : Keeps false m s0 s) :
    Keeps false m s0 (State.mgmtWrite s addr size v) := by
  unfold State.mgmtWrite; grind -lia -linarith -ring -order [State.badWrite_keeps, State.writeBlock_keeps]

theorem execRegisterWrite_keeps {m s0} [Spares m .now] [Spares m .tick] [Spares m .ptp] [Spares m .rec'] [Spares m .mgmt] [Spares m .sec] [Spares m .pwr] [Spares m .pins] [Spares m .links] [Spares m .scratch] [Spares m .media] [Spares m .collInject] [Spares m .updInject] [Spares m .memc] [Spares m .mem] [Spares m .poison] [Spares m .fab] [Spares m .macs] [Spares m .chans] [Spares m .acc] [Spares m .accGen] [Spares m .res] [Spares m .clbuf] [Spares m .opbuf] [Spares m .chipFixed] [Spares m .vec] [Spares m .upd] [Spares m .atts] [Spares m .parts] [Spares m .served] [Spares m .image] [Spares m .halted] [Spares m .fresh] [Spares m .out] (src) (addr) (size) (value) (s) (h : Keeps false m s0 s) :
    OutKeeps false m s0 (execRegisterWrite src addr size value s) := by
  unfold execRegisterWrite
  split
  · refine outKeeps_next (State.pageWrite_keeps _ _ _ (fun t p ht => ?_) h)
    exact keeps_ite (State.pageWriteAt_keeps _ _ _ _ _ (State.findAll_keeps _ _ _ _ ht)) ht
  · split
    · exact outKeeps_refused
    · exact outKeeps_next (State.mgmtWrite_keeps _ _ _ _ (keeps_ite (State.findAll_keeps _ _ _ _ h) h))

end Sys2Proof.Machine
end

