-- ==== Sys2Proof/Laws/State.lean ====
section
/-!
SUPPORT. What the accessors of tables, partitions, rings and descriptors read after an update.
-/

namespace Sys2Proof.Machine

/-! ## Tables -/

theorem tlook_tput {α : Type} (k : Nat) (v : α) (j : Nat) : ∀ l : List (Nat × α),
    tlook (tput l k v) j = if k = j then some v else tlook l j
  | [] => by simp [tput, tlook]
  | (i, w) :: t => by
    have ih := tlook_tput k v j t
    grind [tput, tlook]

theorem tlook_tdel {α : Type} (k j : Nat) : ∀ l : List (Nat × α), tlook (tdel l k) j = if k = j then none else tlook l j
  | [] => by simp [tdel, tlook]
  | (i, w) :: t => by
    have ih := tlook_tdel k j t
    simp only [tdel] at ih ⊢
    by_cases h : i = k <;> grind [tlook]

/-- Reading a table after a write. -/
@[simp] theorem tget_tset {α : Type} [DecidableEq α] (d : α) (l : List (Nat × α)) (k : Nat) (v : α) (j : Nat) :
    tget d (tset d l k v) j = if k = j then v else tget d l j := by
  unfold tget tset
  split
  · rw [tlook_tdel]; split <;> simp_all
  · rw [tlook_tput]; split <;> simp_all

/-! ## Partitions, rings, attachments -/

@[simp] theorem State.part_setPart (s : State) (p q : Nat) (v : Part) :
    (s.setPart p v).part q = if p = q then v else s.part q := by simp [State.part, State.setPart]
@[simp] theorem State.part_updPart (s : State) (p q : Nat) (f : Part → Part) :
    (s.updPart p f).part q = if p = q then f (s.part p) else s.part q := by simp [State.updPart]
@[simp] theorem State.att_setAtt (s : State) (a b : Nat) (v : Attach) :
    (s.setAtt a v).att b = if a = b then v else s.att b := by simp [State.att, State.setAtt]
@[simp] theorem Part.subRing_setSub (p : Part) (m n : Nat) (r : SubRing) :
    (p.setSub m r).subRing n = if m = n then r else p.subRing n := by simp [Part.subRing, Part.setSub]
@[simp] theorem Part.comRing_setCom (p : Part) (m n : Nat) (r : ComRing) :
    (p.setCom m r).comRing n = if m = n then r else p.comRing n := by simp [Part.comRing, Part.setCom]
@[simp] theorem Part.comRing_setSub (p : Part) (m n : Nat) (r : SubRing) : (p.setSub m r).comRing n = p.comRing n := rfl
@[simp] theorem Part.subRing_setCom (p : Part) (m n : Nat) (r : ComRing) : (p.setCom m r).subRing n = p.subRing n := rfl
@[simp] theorem State.part_updDesc_other (s : State) (r : DRef) (q : Nat) (f : Desc → Desc) (h : q ≠ r.part) :
    (s.updDesc r f).part q = s.part q := by simp [State.updDesc, Ne.symm h]
@[simp] theorem State.part_emit (s : State) (o : Out) (q : Nat) : (s.emit o).part q = s.part q := rfl

/-- The descriptors of a partition after one is changed. -/
@[simp] theorem State.descs_updDesc (s : State) (r : DRef) (f : Desc → Desc) :
    ((s.updDesc r f).part r.part).descs =
      (s.part r.part).descs.map fun d => if d.ring == r.ring && d.num == r.num then f d else d := by simp [State.updDesc]

/-- A changed descriptor is found under its reference, where the change keeps its ring and number. -/
theorem State.desc_updDesc (s : State) (r : DRef) (f : Desc → Desc) (hr : ∀ d, (f d).ring = d.ring) (hn : ∀ d, (f d).num = d.num) :
    (s.updDesc r f).desc r = (s.desc r).map f := by
  simp only [State.desc, State.descs_updDesc, List.find?_map]
  have e : ((fun d : Desc => d.ring == r.ring && d.num == r.num) ∘ fun d : Desc =>
      if (d.ring == r.ring && d.num == r.num) = true then f d else d) = fun d : Desc => d.ring == r.ring && d.num == r.num := by
    funext d
    simp only [Function.comp]
    split <;> simp_all
  rw [e]
  cases h : (s.part r.part).descs.find? fun d => d.ring == r.ring && d.num == r.num with
  | none => rfl
  | some d => have := List.find?_some h; simp_all

/-! ## What `setPart` leaves -/

@[simp] theorem State.setPart_fuse (s : State) (p : Nat) (v : Part) : (s.setPart p v).fuse = s.fuse := rfl
@[simp] theorem State.setPart_now (s : State) (p : Nat) (v : Part) : (s.setPart p v).now = s.now := rfl
@[simp] theorem State.setPart_tick (s : State) (p : Nat) (v : Part) : (s.setPart p v).tick = s.tick := rfl
@[simp] theorem State.setPart_ptp (s : State) (p : Nat) (v : Part) : (s.setPart p v).ptp = s.ptp := rfl
@[simp] theorem State.setPart_record (s : State) (p : Nat) (v : Part) : (s.setPart p v).rec' = s.rec' := rfl
@[simp] theorem State.setPart_mgmt (s : State) (p : Nat) (v : Part) : (s.setPart p v).mgmt = s.mgmt := rfl
@[simp] theorem State.setPart_sec (s : State) (p : Nat) (v : Part) : (s.setPart p v).sec = s.sec := rfl
@[simp] theorem State.setPart_pwr (s : State) (p : Nat) (v : Part) : (s.setPart p v).pwr = s.pwr := rfl
@[simp] theorem State.setPart_pins (s : State) (p : Nat) (v : Part) : (s.setPart p v).pins = s.pins := rfl
@[simp] theorem State.setPart_links (s : State) (p : Nat) (v : Part) : (s.setPart p v).links = s.links := rfl
@[simp] theorem State.setPart_scratch (s : State) (p : Nat) (v : Part) : (s.setPart p v).scratch = s.scratch := rfl
@[simp] theorem State.setPart_media (s : State) (p : Nat) (v : Part) : (s.setPart p v).media = s.media := rfl
@[simp] theorem State.setPart_collInject (s : State) (p : Nat) (v : Part) : (s.setPart p v).collInject = s.collInject := rfl
@[simp] theorem State.setPart_updInject (s : State) (p : Nat) (v : Part) : (s.setPart p v).updInject = s.updInject := rfl
@[simp] theorem State.setPart_memc (s : State) (p : Nat) (v : Part) : (s.setPart p v).memc = s.memc := rfl
@[simp] theorem State.setPart_mem (s : State) (p : Nat) (v : Part) : (s.setPart p v).mem = s.mem := rfl
@[simp] theorem State.setPart_poison (s : State) (p : Nat) (v : Part) : (s.setPart p v).poison = s.poison := rfl
@[simp] theorem State.setPart_fab (s : State) (p : Nat) (v : Part) : (s.setPart p v).fab = s.fab := rfl
@[simp] theorem State.setPart_macs (s : State) (p : Nat) (v : Part) : (s.setPart p v).macs = s.macs := rfl
@[simp] theorem State.setPart_chans (s : State) (p : Nat) (v : Part) : (s.setPart p v).chans = s.chans := rfl
@[simp] theorem State.setPart_acc (s : State) (p : Nat) (v : Part) : (s.setPart p v).acc = s.acc := rfl
@[simp] theorem State.setPart_accGen (s : State) (p : Nat) (v : Part) : (s.setPart p v).accGen = s.accGen := rfl
@[simp] theorem State.setPart_res (s : State) (p : Nat) (v : Part) : (s.setPart p v).res = s.res := rfl
@[simp] theorem State.setPart_clbuf (s : State) (p : Nat) (v : Part) : (s.setPart p v).clbuf = s.clbuf := rfl
@[simp] theorem State.setPart_opbuf (s : State) (p : Nat) (v : Part) : (s.setPart p v).opbuf = s.opbuf := rfl
@[simp] theorem State.setPart_chipFixed (s : State) (p : Nat) (v : Part) : (s.setPart p v).chipFixed = s.chipFixed := rfl
@[simp] theorem State.setPart_vec (s : State) (p : Nat) (v : Part) : (s.setPart p v).vec = s.vec := rfl
@[simp] theorem State.setPart_upd (s : State) (p : Nat) (v : Part) : (s.setPart p v).upd = s.upd := rfl
@[simp] theorem State.setPart_atts (s : State) (p : Nat) (v : Part) : (s.setPart p v).atts = s.atts := rfl
@[simp] theorem State.setPart_served (s : State) (p : Nat) (v : Part) : (s.setPart p v).served = s.served := rfl
@[simp] theorem State.setPart_image (s : State) (p : Nat) (v : Part) : (s.setPart p v).image = s.image := rfl
@[simp] theorem State.setPart_halted (s : State) (p : Nat) (v : Part) : (s.setPart p v).halted = s.halted := rfl
@[simp] theorem State.setPart_fresh (s : State) (p : Nat) (v : Part) : (s.setPart p v).fresh = s.fresh := rfl
@[simp] theorem State.setPart_out (s : State) (p : Nat) (v : Part) : (s.setPart p v).out = s.out := rfl
@[simp] theorem State.setPart_pending (s : State) (p : Nat) (v : Part) : (s.setPart p v).pending = s.pending := rfl

/-! ## What `updPart` leaves -/

@[simp] theorem State.updPart_fuse (s : State) (p : Nat) (f : Part → Part) : (s.updPart p f).fuse = s.fuse := rfl
@[simp] theorem State.updPart_now (s : State) (p : Nat) (f : Part → Part) : (s.updPart p f).now = s.now := rfl
@[simp] theorem State.updPart_tick (s : State) (p : Nat) (f : Part → Part) : (s.updPart p f).tick = s.tick := rfl
@[simp] theorem State.updPart_ptp (s : State) (p : Nat) (f : Part → Part) : (s.updPart p f).ptp = s.ptp := rfl
@[simp] theorem State.updPart_record (s : State) (p : Nat) (f : Part → Part) : (s.updPart p f).rec' = s.rec' := rfl
@[simp] theorem State.updPart_mgmt (s : State) (p : Nat) (f : Part → Part) : (s.updPart p f).mgmt = s.mgmt := rfl
@[simp] theorem State.updPart_sec (s : State) (p : Nat) (f : Part → Part) : (s.updPart p f).sec = s.sec := rfl
@[simp] theorem State.updPart_pwr (s : State) (p : Nat) (f : Part → Part) : (s.updPart p f).pwr = s.pwr := rfl
@[simp] theorem State.updPart_pins (s : State) (p : Nat) (f : Part → Part) : (s.updPart p f).pins = s.pins := rfl
@[simp] theorem State.updPart_links (s : State) (p : Nat) (f : Part → Part) : (s.updPart p f).links = s.links := rfl
@[simp] theorem State.updPart_scratch (s : State) (p : Nat) (f : Part → Part) : (s.updPart p f).scratch = s.scratch := rfl
@[simp] theorem State.updPart_media (s : State) (p : Nat) (f : Part → Part) : (s.updPart p f).media = s.media := rfl
@[simp] theorem State.updPart_collInject (s : State) (p : Nat) (f : Part → Part) : (s.updPart p f).collInject = s.collInject := rfl
@[simp] theorem State.updPart_updInject (s : State) (p : Nat) (f : Part → Part) : (s.updPart p f).updInject = s.updInject := rfl
@[simp] theorem State.updPart_memc (s : State) (p : Nat) (f : Part → Part) : (s.updPart p f).memc = s.memc := rfl
@[simp] theorem State.updPart_mem (s : State) (p : Nat) (f : Part → Part) : (s.updPart p f).mem = s.mem := rfl
@[simp] theorem State.updPart_poison (s : State) (p : Nat) (f : Part → Part) : (s.updPart p f).poison = s.poison := rfl
@[simp] theorem State.updPart_fab (s : State) (p : Nat) (f : Part → Part) : (s.updPart p f).fab = s.fab := rfl
@[simp] theorem State.updPart_macs (s : State) (p : Nat) (f : Part → Part) : (s.updPart p f).macs = s.macs := rfl
@[simp] theorem State.updPart_chans (s : State) (p : Nat) (f : Part → Part) : (s.updPart p f).chans = s.chans := rfl
@[simp] theorem State.updPart_acc (s : State) (p : Nat) (f : Part → Part) : (s.updPart p f).acc = s.acc := rfl
@[simp] theorem State.updPart_accGen (s : State) (p : Nat) (f : Part → Part) : (s.updPart p f).accGen = s.accGen := rfl
@[simp] theorem State.updPart_res (s : State) (p : Nat) (f : Part → Part) : (s.updPart p f).res = s.res := rfl
@[simp] theorem State.updPart_clbuf (s : State) (p : Nat) (f : Part → Part) : (s.updPart p f).clbuf = s.clbuf := rfl
@[simp] theorem State.updPart_opbuf (s : State) (p : Nat) (f : Part → Part) : (s.updPart p f).opbuf = s.opbuf := rfl
@[simp] theorem State.updPart_chipFixed (s : State) (p : Nat) (f : Part → Part) : (s.updPart p f).chipFixed = s.chipFixed := rfl
@[simp] theorem State.updPart_vec (s : State) (p : Nat) (f : Part → Part) : (s.updPart p f).vec = s.vec := rfl
@[simp] theorem State.updPart_upd (s : State) (p : Nat) (f : Part → Part) : (s.updPart p f).upd = s.upd := rfl
@[simp] theorem State.updPart_atts (s : State) (p : Nat) (f : Part → Part) : (s.updPart p f).atts = s.atts := rfl
@[simp] theorem State.updPart_served (s : State) (p : Nat) (f : Part → Part) : (s.updPart p f).served = s.served := rfl
@[simp] theorem State.updPart_image (s : State) (p : Nat) (f : Part → Part) : (s.updPart p f).image = s.image := rfl
@[simp] theorem State.updPart_halted (s : State) (p : Nat) (f : Part → Part) : (s.updPart p f).halted = s.halted := rfl
@[simp] theorem State.updPart_fresh (s : State) (p : Nat) (f : Part → Part) : (s.updPart p f).fresh = s.fresh := rfl
@[simp] theorem State.updPart_out (s : State) (p : Nat) (f : Part → Part) : (s.updPart p f).out = s.out := rfl
@[simp] theorem State.updPart_pending (s : State) (p : Nat) (f : Part → Part) : (s.updPart p f).pending = s.pending := rfl

/-! ## What `updDesc` leaves -/

@[simp] theorem State.updDesc_fuse (s : State) (r : DRef) (f : Desc → Desc) : (s.updDesc r f).fuse = s.fuse := rfl
@[simp] theorem State.updDesc_now (s : State) (r : DRef) (f : Desc → Desc) : (s.updDesc r f).now = s.now := rfl
@[simp] theorem State.updDesc_tick (s : State) (r : DRef) (f : Desc → Desc) : (s.updDesc r f).tick = s.tick := rfl
@[simp] theorem State.updDesc_ptp (s : State) (r : DRef) (f : Desc → Desc) : (s.updDesc r f).ptp = s.ptp := rfl
@[simp] theorem State.updDesc_record (s : State) (r : DRef) (f : Desc → Desc) : (s.updDesc r f).rec' = s.rec' := rfl
@[simp] theorem State.updDesc_mgmt (s : State) (r : DRef) (f : Desc → Desc) : (s.updDesc r f).mgmt = s.mgmt := rfl
@[simp] theorem State.updDesc_sec (s : State) (r : DRef) (f : Desc → Desc) : (s.updDesc r f).sec = s.sec := rfl
@[simp] theorem State.updDesc_pwr (s : State) (r : DRef) (f : Desc → Desc) : (s.updDesc r f).pwr = s.pwr := rfl
@[simp] theorem State.updDesc_pins (s : State) (r : DRef) (f : Desc → Desc) : (s.updDesc r f).pins = s.pins := rfl
@[simp] theorem State.updDesc_links (s : State) (r : DRef) (f : Desc → Desc) : (s.updDesc r f).links = s.links := rfl
@[simp] theorem State.updDesc_scratch (s : State) (r : DRef) (f : Desc → Desc) : (s.updDesc r f).scratch = s.scratch := rfl
@[simp] theorem State.updDesc_media (s : State) (r : DRef) (f : Desc → Desc) : (s.updDesc r f).media = s.media := rfl
@[simp] theorem State.updDesc_collInject (s : State) (r : DRef) (f : Desc → Desc) : (s.updDesc r f).collInject = s.collInject := rfl
@[simp] theorem State.updDesc_updInject (s : State) (r : DRef) (f : Desc → Desc) : (s.updDesc r f).updInject = s.updInject := rfl
@[simp] theorem State.updDesc_memc (s : State) (r : DRef) (f : Desc → Desc) : (s.updDesc r f).memc = s.memc := rfl
@[simp] theorem State.updDesc_mem (s : State) (r : DRef) (f : Desc → Desc) : (s.updDesc r f).mem = s.mem := rfl
@[simp] theorem State.updDesc_poison (s : State) (r : DRef) (f : Desc → Desc) : (s.updDesc r f).poison = s.poison := rfl
@[simp] theorem State.updDesc_fab (s : State) (r : DRef) (f : Desc → Desc) : (s.updDesc r f).fab = s.fab := rfl
@[simp] theorem State.updDesc_macs (s : State) (r : DRef) (f : Desc → Desc) : (s.updDesc r f).macs = s.macs := rfl
@[simp] theorem State.updDesc_chans (s : State) (r : DRef) (f : Desc → Desc) : (s.updDesc r f).chans = s.chans := rfl
@[simp] theorem State.updDesc_acc (s : State) (r : DRef) (f : Desc → Desc) : (s.updDesc r f).acc = s.acc := rfl
@[simp] theorem State.updDesc_accGen (s : State) (r : DRef) (f : Desc → Desc) : (s.updDesc r f).accGen = s.accGen := rfl
@[simp] theorem State.updDesc_res (s : State) (r : DRef) (f : Desc → Desc) : (s.updDesc r f).res = s.res := rfl
@[simp] theorem State.updDesc_clbuf (s : State) (r : DRef) (f : Desc → Desc) : (s.updDesc r f).clbuf = s.clbuf := rfl
@[simp] theorem State.updDesc_opbuf (s : State) (r : DRef) (f : Desc → Desc) : (s.updDesc r f).opbuf = s.opbuf := rfl
@[simp] theorem State.updDesc_chipFixed (s : State) (r : DRef) (f : Desc → Desc) : (s.updDesc r f).chipFixed = s.chipFixed := rfl
@[simp] theorem State.updDesc_vec (s : State) (r : DRef) (f : Desc → Desc) : (s.updDesc r f).vec = s.vec := rfl
@[simp] theorem State.updDesc_upd (s : State) (r : DRef) (f : Desc → Desc) : (s.updDesc r f).upd = s.upd := rfl
@[simp] theorem State.updDesc_atts (s : State) (r : DRef) (f : Desc → Desc) : (s.updDesc r f).atts = s.atts := rfl
@[simp] theorem State.updDesc_served (s : State) (r : DRef) (f : Desc → Desc) : (s.updDesc r f).served = s.served := rfl
@[simp] theorem State.updDesc_image (s : State) (r : DRef) (f : Desc → Desc) : (s.updDesc r f).image = s.image := rfl
@[simp] theorem State.updDesc_halted (s : State) (r : DRef) (f : Desc → Desc) : (s.updDesc r f).halted = s.halted := rfl
@[simp] theorem State.updDesc_fresh (s : State) (r : DRef) (f : Desc → Desc) : (s.updDesc r f).fresh = s.fresh := rfl
@[simp] theorem State.updDesc_out (s : State) (r : DRef) (f : Desc → Desc) : (s.updDesc r f).out = s.out := rfl
@[simp] theorem State.updDesc_pending (s : State) (r : DRef) (f : Desc → Desc) : (s.updDesc r f).pending = s.pending := rfl

/-! ## What `setAtt` leaves -/

@[simp] theorem State.setAtt_fuse (s : State) (a : Nat) (v : Attach) : (s.setAtt a v).fuse = s.fuse := rfl
@[simp] theorem State.setAtt_now (s : State) (a : Nat) (v : Attach) : (s.setAtt a v).now = s.now := rfl
@[simp] theorem State.setAtt_tick (s : State) (a : Nat) (v : Attach) : (s.setAtt a v).tick = s.tick := rfl
@[simp] theorem State.setAtt_ptp (s : State) (a : Nat) (v : Attach) : (s.setAtt a v).ptp = s.ptp := rfl
@[simp] theorem State.setAtt_record (s : State) (a : Nat) (v : Attach) : (s.setAtt a v).rec' = s.rec' := rfl
@[simp] theorem State.setAtt_mgmt (s : State) (a : Nat) (v : Attach) : (s.setAtt a v).mgmt = s.mgmt := rfl
@[simp] theorem State.setAtt_sec (s : State) (a : Nat) (v : Attach) : (s.setAtt a v).sec = s.sec := rfl
@[simp] theorem State.setAtt_pwr (s : State) (a : Nat) (v : Attach) : (s.setAtt a v).pwr = s.pwr := rfl
@[simp] theorem State.setAtt_pins (s : State) (a : Nat) (v : Attach) : (s.setAtt a v).pins = s.pins := rfl
@[simp] theorem State.setAtt_links (s : State) (a : Nat) (v : Attach) : (s.setAtt a v).links = s.links := rfl
@[simp] theorem State.setAtt_scratch (s : State) (a : Nat) (v : Attach) : (s.setAtt a v).scratch = s.scratch := rfl
@[simp] theorem State.setAtt_media (s : State) (a : Nat) (v : Attach) : (s.setAtt a v).media = s.media := rfl
@[simp] theorem State.setAtt_collInject (s : State) (a : Nat) (v : Attach) : (s.setAtt a v).collInject = s.collInject := rfl
@[simp] theorem State.setAtt_updInject (s : State) (a : Nat) (v : Attach) : (s.setAtt a v).updInject = s.updInject := rfl
@[simp] theorem State.setAtt_memc (s : State) (a : Nat) (v : Attach) : (s.setAtt a v).memc = s.memc := rfl
@[simp] theorem State.setAtt_mem (s : State) (a : Nat) (v : Attach) : (s.setAtt a v).mem = s.mem := rfl
@[simp] theorem State.setAtt_poison (s : State) (a : Nat) (v : Attach) : (s.setAtt a v).poison = s.poison := rfl
@[simp] theorem State.setAtt_fab (s : State) (a : Nat) (v : Attach) : (s.setAtt a v).fab = s.fab := rfl
@[simp] theorem State.setAtt_macs (s : State) (a : Nat) (v : Attach) : (s.setAtt a v).macs = s.macs := rfl
@[simp] theorem State.setAtt_chans (s : State) (a : Nat) (v : Attach) : (s.setAtt a v).chans = s.chans := rfl
@[simp] theorem State.setAtt_acc (s : State) (a : Nat) (v : Attach) : (s.setAtt a v).acc = s.acc := rfl
@[simp] theorem State.setAtt_accGen (s : State) (a : Nat) (v : Attach) : (s.setAtt a v).accGen = s.accGen := rfl
@[simp] theorem State.setAtt_res (s : State) (a : Nat) (v : Attach) : (s.setAtt a v).res = s.res := rfl
@[simp] theorem State.setAtt_clbuf (s : State) (a : Nat) (v : Attach) : (s.setAtt a v).clbuf = s.clbuf := rfl
@[simp] theorem State.setAtt_opbuf (s : State) (a : Nat) (v : Attach) : (s.setAtt a v).opbuf = s.opbuf := rfl
@[simp] theorem State.setAtt_chipFixed (s : State) (a : Nat) (v : Attach) : (s.setAtt a v).chipFixed = s.chipFixed := rfl
@[simp] theorem State.setAtt_vec (s : State) (a : Nat) (v : Attach) : (s.setAtt a v).vec = s.vec := rfl
@[simp] theorem State.setAtt_upd (s : State) (a : Nat) (v : Attach) : (s.setAtt a v).upd = s.upd := rfl
@[simp] theorem State.setAtt_parts (s : State) (a : Nat) (v : Attach) : (s.setAtt a v).parts = s.parts := rfl
@[simp] theorem State.setAtt_served (s : State) (a : Nat) (v : Attach) : (s.setAtt a v).served = s.served := rfl
@[simp] theorem State.setAtt_image (s : State) (a : Nat) (v : Attach) : (s.setAtt a v).image = s.image := rfl
@[simp] theorem State.setAtt_halted (s : State) (a : Nat) (v : Attach) : (s.setAtt a v).halted = s.halted := rfl
@[simp] theorem State.setAtt_fresh (s : State) (a : Nat) (v : Attach) : (s.setAtt a v).fresh = s.fresh := rfl
@[simp] theorem State.setAtt_out (s : State) (a : Nat) (v : Attach) : (s.setAtt a v).out = s.out := rfl
@[simp] theorem State.setAtt_pending (s : State) (a : Nat) (v : Attach) : (s.setAtt a v).pending = s.pending := rfl

/-! ## What `emit` leaves -/

@[simp] theorem State.emit_fuse (s : State) (o : Out) : (s.emit o).fuse = s.fuse := rfl
@[simp] theorem State.emit_now (s : State) (o : Out) : (s.emit o).now = s.now := rfl
@[simp] theorem State.emit_tick (s : State) (o : Out) : (s.emit o).tick = s.tick := rfl
@[simp] theorem State.emit_ptp (s : State) (o : Out) : (s.emit o).ptp = s.ptp := rfl
@[simp] theorem State.emit_record (s : State) (o : Out) : (s.emit o).rec' = s.rec' := rfl
@[simp] theorem State.emit_mgmt (s : State) (o : Out) : (s.emit o).mgmt = s.mgmt := rfl
@[simp] theorem State.emit_sec (s : State) (o : Out) : (s.emit o).sec = s.sec := rfl
@[simp] theorem State.emit_pwr (s : State) (o : Out) : (s.emit o).pwr = s.pwr := rfl
@[simp] theorem State.emit_pins (s : State) (o : Out) : (s.emit o).pins = s.pins := rfl
@[simp] theorem State.emit_links (s : State) (o : Out) : (s.emit o).links = s.links := rfl
@[simp] theorem State.emit_scratch (s : State) (o : Out) : (s.emit o).scratch = s.scratch := rfl
@[simp] theorem State.emit_media (s : State) (o : Out) : (s.emit o).media = s.media := rfl
@[simp] theorem State.emit_collInject (s : State) (o : Out) : (s.emit o).collInject = s.collInject := rfl
@[simp] theorem State.emit_updInject (s : State) (o : Out) : (s.emit o).updInject = s.updInject := rfl
@[simp] theorem State.emit_memc (s : State) (o : Out) : (s.emit o).memc = s.memc := rfl
@[simp] theorem State.emit_mem (s : State) (o : Out) : (s.emit o).mem = s.mem := rfl
@[simp] theorem State.emit_poison (s : State) (o : Out) : (s.emit o).poison = s.poison := rfl
@[simp] theorem State.emit_fab (s : State) (o : Out) : (s.emit o).fab = s.fab := rfl
@[simp] theorem State.emit_macs (s : State) (o : Out) : (s.emit o).macs = s.macs := rfl
@[simp] theorem State.emit_chans (s : State) (o : Out) : (s.emit o).chans = s.chans := rfl
@[simp] theorem State.emit_acc (s : State) (o : Out) : (s.emit o).acc = s.acc := rfl
@[simp] theorem State.emit_accGen (s : State) (o : Out) : (s.emit o).accGen = s.accGen := rfl
@[simp] theorem State.emit_res (s : State) (o : Out) : (s.emit o).res = s.res := rfl
@[simp] theorem State.emit_clbuf (s : State) (o : Out) : (s.emit o).clbuf = s.clbuf := rfl
@[simp] theorem State.emit_opbuf (s : State) (o : Out) : (s.emit o).opbuf = s.opbuf := rfl
@[simp] theorem State.emit_chipFixed (s : State) (o : Out) : (s.emit o).chipFixed = s.chipFixed := rfl
@[simp] theorem State.emit_vec (s : State) (o : Out) : (s.emit o).vec = s.vec := rfl
@[simp] theorem State.emit_upd (s : State) (o : Out) : (s.emit o).upd = s.upd := rfl
@[simp] theorem State.emit_atts (s : State) (o : Out) : (s.emit o).atts = s.atts := rfl
@[simp] theorem State.emit_parts (s : State) (o : Out) : (s.emit o).parts = s.parts := rfl
@[simp] theorem State.emit_served (s : State) (o : Out) : (s.emit o).served = s.served := rfl
@[simp] theorem State.emit_image (s : State) (o : Out) : (s.emit o).image = s.image := rfl
@[simp] theorem State.emit_halted (s : State) (o : Out) : (s.emit o).halted = s.halted := rfl
@[simp] theorem State.emit_fresh (s : State) (o : Out) : (s.emit o).fresh = s.fresh := rfl
@[simp] theorem State.emit_pending (s : State) (o : Out) : (s.emit o).pending = s.pending := rfl

end Sys2Proof.Machine
end

