-- ==== Sys2Proof/Laws/Vector.lean ====
section
/-!
SUPPORT. What a masked write of a tile register leaves in its elements.
-/

namespace Sys2Proof.Machine

theorem joinWord_cons (w x : Nat) (l : List Nat) : joinWord w (x :: l) = x % 2 ^ w + 2 ^ w * joinWord w l := rfl

/-- Splitting a joined word gives its fields back, each in its width. -/
theorem splitWord_joinWord (w : Nat) : ∀ l : List Nat, splitWord w l.length (joinWord w l) = l.map (· % 2 ^ w)
  | [] => rfl
  | x :: l => by
    rw [List.length_cons, splitWord, joinWord_cons, List.map_cons]
    have h : 0 < 2 ^ w := Nat.pos_of_ne_zero (by simp)
    rw [Nat.add_mul_mod_self_left, Nat.mod_mod, Nat.add_mul_div_left _ _ h, Nat.div_eq_of_lt (Nat.mod_lt _ h), Nat.zero_add,
      splitWord_joinWord w l]

theorem pieces_flatMap {α β : Type} (k : Nat) (f : List α → List β) (g : α → β) (hf : ∀ l : List α, l.length = k → f l = l.map g) :
    ∀ (n : Nat) (l : List α), l.length = n * k → (pieces k n l).flatMap f = l.map g
  | 0, l, h => by
    have : l = [] := List.length_eq_zero_iff.1 (by omega)
    simp [pieces, this]
  | n + 1, l, h => by
    have e : (n + 1) * k = n * k + k := Nat.succ_mul n k
    rw [pieces, List.flatMap_cons, hf _ (by rw [List.length_take]; omega),
      pieces_flatMap k f g hf n _ (by rw [List.length_drop]; omega), ← List.map_append, List.take_append_drop]

theorem pieces_length {α : Type} (k : Nat) : ∀ (n : Nat) (l : List α), (pieces k n l).length = n
  | 0, _ => rfl
  | n + 1, l => by rw [pieces, List.length_cons, pieces_length k n]

/-- An element in the width of its view. -/
theorem splitView_joinView (typ : Nat) (l : List Nat) (h : l.length = 1024 * (32 / viewBits typ)) :
    splitView typ (joinView typ l) = if isWide typ then l else l.map (· % 2 ^ viewBits typ) := by
  unfold splitView joinView
  split
  · rfl
  · rw [List.flatMap_map]
    exact pieces_flatMap _ _ _ (fun l hl => by rw [← hl]; exact splitWord_joinWord _ l) _ _ h

theorem splitWord_length (w : Nat) : ∀ n x : Nat, (splitWord w n x).length = n
  | 0, _ => rfl
  | n + 1, x => by rw [splitWord, List.length_cons, splitWord_length w n]

/-- A register of 1,024 words has 1,024 × (32 / width) elements. -/
theorem splitView_length (typ : Nat) (l : List Nat) :
    (splitView typ l).length = if isWide typ then l.length else l.length * (32 / viewBits typ) := by
  unfold splitView
  split
  · rfl
  · induction l with
    | nil => simp
    | cons a l ih => rw [List.flatMap_cons, List.length_append, splitWord_length, ih, List.length_cons, Nat.succ_mul, Nat.add_comm]

theorem joinView_length (typ : Nat) (l : List Nat) : (joinView typ l).length = if isWide typ then l.length else 1024 := by
  unfold joinView
  split
  · rfl
  · rw [List.length_map, pieces_length]

/-- The registers after a masked write: D alone changes. -/
theorem VCtx.put_other (x : VCtx) (typ h k d r : Nat) (vals : List Nat) (hr : r ≠ d) :
    tlook (x.put typ h k d vals).regs r = tlook x.regs r := by
  simp [VCtx.put, tlook_tput, Ne.symm hr]

/-- The elements of D after a masked write. -/
theorem VCtx.put_elems (x : VCtx) (typ h k d : Nat) (vals : List Nat)
    (hn : (((x.marks k typ h).zip (vals.zip (x.elems typ d))).map fun (m, v, old) => if m then v else old).length =
      1024 * (32 / viewBits typ)) :
    (x.put typ h k d vals).elems typ d =
      (fun l => if isWide typ then l else l.map (· % 2 ^ viewBits typ))
        (((x.marks k typ h).zip (vals.zip (x.elems typ d))).map fun (m, v, old) => if m then v else old) := by
  simp only [VCtx.elems, VCtx.words, VCtx.put, tlook_tput, if_pos, Option.getD_some]
  exact splitView_joinView typ _ hn

end Sys2Proof.Machine
end

