-- ==== Sys2Proof/WellFormed.lean ====
section
/-!
DEFINITION. Which commands are well formed: every operand lies in the range its rule gives it.
-/

namespace Sys2Proof

/-- An attachment number and an LD_ID (R16, R233). -/
def Port.wf (h : Port) : Bool := decide (h.att < 4 ∧ h.ld < 16)
/-- Partition, submission ring and descriptor number modulo 2^32 (R194, R196). -/
def DRef.wf (r : DRef) : Bool := decide (r.part < 8 ∧ r.ring < 256 ∧ r.num < 2 ^ 32)
/-- Cluster and engine numbers (R15, R124). -/
def VecAt.wf (p : VecAt) : Bool := p.ref.wf && decide (p.cluster < 80 ∧ p.engine < 4)
/-- The widths of R134's fields. -/
def VInst.wf (i : VInst) : Bool :=
  decide (i.typ < 16 ∧ i.md < 16 ∧ i.pm < 16 ∧ i.k < 8 ∧ i.a < 64 ∧ i.b < 64 ∧ i.c < 64 ∧ i.d < 64) &&
  decide (i.fn < 2 ^ 16 ∧ i.imm < 2 ^ 32)
/-- Partition, binding and update engine (R445, R15). -/
def UpdAt.wf (p : UpdAt) : Bool := decide (p.part < 8 ∧ p.bind < 1024 ∧ p.engine < 20)
/-- The widths of R454's fields. -/
def UInst.wf (i : UInst) : Bool := decide (i.md < 4 ∧ i.d < 64 ∧ i.a < 64 ∧ i.b < 64 ∧ i.c < 64)
/-- One of 32 MACs (R377), a 32-byte header (R381). -/
def RxFrame.wf (f : RxFrame) : Bool :=
  decide (f.mac < 32 ∧ f.etype < 2 ^ 16 ∧ f.vid < 2 ^ 12 ∧ f.e2e < 2 ^ 32 ∧ f.hdr.length = 32)
/-- One of 32 MACs, a VLAN identifier, a domain number (R377, R379, R396). -/
def PtpFrame.wf (f : PtpFrame) : Bool := decide (f.mac < 32 ∧ f.vid < 2 ^ 12 ∧ f.domain < 256)
/-- A page write comes over a port. -/
def RegSrc.wf : RegSrc → Bool
  | .mgmt => true
  | .page h => h.wf
/-- A connection and a session identifier (R518). -/
def Spdm.wf (q : Spdm) : Bool := decide (q.conn < 2 ^ 16 ∧ q.session.getD 0 < 2 ^ 32)
/-- An ECC outcome's lane is one of 34 (R266). -/
def Ecc.wf : Ecc → Bool
  | .corrected lane => decide (lane < 34)
  | .undetected bytes => decide (bytes.length = 64)
  | .clean | .uncorrectable => true
/-- A local address, or a WHERE code of on-chip storage and a cluster, 0xFF outside clusters (R530). -/
def Found.wf : Found → Bool
  | .sector addr ecc => decide (addr < 2 ^ 44) && ecc.wf
  | .word store cluster _ => decide (1 ≤ store ∧ store < 6 ∧ (cluster < 80 ∨ cluster = 0xFF))
/-- Stack and channel numbers (R265) and lanes of one channel. -/
def ChanFault.wf (f : ChanFault) : Bool := decide (f.stack < 20 ∧ f.ch < 32 ∧ f.dataLanes ≤ 68)
/-- An act of a descriptor with its findings. -/
def Reading.wf (r : Reading) : Bool := r.ref.wf && r.found.all Found.wf
/-- A session identifier of 32 bits, a request identifier of 16, a COMMAND byte (R508). -/
def Msg.wf (m : Msg) : Bool := decide (m.session.getD 0 < 2 ^ 32 ∧ m.req < 2 ^ 16 ∧ m.cmd < 256) && m.found.all Found.wf
def BootResult.wf (b : BootResult) : Bool := decide (b.failStep < 8)

/-- The operands of a command lie in their ranges. -/
def Instr.wf : Instr → Bool
  | .registerWrite src addr size v => src.wf && decide (addr < 2 ^ 64 ∧ size < 2 ^ 32) && v.found.all Found.wf
  | .sqProducer h ring _ | .cqConsumer h ring _ => h.wf && decide (ring < 256)
  | .ringCtlSubmission h v | .ringCtlCompletion h v | .partBufCommit h v | .partExcBase h v | .partFwuCmd h v =>
    h.wf && v.found.all Found.wf
  | .resume h _ | .cancelTag h _ | .cancelFromTag h _
  | .cancelRing h _ | .cancelPartition h _ | .hdmDecoderCommit h _ | .functionLevelReset h
  | .partDrowse h _ _ => h.wf
  | .descriptorFetch part ⟨ring, found⟩ => decide (part < 8 ∧ ring < 256) && found.all Found.wf
  | .waitGe r | .waitEq r | .set r | .add r | .stateDump r | .give r | .truncate r | .free r | .sampleCommit r _ => r.wf
  | .sliceEnd r _ _ | .descriptorComplete r | .nop r | .copy r | .accSave r | .accRestore r | .matmul r | .convFwd r
  | .convDgrad r | .convWgrad r | .poolMax r | .poolAvgIncl r | .poolAvgExcl r | .poolMaxBwd r
  | .poolAvgInclBwd r | .poolAvgExclBwd r | .boxDecode r | .overlapSuppress r | .vec r | .xc16Encode r
  | .xc16Decode r | .attnScore r | .attnNorm r | .attnPv r | .attnBwd r | .decodeStep r | .seqResume r
  | .mediaSample r | .streamClose r | .sampleStart r _ _ | .broadcast r | .barrier r | .permute r | .updateBind r | .updateUnbind r | .lateReport r => r.wf
  | .descriptorAdmit ⟨r, found⟩ | .sliceIssue ⟨r, found⟩ _ | .streamOpen r found | .sampleDecodeEnd r _ found | .gather ⟨r, found⟩
  | .reduceScatter ⟨r, found⟩ | .allReduce ⟨r, found⟩ | .chunkSend ⟨r, found⟩ | .permuteMove ⟨r, found⟩ _ | .updateChunk ⟨r, found⟩ _
  | .regenerate ⟨r, found⟩ | .compute ⟨r, found⟩ | .compare ⟨r, found⟩ | .save ⟨r, found⟩ | .load ⟨r, found⟩ => r.wf && found.all Found.wf
  | .completionEntryWrite part cq => decide (part < 8 ∧ cq.cq < 128) && cq.found.all Found.wf
  | .msixTableWrite h v word _ => h.wf && decide (v < 2048 ∧ word < 4)
  | .vecNop p i | .vecLd p i | .vecSt p i | .vecMov p i | .vecConst p i | .vecIota p i | .vecAdd p i
  | .vecSub p i | .vecMul p i | .vecFma p i | .vecMax p i | .vecMin p i | .vecAbs p i | .vecNeg p i
  | .vecDiv p i | .vecSqrt p i | .vecRcp p i | .vecRsqrt p i | .vecExp p i | .vecExp2 p i | .vecLog p i
  | .vecLog2 p i | .vecSin p i | .vecCos p i | .vecTanh p i | .vecSigmoid p i | .vecErf p i | .vecCmp p i
  | .vecSel p i | .vecKop p i | .vecAnd p i | .vecOr p i | .vecXor p i | .vecShl p i | .vecShr p i
  | .vecSra p i | .vecCvt p i | .vecPack p i | .vecUnpk p i | .vecTrn p i | .vecPerm p i | .vecShuf p i
  | .vecBcst p i | .vecRsum p i | .vecRmax p i | .vecRmin p i | .vecRargmax p i | .vecRand p i | .updNop p i
  | .updMov p i | .updAdd p i | .updSub p i | .updMul p i | .updFma p i | .updDiv p i | .updSqrt p i
  | .updRsqrt p i | .updRcp p i | .updMax p i | .updMin p i | .updAbs p i | .updNeg p i | .updCmp p i
  | .updSel p i | .updMrd p i | .updMadd p i | .updExp2 p i | .updLog2 p i | .updBsum p i | .updBmax p i
    => p.wf && i.wf
  | .tickBoundary input => input.found.all Found.wf
  | .bind v _ => v.found.all Found.wf
  | .firmwareUpdateComplete code _ => code.found.all Found.wf
  | .snapshotPublish | .tickStageAt _ | .tickEpoch _ _ | .syncInterval | .announceInterval
  | .delayReqInterval | .helloTimer | .censusResend _ | .censusPeriodic | .censusQuiet | .censusLimit
  | .fabricLinkTimeout | .start | .unbind _ | .train
  | .dieSensorSample _ _ | .go _ | .packageStateEntered | .release _ | .aonResetN _ | .coldResetN | .warmResetN
  | .cold | .warm | .mainPwrgd _ | .refclk100Loss | .refclk156Loss | .refclk25Loss | .freeze | .unfreeze
  | .kick | .watchdogExpiry _ | .lock | .nonceExpiry | .getEndpointId | .getMctpVersionSupport _
  | .getMessageTypeSupport | .getSensorReading _ | .getPdr _ | .getPdrRepositoryInfo | .requestUpdate
  | .passComponentTable _ | .activateFirmware _ | .dieLinkTrainingComplete _ _ | .refclk100Return
  | .refclk156Return | .refclk25Return | .alwaysOnRailLoss | .recorderDrain _ | .managementEccError _ _
  | .packageStateExitComplete => true
  | .laneRepairEnd stack ch => decide (stack < 20 ∧ ch < 32)
  | .waitCycleReport part | .flrWaitExpiry part => decide (part < 8)
  | .sync f _ _ _ _ seq | .followUp f _ _ _ seq | .delayReq f _ seq _ | .delayResp f seq _
    => f.wf && decide (seq < 2 ^ 16)
  | .announce f _ | .ptpIgnoredMessage f _ => f.wf
  | .announceReceiptTimeout mac | .helloWaitExpiry mac | .macLinkChange mac _ | .pfcFrame mac _ _ | .pause mac => decide (mac < 32)
  | .data ⟨f, found⟩ | .trailer ⟨f, found⟩ | .token ⟨f, found⟩ => f.wf && found.all Found.wf
  | .ack f | .hello f | .census f _ | .chReset f | .chResetAck f | .bases f | .grant f => f.wf
  | .ackTimer ch | .channelFailTimeout ch | .chResetRetry ch | .chResetTimeout ch => decide (ch < 512)
  | .rtoExpiry ch seq => decide (ch < 512 ∧ seq < 2 ^ 32)
  | .cxlMemRead h addr ecc => h.wf && ecc.wf && decide (addr < 2 ^ 64)
  | .cxlMemWrite h addr line => h.wf && decide (addr < 2 ^ 64 ∧ line.length = 64)
  | .linkReset att | .attachmentLinkChange att _ _ _ => decide (att < 4)
  | .perstN q => decide (q < 2)
  | .partitionCreate p | .partitionReady p | .partitionDestroy p | .partitionDestroyExpiry p => decide (p < 8)
  | .modeWrite p mode => decide (p < 8 ∧ mode < 4)
  | .trainingComplete faults => faults.all ChanFault.wf
  | .patrolScrub addr ecc => ecc.wf && decide (addr < 2 ^ 64)
  | .stackTempSample stack temp => decide (stack < 20 ∧ temp < 256)
  | .dieLinkFailure link | .dieLinkRetrain link _ => decide (link < 4)
  | .swapComplete part seq => decide (part < 8 ∧ seq.seq < 2 ^ 32) && seq.found.all Found.wf
  | .wakeAddressMatch addr | .dynamicAddressAssignment addr => decide (addr < 2 ^ 64)
  | .thermalAlert temp => decide (temp < 256)
  | .bootComplete b => b.wf
  | .getInfo m | .recorderRead m | .recorderFreeze m | .recorderUnfreeze m | .logRead m | .partitionSet m
  | .partitionMode m | .partitionClear m | .policySet m | .fabricId m | .fabricSetup m | .jobBind m _
  | .jobUnbind m | .tickStage m | .powerState m | .governorSet m | .retireRecord m | .debugUnlock m | .policy m
    => m.wf
  | .setEndpointId eid => decide (eid < 256)
  | .updateComponent size => decide (size < 2 ^ 32)
  | .requestFirmwareData offset _ => decide (offset < 2 ^ 32)
  | .getVersion q | .getCapabilities q | .negotiateAlgorithms q | .getDigests q | .getCertificate q
  | .challenge q | .getMeasurements q | .keyExchange q | .finish q | .keyUpdate q | .heartbeat q
  | .endSession q | .getEncapsulatedRequest q | .deliverEncapsulatedResponse q | .setCertificate q
  | .cxlIdeKm q => q.wf
  | .doorbellReservedSlot h offset _ => h.wf && decide (offset < 2 ^ 32)

end Sys2Proof
end

