-- ==== Sys2Proof/Tests/Slice0.lean ====
section
/-!
SUPPORT. Tests: ill-formed terms that WellFormed refuses, worked examples of the spec, and for every statement states that
meet its hypotheses.
-/

set_option Elab.async false

namespace Sys2Proof.Machine

/-! ## Well-formed commands: for each check of WellFormed.lean a term it refuses -/

def wPort : Port := ⟨0, 0⟩
def wRef : DRef := ⟨0, 0, 0⟩
def wFrame : RxFrame := ⟨31, 64, 0, true, 0xFFFF, 0xFFF, List.replicate 32 0, [], 2 ^ 32 - 1⟩
def wPtp : PtpFrame := ⟨31, 64, true, 0xFFF, 255⟩
def wInst : VInst := ⟨15, 15, 15, 7, 63, 63, 63, 63, 0xFFFF, 2 ^ 32 - 1⟩
def wUInst : UInst := ⟨3, 63, 63, 63, 63⟩

theorem test_wf_port : Port.wf ⟨3, 15⟩ = true ∧ Port.wf ⟨4, 0⟩ = false ∧ Port.wf ⟨0, 16⟩ = false := by decide
theorem test_wf_ref : DRef.wf ⟨7, 255, 2 ^ 32 - 1⟩ = true ∧ DRef.wf ⟨8, 0, 0⟩ = false ∧ DRef.wf ⟨0, 256, 0⟩ = false ∧
    DRef.wf ⟨0, 0, 2 ^ 32⟩ = false := by decide
theorem test_wf_vecAt : VecAt.wf ⟨wRef, 79, 3, 0, 0⟩ = true ∧ VecAt.wf ⟨wRef, 80, 0, 0, 0⟩ = false ∧
    VecAt.wf ⟨wRef, 0, 4, 0, 0⟩ = false ∧ VecAt.wf ⟨⟨8, 0, 0⟩, 0, 0, 0, 0⟩ = false := by decide
theorem test_wf_vInst : wInst.wf = true ∧ [VInst.wf { wInst with typ := 16 }, VInst.wf { wInst with md := 16 },
    VInst.wf { wInst with pm := 16 }, VInst.wf { wInst with k := 8 }, VInst.wf { wInst with a := 64 }, VInst.wf { wInst with b := 64 },
    VInst.wf { wInst with c := 64 }, VInst.wf { wInst with d := 64 }, VInst.wf { wInst with fn := 2 ^ 16 },
    VInst.wf { wInst with imm := 2 ^ 32 }] = List.replicate 10 false := by decide
theorem test_wf_updAt : UpdAt.wf ⟨7, 1023, 19⟩ = true ∧ UpdAt.wf ⟨8, 0, 0⟩ = false ∧ UpdAt.wf ⟨0, 1024, 0⟩ = false ∧
    UpdAt.wf ⟨0, 0, 20⟩ = false := by decide
theorem test_wf_uInst : wUInst.wf = true ∧ [UInst.wf { wUInst with md := 4 }, UInst.wf { wUInst with d := 64 },
    UInst.wf { wUInst with a := 64 }, UInst.wf { wUInst with b := 64 }, UInst.wf { wUInst with c := 64 }] = List.replicate 5 false := by
  decide
theorem test_wf_rxFrame : wFrame.wf = true ∧ [RxFrame.wf { wFrame with mac := 32 }, RxFrame.wf { wFrame with etype := 2 ^ 16 },
    RxFrame.wf { wFrame with vid := 2 ^ 12 }, RxFrame.wf { wFrame with e2e := 2 ^ 32 }, RxFrame.wf { wFrame with hdr := [] }] =
    List.replicate 5 false := by decide
theorem test_wf_ptpFrame : wPtp.wf = true ∧ PtpFrame.wf { wPtp with mac := 32 } = false ∧ PtpFrame.wf { wPtp with vid := 2 ^ 12 } = false ∧
    PtpFrame.wf { wPtp with domain := 256 } = false := by decide
theorem test_wf_sources : RegSrc.wf .mgmt = true ∧ RegSrc.wf (.page ⟨4, 0⟩) = false ∧ Msg.wf ⟨none, 0, 255, [], []⟩ = true ∧
    Msg.wf ⟨some (2 ^ 32), 0, 0, [], []⟩ = false ∧ Msg.wf ⟨none, 2 ^ 32, 0, [], []⟩ = false ∧ Msg.wf ⟨none, 0, 256, [], []⟩ = false ∧ Spdm.wf ⟨0, none, []⟩ = true ∧
    Spdm.wf ⟨2 ^ 16, none, []⟩ = false ∧ Spdm.wf ⟨0, some (2 ^ 32), []⟩ = false := by decide
theorem test_wf_found : Ecc.wf (.corrected 33) = true ∧ Ecc.wf (.corrected 34) = false ∧
    Ecc.wf (.undetected (List.replicate 64 0)) = true ∧ Ecc.wf (.undetected []) = false ∧
    Found.wf (.sector (2 ^ 44 - 1) .clean) = true ∧ Found.wf (.sector (2 ^ 44) .clean) = false ∧ Found.wf (.word 1 79 true) = true ∧
    Found.wf (.word 5 0xFF false) = true ∧ Found.wf (.word 0 0 true) = false ∧ Found.wf (.word 6 0 true) = false ∧
    Found.wf (.word 1 80 true) = false ∧ ChanFault.wf ⟨19, 31, 68, 0, false⟩ = true ∧
    ChanFault.wf ⟨20, 0, 0, 0, false⟩ = false ∧ ChanFault.wf ⟨0, 32, 0, 0, false⟩ = false ∧ ChanFault.wf ⟨0, 0, 69, 0, false⟩ = false ∧
    BootResult.wf ⟨7, none, true, true⟩ = true ∧ BootResult.wf ⟨8, none, true, true⟩ = false := by decide
theorem test_wf_registers : Instr.wf (.registerWrite .mgmt (2 ^ 64 - 1) 8 ⟨0, []⟩) = true ∧ Instr.wf (.registerWrite .mgmt (2 ^ 64) 8 ⟨0, []⟩) = false ∧
    Instr.wf (.registerWrite .mgmt 0 (2 ^ 32) ⟨0, []⟩) = false ∧ Instr.wf (.sqProducer wPort 255 ⟨0, []⟩) = true ∧
    Instr.wf (.sqProducer wPort 256 ⟨0, []⟩) = false ∧ Instr.wf (.cqConsumer ⟨4, 0⟩ 0 0) = false ∧ Instr.wf (.resume ⟨4, 0⟩ 0) = false ∧
    Instr.wf (.doorbellReservedSlot wPort (2 ^ 32) true) = false := by decide
theorem test_wf_descriptors : Instr.wf (.descriptorFetch 7 ⟨255, []⟩) = true ∧ Instr.wf (.descriptorFetch 8 ⟨0, []⟩) = false ∧
    Instr.wf (.descriptorFetch 0 ⟨256, []⟩) = false ∧ Instr.wf (.chunkSend ⟨wRef, [.word 0 0 true]⟩) = false ∧ Instr.wf (.matmul ⟨8, 0, 0⟩) = false ∧ Instr.wf (.completionEntryWrite 7 ⟨127, []⟩) = true ∧
    Instr.wf (.completionEntryWrite 8 ⟨0, []⟩) = false ∧ Instr.wf (.completionEntryWrite 0 ⟨128, []⟩) = false ∧
    Instr.wf (.msixTableWrite wPort 2047 3 0) = true ∧ Instr.wf (.msixTableWrite wPort 2048 0 0) = false ∧
    Instr.wf (.msixTableWrite wPort 0 4 0) = false ∧ Instr.wf (.vecAdd ⟨wRef, 80, 0, 0, 0⟩ wInst) = false ∧
    Instr.wf (.updAdd ⟨0, 0, 0⟩ { wUInst with md := 4 }) = false ∧ Instr.wf (.swapComplete 8 ⟨0, []⟩) = false := by decide
theorem test_wf_fabric : Instr.wf (.sync wPtp 0 0 0 false 0xFFFF) = true ∧ Instr.wf (.sync ⟨32, 64, true, 0, 0⟩ 0 0 0 false 0) = false ∧
    Instr.wf (.delayResp wPtp (2 ^ 16) 0) = false ∧ Instr.wf (.pause 32) = false ∧ Instr.wf (.data ⟨{ wFrame with mac := 32 }, []⟩) = false ∧
    Instr.wf (.ackTimer 511) = true ∧ Instr.wf (.ackTimer 512) = false ∧ Instr.wf (.rtoExpiry 0 (2 ^ 32)) = false := by decide
theorem test_wf_hosts : Instr.wf (.cxlMemRead wPort 0 (.corrected 34)) = false ∧ Instr.wf (.cxlMemRead wPort (2 ^ 64) .clean) = false ∧
    Instr.wf (.cxlMemWrite wPort 0 (List.replicate 64 0)) = true ∧ Instr.wf (.cxlMemWrite wPort 0 []) = false ∧
    Instr.wf (.linkReset 4) = false ∧ Instr.wf (.perstN 2) = false ∧ Instr.wf (.partitionCreate 8) = false ∧
    Instr.wf (.modeWrite 7 3) = true ∧ Instr.wf (.modeWrite 0 4) = false ∧ Instr.wf (.waitCycleReport 8) = false := by decide
theorem test_wf_package : Instr.wf (.laneRepairEnd 19 31) = true ∧ Instr.wf (.laneRepairEnd 20 0) = false ∧
    Instr.wf (.laneRepairEnd 0 32) = false ∧ Instr.wf (.trainingComplete [⟨20, 0, 0, 0, false⟩]) = false ∧
    Instr.wf (.patrolScrub (2 ^ 64) .clean) = false ∧ Instr.wf (.stackTempSample 20 0) = false ∧ Instr.wf (.stackTempSample 0 256) = false ∧
    Instr.wf (.dieLinkFailure 4) = false ∧ Instr.wf (.wakeAddressMatch (2 ^ 64)) = false ∧ Instr.wf (.thermalAlert 256) = false := by
  decide
theorem test_wf_management : Instr.wf (.bootComplete ⟨8, none, true, true⟩) = false ∧ Instr.wf (.getInfo ⟨none, 2 ^ 32, 1, [], []⟩) = false ∧
    Instr.wf (.setEndpointId 255) = true ∧ Instr.wf (.setEndpointId 256) = false ∧ Instr.wf (.updateComponent (2 ^ 32)) = false ∧
    Instr.wf (.requestFirmwareData (2 ^ 32) []) = false ∧ Instr.wf (.getVersion ⟨2 ^ 16, none, []⟩) = false := by decide

/-! ## States of the witnesses -/

/-- 128 bytes of a descriptor: each (offset, length, value) put at its place. -/
def rawOf (l : List (Nat × Nat × Nat)) : List Byte :=
  l.foldl (fun b f => b.take f.1 ++ leBytes f.2.1 f.2.2 ++ b.drop (f.1 + f.2.1)) (List.replicate 128 0)

/-- Partition 0 of 1 GiB at address 0 with clusters 0 and 1, one submission and one completion ring. -/
def wEnt : PartEntry := { PartEntry.dflt with
  valid := true, ready := true, sqMax := 16, cqMax := 16, clusters := 3, hbmSize := GiB, winSize := 2 ^ 28, video := 1
  chCount := 4 }
def wSub : SubRing := { SubRing.dflt with enabled := true, base := 0x1000, log2 := 4, fetchMax := 8, fetched := 3, produced := 5 }
def wCom : ComRing := { ComRing.dflt with enabled := true, base := 0x2000, log2 := 4, written := 2, consumed := 1 }
def wPart : Part := { Part.dflt with ent := wEnt, life := .ready, sq := [(0, wSub)], cq := [(0, wCom)] }

/-- Package 0 serves: firmware runs, 11 channels are trained (1 GiB), attachment 0 is up, partition 0 is ready. -/
def wState : State := { State.reset with
  mgmt := { MgmtSt.reset with boot := .running }
  memc := { MemcSt.reset with trained := true, started := true, healthy := (List.range 11).map fun i => (i, 0) }
  atts := [(0, { Attach.dflt with up := true, cxl := true, trainedOnce := true })]
  parts := [(0, wPart)] }

/-- The same with partition 0 changed. -/
def wWith (f : Part → Part) : State := wState.updPart 0 f

/-- A descriptor of ring 0, number 0. -/
def wDesc (l : List (Nat × Nat × Nat)) : Desc := { wPart.newDesc 0 0 (rawOf l) with phase := .admitted }

/-- The same with one descriptor in flight. -/
def wFlight (d : Desc) : State := wWith fun q => { q with descs := [d] }

/-! ## Doorbells, fetch, slices, completion (O7 to O20) -/

theorem test_reset_grade : State.reset.clusterPresent 18 = true ∧ ({ State.reset with fuse := { Fuse.reset with gradeB := true } }).clusterPresent 18 = false := by
  decide
theorem test_w_listens : wState.Listens wPort 0 := by unfold State.Listens; decide
theorem test_w_producer_accepts : (7 + (2 ^ 32 - wSub.fetched.toNat)) % 2 ^ 32 ≤ 2 ^ wSub.log2 ∧
    (7 + (2 ^ 32 - wSub.produced.toNat)) % 2 ^ 32 ≤ (7 + (2 ^ 32 - wSub.fetched.toNat)) % 2 ^ 32 ∧
    ¬ (4 + (2 ^ 32 - wSub.produced.toNat)) % 2 ^ 32 ≤ (4 + (2 ^ 32 - wSub.fetched.toNat)) % 2 ^ 32 := by decide
theorem test_w_consumer_accepts : (2 + (2 ^ 32 - wCom.consumed.toNat)) % 2 ^ 32 ≤ (wCom.written.toNat + (2 ^ 32 - wCom.consumed.toNat)) % 2 ^ 32 ∧
    ¬ (3 + (2 ^ 32 - wCom.consumed.toNat)) % 2 ^ 32 ≤ (wCom.written.toNat + (2 ^ 32 - wCom.consumed.toNat)) % 2 ^ 32 := by decide
/-- Ring 1's control block: base 4 KiB, LOG2 4, ENABLE, completion ring 0, FETCH_MAX 1. -/
def wCtl : State := (wWith fun q => { q with page := { q.page with ringBase := 0x10000 } }).wrBytes 0x10040
  (leBytes 8 0x3000 ++ leBytes 8 (4 + 32 + 2 ^ 32))
theorem test_w_ring_enable : ∃ b, wCtl.ctlBlock (wCtl.part 0) 0x10040 = some b ∧ b.subOk = true ∧ b.enable = true ∧
    ((wCtl.part 0).subRing 1).enabled = false ∧ (wCtl.part 0).rings.length < (wCtl.part 0).ent.sqMax ∧
    b.fits (wCtl.part 0) 128 = true ∧ ((wCtl.part 0).comRing (fld b.w1 22 16)).enabled = true ∧ (wCtl.part 0).mirror.hold = false :=
  ⟨⟨0x3000, 4 + 32 + 2 ^ 32, 0, 0⟩, by decide⟩
/-- Completion ring 1's control block: base 8 KiB, LOG2 4, ENABLE. -/
def wCtlCom : State := (wWith fun q => { q with page := { q.page with ringBase := 0x10000 } }).wrBytes 0x14040
  (leBytes 8 0x2000 ++ leBytes 8 (4 + 32))
theorem test_w_ring_enable_com : ∃ b, wCtlCom.ctlBlock (wCtlCom.part 0) 0x14040 = some b ∧ b.comOk = true ∧ b.enable = true ∧
    ((wCtlCom.part 0).comRing 1).enabled = false ∧ ((wCtlCom.part 0).cq.filter fun e => e.2.enabled).length < (wCtlCom.part 0).ent.cqMax ∧
    b.fits (wCtlCom.part 0) 32 = true := ⟨⟨0x2000, 4 + 32, 0, 0⟩, by decide⟩
theorem test_w_ring_refused : (∃ b, wState.ctlBlock (wState.part 0) 64 = some b ∧ b.subOk = false) ∧
    ∃ b, wState.ctlBlock (wState.part 0) 0x4040 = some b ∧ b.comOk = false :=
  ⟨⟨⟨0, 0, 0, 0⟩, by decide⟩, ⟨⟨0, 0, 0, 0⟩, by decide⟩⟩
def wHold : State := wWith fun q => { q with mirror := { q.mirror with hold := true, trapSeq := 1 } }
theorem test_w_resume : wHold.Listens wPort 0 ∧ (wHold.part 0).mirror.trapSeq = 1 ∧ (wHold.part 0).mirror.hold = true ∧
    (wHold.part 0).mirror.ending = 0 := by unfold State.Listens; decide
/-- A COPY whose slice runs. -/
def wCopy : Desc := { wDesc [(0, 2, 2), (4, 4, 9), (0x48, 8, 0x200000), (0x50, 8, 0x200000)] with
  phase := .running, started := true, units := 2, slice := some ⟨0, 1, [0], 0, 0, 10, 1000, false, none⟩ }
theorem test_w_cancel : (wFlight wCopy).Listens wPort 0 ∧ ((wFlight wCopy).part 0).oldestTag 0 9 = some wCopy ∧
    isSliced wCopy.opcode = true ∧ wCopy.coll = none ∧ (wFlight wCopy).desc (wCopy.ref 0) = some wCopy ∧
    ((wFlight wCopy).part 0).openDescs 0 0 (some 0) = [wCopy.ref 0] := by unfold State.Listens; decide
theorem test_w_cancel_none : (wState.part 0).oldestTag 0 9 = none ∧ (wState.part 0).descs = [] ∧ (wState.part 0).mirror.hold = false ∧
    (wState.part 0).rings = [0] ∧ ((wState.part 0).subRing 0).enabled = true := by decide
theorem test_w_halted_doorbell : ({ wState with halted := true }).portPart wPort = some 0 := by decide
/-- A NOP published at number 3 of ring 0. -/
def wFetch : State := wState.wrBytes (0x1000 + 128 * 3) (leBytes 4 0 ++ leBytes 4 1)
theorem test_w_fetch : wFetch.mayFetch 0 0 = true ∧ wFetch.servesNow 0 0 = true ∧ wFetch.poisonIn 0x1180 128 = none ∧
    (wFetch.fetchDecide 0 ((wFetch.part 0).newDesc 0 3 (wFetch.rdBytes 0x1180 128)) []).status = none := by decide +kernel
theorem test_w_fetch_lost : (wFetch.setPoison 0x1180).mayFetch 0 0 = true ∧ (wFetch.setPoison 0x1180).servesNow 0 0 = true ∧
    ((wFetch.setPoison 0x1180).poisonIn 0x1180 128).isSome = true := by decide +kernel

/-- R208's worked example: 24.4, 24.0 and 20.0 units per µs in ticks of 1 ms; the third slice fits the 17,772 units left. -/
theorem test_slice_example : sliceChoice 2000 1000000 1000 1000 244 10000 65536 = .issue 24160 ∧
    sliceChoice 1008670 2000000 1000 1000 240 10000 41376 = .issue 23604 ∧
    sliceChoice 2002000 3000000 1000 1000 200 10000 17772 = .issue 17772 ∧
    sliceChoice 2002000 3000000 1000 1000 200 10000 20000 = .issue 19803 ∧
    sliceChoice 1992170 2000000 1000 1000 240 10000 17772 = .hold := by decide +kernel
/-- A unit that does not fit the next tick either is issued at once. -/
theorem test_slice_one : sliceChoice 0 1000000 1000 1000 1 2000000 5 = .issue 1 := by decide +kernel

def wWaiting (l : List (Nat × Nat × Nat)) (deps : List Dep) : Desc := { wDesc l with phase := .waiting, deps := deps }
theorem test_w_admit : (wFlight (wWaiting [] [⟨0, 1, some stOk⟩])).desc wRef = some (wWaiting [] [⟨0, 1, some stOk⟩]) ∧
    (wWaiting [] [⟨0, 1, some stOk⟩]).deps.all (fun e => match e.status with | some st => isSuccess st | none => false) = true ∧
    (match admitOp (wFlight (wWaiting [] [])) 0 (wWaiting [] []) with | .ok _ => true | .error _ => false) = true := by decide +kernel
theorem test_w_admit_fails : (match admitOp (wFlight (wWaiting [(0, 2, 0x100), (0x10, 10, 1)] [])) 0
    (wWaiting [(0, 2, 0x100), (0x10, 10, 1)] []) with | .ok _ => false | .error (st, _) => st != stEmptyOutput) = true := by
  decide +kernel
theorem test_w_admit_waits : ∃ e, e ∈ (wWaiting [] [⟨0, 1, none⟩]).deps ∧ e.status = none := ⟨⟨0, 1, none⟩, by decide⟩

/-- A COPY of 3 MiB that may be sized. -/
def wSized : Desc := { wDesc [(0, 2, 2), (0x10, 10, 1), (0x48, 8, 0x400000), (0x50, 8, 0x300000)] with units := 3 }
theorem test_w_issue : (wFlight wSized).desc wRef = some wSized ∧ (wFlight wSized).mayIssue wRef wSized 2010 = true ∧
    (((wFlight wSized).advance 2010).findAll 0 wSized.tag []).startCheck wSized = none := by decide +kernel
theorem test_w_issue_again : (wFlight { wSized with phase := .running, started := true, doneUnits := 2 }).mayIssue wRef
    { wSized with phase := .running, started := true, doneUnits := 2 } 2010 = true := by decide +kernel
/-- A slice that was carried out. -/
def wRan : Desc := { wSized with phase := .running, started := true, slice := some ⟨0, 2, [0], 0, 0, 10, 1000, true, none⟩ }
theorem test_w_slice_end : (wFlight wRan).desc wRef = some wRan ∧ isSliced wRan.opcode = true ∧ wRan.opcode ≠ 0x310 ∧ wRan.opcode ≠ 0x311 ∧
    (wFlight wRan).now ≤ 500000 ∧ 500000 ≤ (wFlight wRan).nextBoundary ∧ wRan.status = none ∧ wRan.cancel = false ∧
    wRan.doneUnits + 2 < wRan.units := by decide +kernel
theorem test_w_slice_last : { wRan with doneUnits := 1 }.doneUnits + 2 = wRan.units ∧ ({ wRan with cancel := true }).cancel = true := by decide
def wEnded : Desc := { wRan with slice := none, phase := .ended, status := some stOk, overruns := 1 }
theorem test_w_complete : (wFlight wEnded).desc wRef = some wEnded ∧ wEnded.status = some stOk ∧ wEnded.phase = .ended ∧ wEnded.overruns ≠ 0 ∧
    ((wFlight wEnded).part 0).mediaTurn wEnded = true ∧
    (wFlight { wDesc [] with status := some stCancelled }).desc wRef = some { wDesc [] with status := some stCancelled } := by decide +kernel
/-- Two MEDIA_SAMPLE descriptors of ring 0 that ended OK: the later one waits for the earlier. -/
def wMedia (n : Nat) : Desc := { wDesc [(0, 2, 0x400)] with num := n, started := true, phase := .ended, status := some stOk }
theorem test_w_complete_media : let s := wWith fun q => { q with descs := [wMedia 0, wMedia 1] }
    s.desc ⟨0, 0, 1⟩ = some (wMedia 1) ∧ s.halted = false ∧ (s.part 0).mediaTurn (wMedia 1) = false ∧
    (s.part 0).mediaTurn (wMedia 0) = true := by decide +kernel
def wEntry : Entry := ⟨0, 0, 9, 0, false, true, 1, 0, 0, true, false, false, false, false, []⟩
def wEntries (c : ComRing) : State := wWith fun q => { q with cq := [(0, { c with waiting := [wEntry] })] }
theorem test_w_entry : let c := ((wEntries wCom).part 0).comRing 0
    c.enabled = true ∧ c.loc = 0 ∧ c.waiting.find? (fun x => !((wEntries wCom).part 0).withholds x) = some wEntry ∧
    ((wEntries wCom).part 0).mirror.hold = false ∧ (wEntries wCom).linked 0 = true ∧ (c.written - c.consumed).toNat < 2 ^ c.log2 ∧ wEntry.irq = true := by
  decide
/-- The last entry that the end of a hold owes. -/
theorem test_w_entry_hold : let s := wWith fun q => { q with
      mirror := { q.mirror with hold := true, ending := 1, trapSeq := 1 }, cq := [(0, { wCom with waiting := [{ wEntry with started := false, go := true }] })] }
    s.entryDue 0 0 = some { wEntry with started := false, go := true } ∧ ((s.part 0).comRing 0).room = true := by decide
theorem test_w_entry_full : let c := ((wEntries { wCom with written := 17 }).part 0).comRing 0
    c.enabled = true ∧ c.loc = 0 ∧ 2 ^ c.log2 ≤ (c.written - c.consumed).toNat := by decide
theorem test_w_store : wState.memc.trained = true ∧ GiB - 8 + (leBytes 8 1).length ≤ wState.assignEnd ∧ wState.assignEnd ≤ reserveBase := by
  decide

/-! ## Flags, copies, dumps, slices of the engines (O21 to O32) -/

/-- A descriptor that may start, alone in flight. -/
def wMay (l : List (Nat × Nat × Nat)) : Bool :=
  let d := wDesc l
  (wFlight d).desc wRef == some d && (wFlight d).mayStart 0 d && !d.started
theorem test_w_nop_waits : wMay [] = true ∧ wMay [(0, 2, 1), (0x58, 4, 0)] = true ∧ wMay [(0, 2, 1), (0x48, 8, 5), (0x58, 4, 1)] = true := by
  decide +kernel
theorem test_w_set_add : wMay [(0, 2, 1), (0x40, 8, 0x4000), (0x58, 4, 2)] = true ∧ wMay [(0, 2, 1), (0x40, 8, 0x4000), (0x58, 4, 3)] = true ∧
    wState.poisonIn 0x4000 8 = none := by decide +kernel
/-- A registered buffer whose flag word, with OWNER 1, lies at 0x4000. -/
def wOwned : State := (wWith fun q => { q with bufs := [(0, ⟨0x8000, 64, 0x4000⟩)] }).wrBytes 0x4000 (leBytes 8 (2 ^ 63 + 6))
theorem test_w_owned : ((wOwned.part 0).bufs.any fun e => e.2.flag == 0x4000) = true ∧ bitOf (wOwned.rdN 0x4000 8) 63 = true ∧
    (wOwned.rdN 0x4000 8 % 2 ^ 48 + 1) % 2 ^ 48 = 7 := by decide +kernel
theorem test_w_copy : (wFlight wCopy).desc wRef = some wCopy ∧ wCopy.opcode = 2 ∧ (wFlight wCopy).poison = [] ∧
    0x200000 + 2 ^ 20 ≤ (wFlight wCopy).assignEnd ∧ (wFlight wCopy).assignEnd ≤ reserveBase ∧ (wFlight wCopy).halted = false ∧
    (wFlight wCopy).memc.trained = true := by decide +kernel
/-- A running STATE_DUMP, and a FLAG that waits. -/
def wDump : Desc := { wCopy with raw := rawOf [(0, 2, 3), (0x40, 8, 0x200000), (0x48, 8, 0x200000)] }
def wFlagWait : Desc := { wDesc [(0, 2, 1), (0x48, 8, 5)] with num := 1, phase := .running, started := true }
theorem test_w_dump : (wFlight wDump).desc wRef = some wDump ∧ wDump.opcode = 3 ∧ 0x200000 + 2 ^ 20 ≤ (wFlight wDump).assignEnd ∧
    wDump.started = true ∧ wDump.phase ≠ .done := by decide +kernel
theorem test_w_dump_starts : let d := wDesc [(0, 2, 3), (0x40, 8, 0x200000)]
    let s := wWith fun q => { q with descs := [d, wFlagWait] }
    s.mayStart 0 d = true ∧ wFlagWait ∈ (s.part 0).descs ∧ wFlagWait.started = true ∧ wFlagWait.phase ≠ .done := by decide +kernel
theorem test_w_slice_commands : sliceRun (.copy wRef) = some (wRef, [], 2, fun _ => true, runCopy) ∧ wCopy.slice = some ⟨0, 1, [0], 0, 0, 10, 1000, false, none⟩ ∧
    wCopy.opcode = 2 := ⟨rfl, by decide, by decide⟩
/-- An ACC_SAVE and an ACC_RESTORE of slot 0 of cluster 0 whose slice is core 1; tensor descriptor 0 names 0x400000. -/
def wAcc (op : Nat) : Desc := { wDesc [(0, 2, op), (0x10, 10, 1), (0x44, 4, 1)] with
  phase := .running, started := true, units := 128, slice := some ⟨1, 1, [0], 0, 0, 10, 1000, false, none⟩
  tds := [(0, ⟨0, 1, 0, false, false, false, 0, 0, 0, 0, [1, 1, 1, 1], [0x400000, 0, 0, 0], false⟩)] }
theorem test_w_acc : (wFlight (wAcc 4)).desc wRef = some (wAcc 4) ∧ ((wAcc 4).td ((wAcc 4).w32 0x40)).isSome = true ∧ (wAcc 4).opcode = 4 ∧
    (wAcc 5).opcode = 5 ∧ 0 < (bitsOf 32 ((wAcc 4).w32 0x44)).length ∧ ((wFlight (wAcc 4)).accTile 0 1 0).length = 1024 ∧
    (((wAcc 4).td 0).map (·.wd 0)) = some 0x400000 := by decide +kernel
theorem test_w_coded : (1 ≤ [0x3F80, 0xBF80, 0].length ∧ ∀ w, w ∈ [0x3F80, 0xBF80, 0] → w < 65536) ∧ xcFits [0x3F80, 0xBF80, 0] = true := by
  decide +kernel
/-- A written FP32 tensor of 2 × 3 elements with strides 4 and 8 bytes. -/
def wTensor : TensorDesc := ⟨1, 2, 0, false, false, false, 0, 0, 0, 0, [2, 3, 1, 1], [0x1000, 4, 0, 0], false⟩
theorem test_w_tensor : (stridedWidth wTensor.format).isSome = true ∧ wTensor.injective = true ∧ 0 < wTensor.count ∧ 1 < wTensor.count := by
  decide +kernel

/-! ## Tile instructions (O32 to O40) -/

/-- A running VEC: slot 0 an FP32 tensor of 64 × 32, slot 1 an I32 output; positions 64 wide; row group 0. -/
def wVec : Desc := { wDesc [(0, 2, 0x200), (0x10, 10, 1), (0x40, 8, 0x2000), (0x48, 4, 1), (0x4C, 4, 1 + 2 ^ 9 + 2 ^ 12), (0x50, 4, 2),
    (0x58, 4, 0), (0x5C, 4, 1), (0x60, 8, 2 ^ 64 - 1), (0x68, 8, 2 ^ 64 - 1), (0x70, 8, 2 ^ 64 - 1)] with
  phase := .running, started := true, units := 1, slice := some ⟨0, 1, [0], 0, 0, 10, 1000, false, none⟩
  tds := [(0, ⟨1, 2, 0, false, false, false, 0, 0, 0, 0, [64, 32, 1, 1], [0x4000, 4, 256, 0], false⟩),
    (1, ⟨6, 2, 0, false, false, false, 0, 0, 0, 0, [64, 32, 1, 1], [0x8000, 4, 256, 0], false⟩)] }
def wVecAt : VecAt := ⟨⟨0, 0, 0⟩, 0, 0, 0, 0⟩
/-- Fields: view, MOD, mask K, registers A, B, C, D, FN. -/
def wV (typ md k a b c d fn : Nat) : VInst := ⟨typ, md, 1, k, a, b, c, d, fn, 0⟩
theorem test_w_vec : ((wFlight wVec).vecCtx wVecAt).map (·.1) = some wVec ∧ ((wFlight wVec).part 0).bufs = [] := by decide +kernel
theorem test_w_vec_tiles : (wFlight wVec).tilesWf := by unfold State.tilesWf; decide
/-- The rows of arithmetic, in a floating and in an integer view, in both halves of a wide view, at the last registers. -/
theorem test_w_vec_arith : [(0x10, wV 0 0 7 1 2 0 3 0), (0x10, wV 1 0 6 63 63 0 63 0), (0x11, wV 0 0 7 1 2 0 3 0x8000), (0x11, wV 2 0 7 1 2 0 3 0), (0x12, wV 3 0 7 1 2 0 3 0),
    (0x13, wV 2 0 7 1 2 3 4 0), (0x14, wV 0 0 7 1 2 0 3 0), (0x15, wV 1 0 7 1 2 0 3 0), (0x16, wV 3 0 7 1 0 0 3 0), (0x17, wV 1 0 7 1 0 0 3 0),
    (0x18, wV 0 0 7 1 2 0 3 0), (0x19, wV 0 0 7 1 0 0 3 0), (0x20, wV 0 0 7 1 0 0 3 0), (0x21, wV 0 0 7 1 0 0 3 0), (0x22, wV 0 0 7 1 0 0 3 0),
    (0x23, wV 0 0 7 1 0 0 3 0), (0x24, wV 0 0 7 1 0 0 3 0), (0x25, wV 0 0 7 1 0 0 3 0), (0x26, wV 0 0 7 1 0 0 3 0), (0x27, wV 0 0 7 1 0 0 3 0),
    (0x28, wV 0 0 7 1 0 0 3 0), (0x29, wV 0 0 7 1 0 0 3 0), (0x2A, wV 0 0 7 1 0 0 3 0)].all (fun e => wVec.vecAccepts e.1 e.2) = true := by
  decide +kernel
/-- The rows that move, combine, pick and reduce. -/
theorem test_w_vec_moves : [(0x08, wV 4 0 7 1 0 0 3 0), (0x09, wV 1 0 7 0 0 0 3 0), (0x31, wV 0 0 7 1 2 0 3 5), (0x38, wV 6 0 7 1 2 0 3 0),
    (0x39, wV 1 0 7 1 2 0 3 0), (0x3A, wV 1 0 7 1 2 0 3 0), (0x3B, wV 1 0 7 1 0 0 3 31), (0x3C, wV 3 0 7 1 0 0 3 15), (0x3D, wV 1 0 7 1 0 0 3 31),
    (0x50, wV 0 0 7 1 0 0 3 0), (0x51, wV 1 1 7 1 2 0 3 0), (0x52, wV 0 1 7 1 0 0 3 31), (0x54, wV 0 1 7 1 0 0 3 0), (0x60, wV 1 1 7 1 0 0 3 0),
    (0x61, wV 0 0 7 1 0 0 3 0), (0x62, wV 1 0 7 1 0 0 3 0), (0x63, wV 0 1 7 1 2 0 3 0)].all (fun e => wVec.vecAccepts e.1 e.2) = true := by
  decide +kernel
/-- The rows that load, number, convert, pack, unpack, draw, compare, store, and NOP. -/
theorem test_w_vec_forms : [(0x01, wV 0 0 7 0 0 0 3 0x10), (0x0A, wV 1 2 7 0 0 0 3 0x10), (0x40, wV 1 1 7 1 0 0 3 0x100),
    (0x40, wV 2 0 7 1 2 0 3 0), (0x40, wV 0 0 7 1 0 0 3 0x12), (0x48, wV 4 0 7 1 0 0 3 0), (0x49, wV 1 1 7 1 0 0 3 4), (0x70, wV 0 2 7 0 0 0 3 0),
    (0x70, wV 1 1 7 0 0 0 3 0), (0x30, wV 0 6 7 1 2 0 6 0), (0x32, wV 0 3 7 7 0 0 1 0), (0x02, wV 1 0 7 1 0 0 0 1),
    (0x00, wV 0 0 0 0 0 0 0 0)].all (fun e => wVec.vecAccepts e.1 e.2) = true := by
  decide +kernel
theorem test_w_vec_refused : wVec.vecAccepts 0x30 (wV 0 0 7 1 2 0 7 0) = false ∧ wVec.vecAccepts 0x70 (wV 0 0 7 0 0 0 3 0) = false := by
  decide +kernel
/-- R147 on the lanes 0 to 31 with their own numbers: the fixed tree over a sum of 32 lanes. -/
theorem test_lane_tree : laneTree (· + ·) (fun n => n) = 496 := by decide

/-! ## Update engines, bindings, trees, media (O41 to O45) -/

/-- A gradient binding over a master of 16 FP32 elements at 0x400000, its tree at 0x500000. -/
def wMaster : TensorDesc := ⟨1, 1, 0, false, false, false, 0, 0, 0, 0, [16, 1, 1, 1], [0x400000, 4, 0, 0], false⟩
def wBinding : Binding := ⟨7, false, false, 0, [], 0, 0x500000, wMaster, wMaster, 1, [], none, none, none⟩
def wUpd (l : List (Nat × Nat × Nat)) : Desc := { wDesc l with
  tds := [(0, wMaster), (1, wMaster)], list := leBytes 64 7 ++ leBytes 8 0 }
/-- Binding 3 stands, and one descriptor may start. -/
def wBound (d : Desc) : State := wWith fun q => { q with descs := [d], binds := [(3, wBinding)] }
def wMayU (s : State) (d : Desc) : Bool := s.desc wRef == some d && s.mayStart 0 d && (s.part 0).bindFree d.bindId
theorem test_w_update_row : ((wBound (wUpd [])).part 0).binding 3 = some wBinding ∧ (wBound (wUpd [])).halted = false ∧
    (wBound (wUpd [])).updPresent 0 = true ∧ (((wBound (wUpd [])).updCtx ⟨0, 3, 0⟩ wBinding).arg 0x34).length = 512 ∧
    (((wBound (wUpd [])).updCtx ⟨0, 3, 0⟩ wBinding).arg 0)[511]? = some 0 ∧ ((wBound (wUpd [])).engine 0).mh.length ≤ 512 := by
  decide +kernel
/-- UPDATE_BIND of number 5 to another gradient, of number 3, and UPDATE_UNBIND of 3. -/
def wBindNew : Desc := { wUpd [(0, 2, 0x600), (0x40, 4, 5)] with list := leBytes 4 8 ++ leBytes 60 0 ++ leBytes 8 0 }
theorem test_w_bind : wMayU (wBound wBindNew) wBindNew = true ∧ wBindNew.opcode = 0x600 ∧ wBindNew.unbind = false ∧
    wBindNew.newBinding.isSome = true ∧ wBindNew.newBinding.map (·.gradId) = some 8 ∧ ((wBound wBindNew).part 0).binding 5 = none ∧
    ((wBound wBindNew).part 0).gradBinding 8 = none := by decide +kernel
theorem test_w_bind_again : let d := wUpd [(0, 2, 0x600), (0x40, 4, 3)]
    wMayU (wBound d) d = true ∧ d.newBinding.isSome = true ∧ ((wBound d).part 0).binding d.bindId ≠ none := by decide +kernel
theorem test_w_unbind : let d := wUpd [(0, 2, 0x600), (0x40, 4, 3 + 1024)]
    wMayU (wBound d) d = true ∧ d.unbind = true ∧ d.opcode = 0x600 := by decide +kernel
/-- REGENERATE, COMPUTE, COMPARE of two images, SAVE and LOAD of binding 3 with their area at 0x600000. -/
def wTree (op bits : Nat) : Desc := wUpd [(0, 2, op), (0x40, 4, 3 + bits), (0x48, 8, 0x600000), (0x50, 2, 2)]
theorem test_w_tree : ([(0x601, 0), (0x602, 0), (0x602, 1024), (0x603, 0), (0x603, 1024)].all fun e =>
      let d := wTree e.1 e.2
      wMayU (wBound d) d && d.opcode == e.1 && bitOf (d.w32 0x40) 10 == decide (0 < e.2) && d.bindId == 3) = true := by decide +kernel
theorem test_w_compute_clean : let d := wTree 0x602 0
    (∀ q, q ∈ wBinding.annealPlanes (bitOf (d.w32 0x40) 11) → (wBound d).poisonIn q.1 q.2 = none) ∧
    (wBound d).poisonPart (d.addr 0x48) (64 + ((wBound d).leafDigests (wBinding.annealPlanes false)).flatten.length) = none := by
  decide +kernel
def wCompare : Desc := wTree 0x602 1024
theorem test_w_compare_poison : (((wBound wCompare).setPoison 0x600040).poisonIn (wCompare.addr 0x48)
    (imageLen (nLeaf (wBinding.annealPlanes false)) * wCompare.annealCount)).isSome = true := by decide +kernel
/-- Two images alike, and two whose stamps differ. -/
theorem test_w_compare : let s := wBound wCompare
    let t := (wBound wCompare).wrBytes 0x600080 (leBytes 4 9)
    let len := imageLen (nLeaf (wBinding.annealPlanes false))
    len = 128 ∧ wCompare.annealCount = 2 ∧ s.poisonIn 0x600000 256 = none ∧
    s.rdN (0x600000 + len) 4 = s.rdN 0x600000 4 ∧ s.rdN (0x600000 + len + 8) 4 = s.rdN 0x600008 4 ∧
    s.rdBytes (0x600000 + len + 16) 16 = s.rdBytes 0x600010 16 ∧ t.rdN (0x600000 + len) 4 ≠ t.rdN 0x600000 4 := by decide +kernel
def wLoad : Desc := wTree 0x603 1024
theorem test_w_load_poison : (((wBound wLoad).setPoison 0x600040).poisonIn 0x600000
    (128 + dataLen (wBinding.streamPlanes wLoad.withState))).isSome = true := by decide +kernel
theorem test_w_load_header : (wBound wLoad).rdBytes 0x600000 0x20 ≠
    (wBinding.streamHeader wLoad.withState ((wBound wLoad).rdN 0x600008 8)).take 0x20 := by decide +kernel
/-- A stream whose header stands and whose digest is zeros. -/
def wStreamed : State := (wBound wLoad).wrBytes 0x600000 ((wBinding.streamHeader false 0).take 0x20)
theorem test_w_load_same : wStreamed.rdBytes 0x600000 0x20 =
    (wBinding.streamHeader wLoad.withState (wStreamed.rdN 0x600008 8)).take 0x20 ∧
    wStreamed.poisonIn 0x600000 (128 + dataLen (wBinding.streamPlanes wLoad.withState)) = none := by decide +kernel
theorem test_w_load_digest : shake256 (wStreamed.rdBytes 0x600000 (64 + dataLen (wBinding.streamPlanes wLoad.withState))) ≠
    wStreamed.rdBytes (0x600000 + 64 + dataLen (wBinding.streamPlanes wLoad.withState)) 32 := by decide +kernel

/-- STREAM_OPEN, STREAM_CLOSE and MEDIA_SAMPLE of stream 4; the sample is one JPEG or one frame of video of 16 × 16. -/
def wOpen : Desc := wDesc [(0, 2, 0x401), (0x40, 4, 4), (0x48, 8, 0x600000), (0x50, 4, 64)]
def wClose : Desc := wDesc [(0, 2, 0x402), (0x40, 4, 4)]
def wSample (kind : Nat) (st : SampleState) : Desc := { wDesc [(0, 2, 0x400), (0x60, 8, 0x10000), (0x70, 2, 1)] with
  phase := .running, started := true, tds := [(0, wMaster)]
  list := leBytes 64 0 ++ rawOf [(0, 4, kind + 64), (8, 8, 0x700000), (0x10, 4, 100), (0x14, 4, 0x100010), (0x18, 4, 0x10001), (0x1C, 4, 1)]
  samples := [⟨st, 0, 0, some (.pcmInt 16 []), 2, 0, []⟩] }
/-- Whether the data parse is the engine's (Config.streamParses, without a body): each answer has its clause. -/
theorem test_w_open : (wFlight wOpen).desc wRef = some wOpen ∧ (wFlight wOpen).mayStart 0 wOpen = true ∧ wOpen.opcode = 0x401 ∧
    (wFlight wOpen).poisonIn (wOpen.addr 0x48) (wOpen.w32 0x50) = none ∧ ((wFlight wOpen).part 0).stream wOpen.streamId = none ∧
    ((wFlight wOpen).part 0).streams.length < 64 * countBits 64 ((wFlight wOpen).part 0).ent.video ∧
    (((wFlight wOpen).setPoison 0x600000).poisonIn (wOpen.addr 0x48) (wOpen.w32 0x50)).isSome = true := by decide +kernel
theorem test_w_open_taken : let s := wWith fun q => { q with descs := [wOpen], streams := [(4, ⟨1, 0xFF, 16, 16, 0, 0, none, []⟩)] }
    s.desc wRef = some wOpen ∧ s.mayStart 0 wOpen = true ∧ s.poisonIn (wOpen.addr 0x48) (wOpen.w32 0x50) = none ∧
    (s.part 0).stream wOpen.streamId ≠ none := by decide +kernel
theorem test_w_close : (wFlight wClose).mayStart 0 wClose = true ∧ wClose.opcode = 0x402 ∧ wClose.status = none ∧
    ∀ e, e ∈ ((wFlight wClose).part 0).descs → e.opcode ≠ 0x400 := by decide +kernel
theorem test_w_close_waits : let e := wSample 1 .decoding
    let d := { wClose with num := 1 }
    let s := wWith fun q => { q with descs := [e, d] }
    s.desc ⟨0, 0, 1⟩ = some d ∧ s.mayStart 0 d = true ∧ e.ring = 0 ∧ e.opcode = 0x400 ∧ e.phase ≠ .done ∧ numLe e.num 1 = true ∧
    e.namesStream d.streamId = true := by decide +kernel
theorem test_w_sample_starts : let d := wDesc [(0, 2, 0x400)]
    (wFlight d).mayStart 0 d = true ∧ (wFlight d).desc wRef = some d := by decide +kernel
theorem test_w_sample_ready : let d := wSample 1 .waiting
    let s := wFlight d
    s.desc wRef = some d ∧ (s.part 0).sampleReady d 0 = true ∧ s.mediaPresent (mediaClass (d.sKind 0)) 0 = true ∧
    (s.part 0).engineTakes d 0 0 = true ∧ (s.part 0).engineBusy (mediaClass (d.sKind 0)) 0 = false ∧
    (s.part 0).betterSample d 0 0 = false ∧ d.sKind 0 = 1 ∧ (s.part 0).stream (d.sStream 0) = none := by decide +kernel
theorem test_w_sample_ready_open : let d := wSample 1 .waiting
    let s := wWith fun q => { q with descs := [d], streams := [(4, ⟨1, 0xFF, 16, 16, 0, 0, none, []⟩)] }
    (s.part 0).sampleReady d 0 = true ∧ (s.part 0).engineTakes d 0 0 = true ∧ (s.part 0).betterSample d 0 0 = false ∧
    (s.part 0).stream (d.sStream 0) ≠ none := by decide +kernel
/-- A WAV file of one mono frame of 16 bits, the value -1, by RIFF WAVE; its bytes at 0x700000. -/
def wWav : List Byte := leBytes 4 0x46464952 ++ leBytes 4 38 ++ leBytes 4 0x45564157 ++ leBytes 4 0x20746D66 ++ leBytes 4 16 ++ leBytes 2 1 ++
  leBytes 2 1 ++ leBytes 4 8000 ++ leBytes 4 16000 ++ leBytes 2 2 ++ leBytes 2 16 ++ leBytes 4 0x61746164 ++ leBytes 4 2 ++ leBytes 2 0xFFFF
def wWavS : State := (wFlight (wSample 6 .decoding)).wrBytes 0x700000 wWav
theorem test_w_sample_end : let d := wSample 6 .decoding
    wWavS.desc wRef = some d ∧ d.active = true ∧ d.status = none ∧ (d.sample 0).state = .decoding ∧
    (match wWavS.decodeSample 0 d 0 with | .ok v => v == .pcmInt 16 [[-1]] | .error _ => false) = true ∧
    (match (wFlight d).decodeSample 0 d 0 with | .ok _ => false | .error e => e == (2, 0)) = true ∧
    wWavS.poisonIn (d.sSrc 0) (d.sSrcLen 0) = none ∧ ((wWavS.setPoison 0x700000).poisonIn (d.sSrc 0) 1).isSome = true := by
  decide +kernel
theorem test_w_sample_commit : let d := wSample 2 .hole
    (wFlight d).desc wRef = some d ∧ (d.td (d.w32 0x68)).isSome = true ∧ d.active = true ∧ (d.sample 0).state = .hole ∧
    ((wFlight d).part 0).mediaAhead d 0 = 0 ∧ ((wSample 2 .decoded).sample 0).state = .decoded := by decide +kernel

/-! ## Collectives (O46) -/

/-- A group of two ranks, this one 0, its tensors `wMaster`; its state after admission. -/
def wColl0 : Coll := ⟨2, 0, 16, [0, 1], [0, 5], [], [], [], [], false, [], [], [], [], [], [], [], [], [], [], [], [], [], [], none,
  [], 0, false, false⟩
def wCollD (op : Nat) (c : Coll) (moves : List Byte) : Desc := { wDesc [(0, 2, op), (0x50, 4, 1), (0x60, 8, 0x700000)] with
  tds := [(0, wMaster)], list := moves, coll := some c }
theorem test_w_coll_starts : ((List.range 6).all fun k =>
      let d := wCollD (0x500 + k) wColl0 []
      (wFlight d).desc wRef == some d && (wFlight d).mayStart 0 d && d.opcode == 0x500 + k && d.upd.isNone) = true := by decide +kernel
/-- REDUCE_SCATTER with UPDATE 1 of binding 3. -/
def wReduce (c : Coll) (u : UpdRun) : Desc := { wCollD 0x501 c [] with raw := rawOf [(0, 2, 0x501), (0x50, 4, 1 + 2 ^ 20)], upd := some u }
theorem test_w_coll_update : let d := wReduce wColl0 ⟨3, [], [], [], [], false⟩
    (wBound d).desc wRef = some d ∧ (wBound d).mayStart 0 d = true ∧ d.coll = some wColl0 ∧ ((wBound d).part 0).bindFree 3 = true := by
  decide +kernel
/-- The same running, its own chunk 0 ready for the update engines; a sector of the master is poisoned in the second state. -/
def wChunk : Desc := { wReduce wColl0 ⟨3, [], [], [⟨0, 0, 1, List.replicate 4 0⟩], [], false⟩ with phase := .running, started := true }
theorem test_w_update_chunk : (wBound wChunk).collOf wRef = some (wChunk, wColl0) ∧ ((wBound wChunk).part 0).binding 3 = some wBinding ∧
    (wBound wChunk).firstAtEngine ⟨0, 0, 1, List.replicate 4 0⟩ = true ∧
    (let x := wColl0.chunks.getD 0 (0, 0, 0)
     (((wBound wChunk).setPoison 0x400000).poisonCells
       (wBinding.chunkCells (wBound wChunk) (x.2.1 - shardAt 16 2 x.1) x.2.2 true)).isSome = true) := by decide +kernel
/-- A BROADCAST from this rank that runs; its channel is OPEN for it and has the peer's BASES; one chunk is to send. -/
def wCast : Coll := { wColl0 with basesGot := [(0, ⟨0x503, 0, 2, 1, 0, [0x800000]⟩)], sends := [⟨0, 0, false, 0, false, 0, false, false⟩] }
def wCastD : Desc := { wCollD 0x503 wCast [] with phase := .running, started := true }
def wCastS (quota : Nat) : State := { wFlight wCastD with
  chans := [(0, { Chan.dflt with st := .open', peer := some ⟨5, 0, 1⟩, user := some wRef })] }.updPart 0 fun q =>
    { q with use := { q.use with quota := quota }, chunksBegun := 1 }
theorem test_w_chunk_send : (wCastS 2).collOf wRef = some (wCastD, wCast) ∧ (wCastS 2).quotaOk 0 wCastD = true ∧
    ((wCastS 2).firstReady wRef wCastD wCast).isSome = true ∧ (wCastS 1).quotaOk 0 wCastD = false := by decide +kernel
/-- A PERMUTE with a receive of 4 bytes in round 1, which has arrived with `len` bytes. -/
def wPerm (len : Nat) : Desc := { wCollD 0x505 { wColl0 with arrived := [(1, len)] } (leBytes 4 1 ++ leBytes 4 (1 + 2 ^ 19) ++ leBytes 8 0x900000 ++ leBytes 8 4 ++ leBytes 8 0) with
  phase := .running, started := true }
theorem test_w_permute_move : let d := wPerm 4
    (wFlight d).collOf wRef = some (d, { wColl0 with arrived := [(1, 4)] }) ∧ (d.moves.find? fun m => m.recv && m.round == 1).isSome = true ∧
    (d.moves.find? fun m => m.recv && m.round == 1).map (·.len) = some 4 := by decide +kernel
theorem test_w_late : let d := wPerm 4
    let s := { wFlight d with tick := { TickSt.reset with count := 1025 } }
    s.collOf wRef = some (d, { wColl0 with arrived := [(1, 4)] }) ∧ d.lateTicks ≤ s.tickNo - wColl0.progressTick - 1 ∧
    ¬ d.lateTicks ≤ (wFlight d).tickNo - wColl0.progressTick - 1 := by decide +kernel

/-! ## Frames, channels, fabric, time (O47 to O50) -/

/-- Package 0 with MAC 0 up and joined, channel 0 OPEN to channel 2 of partition 1 of package 5. -/
def wChan : Chan := { Chan.dflt with st := .open', peer := some ⟨5, 1, 2⟩ }
def wNet (c : Chan) : State := { wState with macs := [(0, { MacSt.dflt with up := true, heard := true })], chans := [(0, c)] }
/-- A frame from that peer: TYPE, SEQ, the ADDR and OP word, payload. -/
def wRx (typ seq w : Nat) (payload : List Byte) : RxFrame :=
  let hdr := leBytes 2 (1 + 16 * typ) ++ leBytes 2 payload.length ++ leBytes 2 5 ++ leBytes 2 0 ++ leBytes 4 (2 + 512) ++ leBytes 4 seq ++
    leBytes 4 1 ++ leBytes 4 0 ++ leBytes 8 w
  ⟨0, 100, 0, true, 0x88B5, 0, hdr, payload, crc32c (hdr ++ payload)⟩
def wHear (s : State) (f : RxFrame) (typ : Nat) : Bool := s.macVerdict f == .take && f.typ == typ && (s.chan f.dstCh).user.isNone
theorem test_w_data : let f := wRx 0 0 0x4000 [1, 2]
    wHear (wNet wChan) f 0 = true ∧ f.kind = 0 ∧ f.tx.packed = false ∧ wChan.takes f.src = true ∧ f.seq = wChan.rxNext ∧ wChan.held = [] ∧
    (wNet wChan).dataInRange f.dstPart f.tx = true ∧ ((wNet wChan).part f.dstPart).bufs = [] := by decide +kernel
theorem test_w_data_outside : let f := wRx 0 0 (2 ^ 43) [1, 2]
    wHear (wNet wChan) f 0 = true ∧ (wNet wChan).dataInRange f.dstPart f.tx = false := by decide +kernel
theorem test_w_data_kinds : ([1, 2, 3, 4].all fun k => let f := wRx 0 0 (k * 2 ^ 44) [1, 2]
    wHear (wNet wChan) f 0 && f.kind == k && (wNet wChan).dataInRange f.dstPart f.tx) = true := by decide +kernel
theorem test_w_dropped : (wNet wChan).macVerdict { wRx 0 0 0x4000 [1] with e2e := 0 } ≠ .take ∧
    (wNet wChan).macVerdict { wRx 0 0 0x4000 [1] with fcsOk := false } ≠ .take := by decide +kernel
/-- A channel with frames 0 and 1 to acknowledge. -/
def wSent : Chan := { wChan with txNext := 2, ackDue := 1, unacked := [⟨0, ⟨false, false, false, 0, 0, []⟩, false, 0⟩, ⟨1, ⟨true, false, false, 0, 0, []⟩, false, 0⟩] }
theorem test_w_ack : let f := wRx 1 0 0 []
    wHear (wNet wSent) f 1 = true ∧ wSent.takes f.src = true ∧ wSent.waiting = [] ∧ seqSub f.ackNo 0 ≤ seqSub wSent.txNext 0 ∧
    (sackedSeqs f.ackNo f.sackNo) = [] ∧ f.ackNo = 1 := by decide +kernel
theorem test_w_ch_reset : let f := wRx 4 7 0 []
    wHear (wNet wSent) f 4 = true ∧ wSent.answered.contains (f.src, f.seq) = false ∧
    ({ wSent with answered := [(⟨5, 1, 2⟩, 7)] }).answered.contains (f.src, f.seq) = true := by decide +kernel
def wResetting : Chan := { wSent with resetNo := 7, resetting := some ⟨⟨5, 1, 2⟩, some ⟨6, 0, 0⟩, false, 0⟩ }
theorem test_w_ch_reset_ack : let f := wRx 5 7 0 []
    wHear (wNet wResetting) f 5 = true ∧ wResetting.resetting.map (·.to') = some f.src ∧ wResetting.resetNo = f.seq := by decide +kernel
theorem test_w_timers : (wNet wSent).halted = false ∧ wSent.ackDue ≠ 0 ∧ wSent.peer = some ⟨5, 1, 2⟩ ∧ (wNet wSent).usableMacs ≠ [] ∧
    (wSent.unacked.find? fun u => u.seq == 1).isSome = true ∧ wSent.st = .open' ∧ wSent.resetting = none ∧ wSent.unacked ≠ [] := by
  decide +kernel
theorem test_w_links : let s := { wNet wSent with fab := { FabSt.reset with started := true, step := 3, pfcEn := true, enable := [(0, 1)] }
                                                  pins := { PinSt.reset with ref156 := true } }
    s.fab.started = true ∧ 0 ∈ s.enabledMacs ∧ 31 ∉ s.enabledMacs ∧ s.pins.ref156 = true ∧ s.transportOn = true ∧ (s.mac 0).up = true := by
  decide +kernel
/-- Start-up at step `k` with MAC 0 up. -/
def wFab (k : Nat) : State := { wNet wChan with fab := { FabSt.reset with started := true, step := k, nonce := some 9, enable := [(0, 1)] } }
theorem test_w_start : wState.fab.started = false ∧ wState.powered = true ∧ (wFab 3).fab.started = true ∧ (wFab 3).fab.stopped = false ∧
    ((wFab 3).enabledMacs.any fun m => ((wFab 3).mac m).up) = true ∧ (wFab 2).fab.step < 3 ∧ (wFab 2).fab.stopped = false := by decide +kernel
theorem test_w_hello : (wFab 4).macVerdict (wRx 2 0 0 []) = .take ∧ (wRx 2 0 0 []).typ = 2 ∧ (wRx 2 0 0 []).srcPkg ≠ (wFab 4).fab.pkg ∧
    (let s := { wFab 4 with macs := [(0, { MacSt.dflt with up := true })] }
     s.transportOn = true ∧ (s.mac 0).up = true ∧ (s.mac 0).heard = false) := by decide +kernel
theorem test_w_census : ([censusRecord 7 0 1 3, censusRecord 0 0 1 9, censusRecord 0 0 1 8].all fun p => let f := wRx 3 0 0 p
    (wFab 5).macVerdict f == .take && f.typ == 3 && f.payload.length == 8) = true ∧ (wFab 5).fab.conflict = false ∧
    leNat ((censusRecord 7 0 1 3).take 2) ≠ (wFab 5).fab.pkg ∧ leNat (sliceList (censusRecord 0 0 1 8) 4 4) = 8 := by decide +kernel
theorem test_w_census_timers : (wFab 5).censusRuns = true ∧ (wFab 5).fab.expect = 0 ∧ (wFab 5).present ≠ 3 ∧
    (let s := { wFab 5 with fab := { FabSt.reset with censusDone := true, queue := [⟨7, 1, 1, 3, 2, []⟩] } }
     s.transportOn = true ∧ (s.fab.queue.any fun q => q.pkg == 7) = true ∧ s.fab.censusDone = true) := by decide +kernel

/-- A job of one rank, partition 0 of package 0, in the reserve of a package whose census has seen itself. -/
def wJobs (lock : Lock) (period : Nat) : State := (({ wState with
  fab := { FabSt.reset with step := 7, started := true }
  tick := { TickSt.reset with lock := lock } }.wrBytes reserveBase (leBytes 8 1 ++ leBytes 8 1 ++ leBytes 8 (reserveBase + 64) ++
    leBytes 8 0 ++ leBytes 8 period)).wrBytes reachBase [1])
theorem test_w_bind_job : (wJobs .locked 1000).bindCheck 0 reserveBase = 1 ∧ (wJobs .locked 2000).bindCheck 0 reserveBase = 1 ∧
    (wJobs .unlocked 1000).bindCheck 0 reserveBase = 5 ∧ (wJobs .locked 10).bindCheck 0 reserveBase = 4 ∧
    (wJobs .locked 1000).bindCheck 1 reserveBase = 3 := by decide +kernel
/-- The time protocol with MAC 0 as SLAVE port, and as grandmaster. -/
def wTime (slave : Bool) : State := let s := wFab 5
  { s with ptp := { PtpSt.reset with slave := if slave then some 0 else none, twoStep := [(0, 3)], delayReq := some 4
                                     grandmaster := if slave then none else some s.ownSet } }
/-- A PTP frame that MAC 0 takes, of the package's domain. -/
def wTimeF : PtpFrame := ⟨0, 64, true, 0, 0⟩
theorem test_w_ptp_frame : (wTime true).ptpVerdict wTimeF = .take ∧ wTimeF.domain = (wTime true).fab.domain ∧
    (wTime false).ptpVerdict wTimeF = .take ∧ (wTime true).ptpVerdict { wTimeF with fcsOk := false } ≠ .take ∧
    (3 : Nat) ≠ (wTime true).fab.domain := by decide +kernel
theorem test_w_ptp : (wTime true).ptpOn = true ∧ (wTime true).ptp.slave = some 0 ∧ tlook (wTime true).ptp.twoStep 0 = some 3 ∧
    (wTime true).ptp.delayReq = some 4 ∧ (wTime true).isMaster = false ∧ 0 ∈ (wTime true).usableMacs ∧ (wTime false).isMaster = true ∧
    (wTime false).ptp.slave ≠ some 0 ∧ 0 ∈ (wTime false).usableMacs ∧ ((wTime false).mac 0).paused.contains (wTime false).fab.ptpPcp = false := by
  decide +kernel
/-- R30, R32: the 64th good Sync in a row locks; an offset above 1 µs unlocks, one of 1 µs or 100 ns does not. -/
theorem test_lock : lockAfter .unlocked (goodAfter 63 99) 99 = .locked ∧ lockAfter .unlocked (goodAfter 63 100) 100 = .unlocked ∧
    lockAfter .locked (goodAfter 80 1001) 1001 = .holdover ∧ lockAfter .locked (goodAfter 80 (-1000)) (-1000) = .locked := by decide
theorem test_w_periods : wState.periodsAre (fun p => 50 ≤ p ∧ p ≤ 50000) ∧ wState.halted = false ∧ wState.tick.running = true ∧
    ({ wState with tick := { wState.tick with frozen := some 0 } }).tick.frozen = some 0 ∧ 0 < wState.nextPeriod := by
  unfold State.periodsAre; refine ⟨⟨by decide, ?_, ?_, ?_⟩, by decide, by decide, by decide, by decide⟩ <;>
    (intro x hx; exact absurd hx (by simp [wState, State.reset, TickSt.reset]))
theorem test_w_stage : 50 ≤ wState.tick.stagePeriod ∧ wState.tick.stagePeriod ≤ 50000 ∧ wState.nextNum + 1 ≤ 2 ∧ ¬ wState.nextNum + 1 ≤ 1 := by
  decide
theorem test_w_epoch : wState.jobBound = false ∧ (wWith fun q => { q with job := some ⟨0, 0, 1, 0, 0, 1000, none⟩ }).jobBound = true := by decide
theorem test_w_repair : tlook ({ wState with memc := { wState.memc with repairing := [(5, 9)] } }).memc.repairing (0 * 32 + 5) = some 9 := by decide
theorem test_w_swap : let s := wWith fun q => { q with swaps := [⟨2, 1, []⟩] }
    (s.part 0).swaps.find? (fun w => w.seq == 2) = some ⟨2, 1, []⟩ ∧ (s.part 0).descs = [] := by decide

/-! ## Hosts and partitions (O51, O52) -/

/-- Partition 0 with a committed decoder at 0, a device-owned registered buffer at 0x8000 whose flag lies at 0x4000. -/
def wHost (guard : Bool) : State := (wWith fun q => { q with
  hdm := some 0
  ent := { q.ent with guard := guard, mode := 1 }
  bufs := [(6, ⟨0x8000, 64, 0x4000⟩)]
  pba := [3]
  page := { q.page with bufBase := 0x2000, fwuAddr := 0x8000, fwuLen := 64 } }).wrBytes 0x4000 (leBytes 8 (2 ^ 63))
theorem test_w_window : ((wHost true).att 0).up = true ∧ (wHost true).hostLine wPort 0x100 = some (0, 0x100) ∧
    (wHost true).guardedBy 0 0x100 = none ∧ (wHost true).guardedBy 0 0x8000 = some 6 ∧ (wHost true).hostLine wPort (2 ^ 30) = none ∧
    ((wHost false).part 0).ent.guard = false ∧ ((wHost true).att 1).up = false := by decide +kernel
theorem test_w_page : (wHost true).portPart wPort = some 0 ∧ (wHost true).halted = false ∧ ((wHost true).part 0).pba.contains 3 = true := by
  decide +kernel
/-- A table entry that may take effect, one with a reserved field, and an empty one. -/
def wTable (w1 : Nat) : State := (wHost true).wrBytes 0x2000 (leBytes 8 (0x9000 + 2 ^ 63) ++ leBytes 8 w1 ++ leBytes 8 0x4008)
def wCause (s : State) : Nat :=
  let e := s.bufEntry (s.part 0) 0
  s.bufCause (s.part 0) (tput (s.part 0).bufs 0 e.buf) e
theorem test_w_commit : wCause (wTable 64) = 0 ∧ wCause (wTable (64 + 2 ^ 50)) = 5 ∧ wCause (wTable 32) = 7 := by decide +kernel
theorem test_w_exc_base : ((wHost true).part 0).quiet = false ∧
    (let s := ({ wState with parts := [(0, { wPart with sq := [], cq := [] })] }).wrBytes 0x3010 (leBytes 8 6)
     s.portPart wPort = some 0 ∧ s.excCause (s.part 0) 0x3000 = 0 ∧ s.excCause (s.part 0) 0 = 0) := by decide +kernel
theorem test_w_fwu_cmd : (wHost true).firmware = true ∧ ((wHost true).part 0).page.fwuState ≠ 1 ∧ (wHost true).mgmt.updatePart ≠ 0 ∧
    (wHost true).mgmt.fwu = none ∧ (wHost true).fwuBuffer ((wHost true).part 0) = true ∧
    ((wHost true).updPart 0 fun q => q.rejectPage 0xB0 1).mgmt.updatePart = 0xF := by decide +kernel
theorem test_w_page_register : pageWritable 0x088 = true ∧ (0x088 : Nat) < 0x1000 ∧ (8 : Nat) ≠ 4 ∧ (0x08C : Nat) % 8 ≠ 0 := by decide
theorem test_w_registers : wState.firmware = true ∧ wState.setsUp = true ∧ State.reset.firmware = false ∧ wState.mgmt.dbgEn = false ∧
    ({ State.reset with mgmt := { MgmtSt.reset with boot := .recovery } }).firmware = false := by decide

/-- An entry of partition 1 with cluster 2, 1 GiB at address 1 GiB; 40 channels of memory are healthy. -/
def wEnt1 : PartEntry := { wEnt with valid := false, ready := false, clusters := 4, hbmBase := GiB, ldId := 1, video := 2, chBase := 4 }
def wCreate (e : PartEntry) (l : PartLife) : State := { wState with
  memc := { wState.memc with healthy := (List.range 12).map fun i => (i, 0) }
  parts := [(0, wPart), (1, { Part.dflt with ent := e, life := l })] }
theorem test_w_create : (wCreate wEnt1 .absent).powered = true ∧ ((wCreate wEnt1 .absent).part 1).held = false ∧
    (wCreate wEnt1 .absent).createError 1 wEnt1 = 0 ∧ (wCreate wEnt1 .absent).createError 1 { wEnt1 with clusters := 0 } = 7 ∧
    (wCreate wEnt1 .absent).createError 1 { wEnt1 with clusters := 1 } = 5 ∧ wEnt.clash { wEnt1 with clusters := 1 } = true := by decide +kernel
theorem test_w_ready : ((wCreate wEnt1 .creating).part 1).life = .creating ∧
    (wCreate wEnt1 .creating).mayPresent ((wCreate wEnt1 .creating).part 1).ent.attach = true := by decide +kernel
theorem test_w_destroy : (wState.part 0).ent.valid = true ∧ (wState.part 0).descs = [] ∧ (∀ x, x ∈ (wState.part 0).cq → x.2.waiting = []) ∧
    (wState.part 0).mirror.hold = false ∧ (wWith fun q => { q with ent := { q.ent with chCount := 0 } }).part 0 ≠ wPart ∧
    ((wCreate wEnt1 .absent).part 1).ent.valid = false ∧ ((wCreate wEnt1 .destroying).part 1).life = .destroying := by decide +kernel
theorem test_w_flr : wState.portPart wPort = some 0 ∧ (wState.part 0).life = .ready ∧ (wState.part 0).flrWait = false ∧
    (wWith fun q => { q with flrWait := true }).portPart wPort = some 0 ∧
    (wState.parts.filter fun e => e.2.ent.attach == 0 && e.2.life == .ready) = [(0, wPart)] ∧
    (∀ e, e ∈ wState.parts → e.2.ent.attach ≠ 1) ∧ wState.powered = true := by decide +kernel

/-! ## Memory, sensors, die links (O53) -/

theorem test_w_train : wState.memc.started = true ∧ State.reset.powered = true ∧ State.reset.memc.started = false ∧
    ({ wState with memc := { wState.memc with training := true } }).memc.training = true := by decide
/-- A fault of three data lanes retires its channel, one of two lanes does not. -/
theorem test_w_training_faults : State.reset.retires [⟨3, 4, 3, 0, false⟩] 3 4 = true ∧ State.reset.retires [⟨3, 4, 2, 1, false⟩] 3 4 = false := by
  decide
theorem test_w_scrub : wState.memc.scrubEn = true ∧ wState.powered = true ∧ wState.place 0x4000 = some 0x4000 ∧
    (wState.sectorHome 0x4000).isSome = true ∧ wState.otherErased (laneKey 0 0 0 5) = false ∧ wState.isPoison 0x4000 = false ∧
    (wState.setPoison 0x4000).isPoison 0x4000 = true ∧ wState.ownerOf 0x4000 = some 0 ∧ State.reset.ownerOf 0x4000 = none ∧
    0x4000 < reserveBase := by decide +kernel
theorem test_w_sensors : wState.pwr.state = 0 ∧ (wState.stack 3).down = false ∧ (105 : Nat) < 106 ∧ 4 * wState.pwr.tjCrit = 460 ∧ wState.halted = false ∧
    ({ wState with halted := true }).halted = true := by decide

/-! ## Package states, resets, management (O54 to O57) -/

/-- The package with partition 0 idle and its rings off; in state `st`, with a retention image, an entry or an exit. -/
def wIdle : State := { wState with parts := [(0, { wPart with sq := [], cq := [] })], pins := { PinSt.reset with mainPwrgd := true, ref100 := true } }
def wImg0 : RetImage := ⟨1, [], [], [], 1000, 0x18, true, [], [], MediaRegs.reset, FabSt.reset, Inject.reset, Inject.reset, [], true, 0xF, 1000,
  List.replicate 8 (List.replicate 64 0), [], [], 0, 0⟩
/-- The CRC is not part of what it covers. -/
theorem crcOf_with (i : RetImage) (n : Nat) : RetImage.crcOf { i with crc := n } = i.crcOf := rfl
theorem crcOk_with (i : RetImage) (n : Nat) : RetImage.crcOk { i with crc := n } = (n == i.crcOf) := rfl
theorem crcOk_same (i : RetImage) : RetImage.crcOk { i with crc := i.crcOf } = true := (crcOk_with i _).trans (by simp)
theorem crcOk_next (i : RetImage) : RetImage.crcOk { i with crc := i.crcOf + 1 } = false := (crcOk_with i _).trans (by simp)
/-- An image that passes its CRC, and one that does not. -/
def wImg : RetImage := { wImg0 with crc := wImg0.crcOf }
def wImgBad : RetImage := { wImg0 with crc := wImg0.crcOf + 1 }
theorem test_w_image_crc : wImg.crcOk = true ∧ wImgBad.crcOk = false :=
  ⟨crcOk_same wImg0, crcOk_next wImg0⟩
def wAsleep (f : PwrSt → PwrSt) : State := { wIdle with pwr := f { PwrSt.reset 3600 with state := 1 }, image := some wImg }
theorem test_w_go : wIdle.firmware = true ∧ wIdle.pwr.state = 0 ∧ wIdle.pwr.busy = false ∧ wIdle.goRefuse 1 = 0 ∧ wState.goRefuse 1 = 2 ∧
    wIdle.goRefuse 2 = 3 ∧ wIdle.goRefuse 3 = 5 ∧ wIdle.goRefuse 0 = 5 ∧ (wWith fun q => { q with job := some ⟨0, 0, 1, 0, 0, 1000, none⟩ }).goRefuse 1 = 1 := by
  decide +kernel
theorem test_w_wake_go : (wAsleep id).firmware = true ∧ (wAsleep id).goRefuse 0 = 0 ∧ (wAsleep id).pwr.state ≠ 0 ∧
    (wAsleep id).image = some wImg := ⟨by decide, by decide +kernel, by decide, rfl⟩
theorem test_w_entering : (wAsleep fun p => { p with state := 0, busy := true, entering := some 1 }).pwr.entering = some 1 ∧
    wIdle.pwr.entering = none ∧ (wAsleep id).halted = false := by decide
theorem test_w_exiting : (wAsleep fun p => { p with state := 0, busy := true, exiting := true }).pwr.exiting = true ∧
    (wAsleep id).pins.mainPwrgd = true ∧ wIdle.pwr.exiting = false := by decide
theorem test_w_wake : (wAsleep fun p => { p with clocksStopped := true }).pwr.clocksStopped = true ∧ (wAsleep id).pwr.thermEn = true ∧
    (wAsleep id).pwr.entering = none ∧ (wAsleep fun p => { p with thermEn := false }).pwr.thermEn = false ∧ (0 : Nat) ≠ (wAsleep id).pwr.wakeAddr ∧
    (wAsleep id).mgmt.dynAddr ≠ some 0 ∧ 0 < (wAsleep id).pwr.tjWake := by decide
theorem test_w_host_wf : hostWf wState = true ∧ State.reset.firmware = false := by decide +kernel
theorem test_w_supplies : wIdle.pins.heldInReset = false ∧ wIdle.pins.mainPwrgd = true ∧ wIdle.pwr.state = 0 ∧
    (let s := { wIdle with pins := { wIdle.pins with mainPwrgd := false, heldInReset := true } }
     s.pins.heldInReset = true ∧ s.pins.ref100 = true) ∧ (wAsleep id).pwr.state ≠ 0 := by decide
/-- A record that waits to be drained. -/
def wRec : State := wState.record srcManagement 0x0003 sevWarn none 0 []
theorem test_w_drain : wRec.firmware = true ∧ wRec.powered = true ∧ wRec.memServes = true ∧ wRec.rec'.drained ≠ wRec.rec'.nextSeq ∧
    (wRec.rec'.nextSeq - wRec.rec'.drained).toNat ≤ 32768 ∧ (wRec.rec'.find wRec.rec'.drained.toNat).isSome = true ∧
    wState.rec'.drained = wState.rec'.nextSeq ∧ wRec.rec'.frozen = false := by decide +kernel
theorem test_w_watchdog : wState.mgmt.lastKick + wState.mgmt.wdtPeriod * 1000000 ≤ 1000000000 ∧
    ¬ wState.mgmt.lastKick + wState.mgmt.wdtPeriod * 1000000 ≤ 999999999 := by decide
/-- A one-component image in flash whose key the fuses know; component 0 is empty. -/
def wKey : List Byte := List.replicate 64 0
def wImage : List Byte := leBytes 4 0x4C4D4B49 ++ leBytes 4 7 ++ leBytes 2 0 ++ leBytes 2 0 ++ leBytes 4 1 ++ leBytes 4 30016 ++
  leBytes 44 0 ++ wKey ++ leBytes 32 0 ++ shake512 [] ++ List.replicate 29792 0
def wBoot (l : List Byte) : State := { State.reset with
  fuse := { Fuse.reset with rootHash := [shake512 wKey] }
  mgmt := { MgmtSt.reset with flash := l } }
theorem test_w_boot_fails : (wBoot [0]).pwr.clocksStopped = false ∧ (wBoot [0]).mgmt.boot = .booting ∧ (wBoot [0]).mgmt.flashBad = false ∧
    (wBoot [0]).mgmt.flash ≠ [] ∧ ((wBoot [0]).readImage [0] ⟨0, none, true, true⟩).fault ≠ 0 := by decide +kernel
theorem test_w_image : imageReadable wImage = true := by decide +kernel
theorem test_w_image_key : ((wBoot wImage).rootSlotOf (imageKey wImage)).isNone = false ∧ ¬ imageSvn wImage < (wBoot wImage).fuse.svn ∧
    shake512 (imageComp wImage 0) = imageDigest wImage 0 := by decide +kernel
/-- Where the free signature check accepts, the image boots and an update with it is written. -/
theorem test_w_boot_passes (h : ∀ n k m g, Config.slhVerify n k m g = true) :
    (wBoot wImage).imageFault wImage = 0 ∧ ((wBoot wImage).readImage wImage ⟨0, none, true, true⟩).fault = 0 := by
  have a := test_w_image
  have b := test_w_image_key
  have f : (wBoot wImage).imageFault wImage = 0 := by simp [State.imageFault, a, b.1, b.2.1, h]
  exact ⟨f, by simp [State.readImage, f, b.2.2]⟩
theorem test_w_update_ends : (let s := { wState with mgmt := { wState.mgmt with fwu := some ⟨true, some 0, 2, [1, 2], false, 0⟩ } }
    s.firmware = true ∧ s.mgmt.fwu = some ⟨true, some 0, 2, [1, 2], false, 0⟩ ∧ s.imageFault [1, 2] ≠ 0) ∧ wState.mgmt.fwu = none := by
  decide +kernel

/-! ## The platform's commands and the security engine (O58 to O60) -/

/-- Sessions are not required, or session 5 is established with its requester verified. -/
def wFree : State := { wState with mgmt := { wState.mgmt with requireSession := false } }
def wSecure : State := { wState with sec := ⟨[(1, ⟨3, true, true, 0⟩)], [⟨5, 1, true, true, true, 2, [7], 0⟩], [7], []⟩ }
theorem test_w_session : wFree.mgmt.requireSession = false ∧ wSecure.sessionOk ⟨some 5, 1, 0x10, [], []⟩ = true ∧
    wState.mgmt.requireSession = true ∧ wState.sessionOk ⟨none, 1, 0x24, [], []⟩ = false ∧ wFree.firmware = true ∧ wFree.pwr.state = 0 ∧
    (wAsleep id).firmware = true ∧ (wAsleep id).pwr.state ≠ 0 ∧ sleepCommand 0x24 = false := by decide +kernel
theorem test_w_platform : IsPlatform ⟨none, 1, 0x24, [], []⟩ 0 (.tickStage ⟨none, 1, 0x24, [], []⟩) 0x24 true ∧
    IsPlatform ⟨none, 1, 0x24, [], []⟩ 0 (.getInfo ⟨none, 1, 0x24, [], []⟩) 0x01 false := by simp [IsPlatform]
theorem test_w_platform_params : (List.replicate 29896 (0 : Byte)).length = 29896 ∧ 30000 ≤ (List.replicate 30000 (0 : Byte)).length ∧
    paramN ⟨none, 1, 0x11, [7, 3], []⟩ 0 1 < 8 ∧ paramN ⟨none, 1, 0x11, [7, 3], []⟩ 1 1 < 4 ∧ paramN ⟨none, 1, 0x13, [0, 1, 3], []⟩ 2 1 < 4 ∧
    (wFree.part 0).page.diverge < 4 ∧ wFree.goRefuse 2 ≠ 0 := by
  refine ⟨by rw [List.length_replicate], Nat.le_of_eq (by rw [List.length_replicate]), by decide, by decide, by decide, by decide, by decide +kernel⟩
theorem test_w_pldm : let s := { wState with mgmt := { wState.mgmt with tableSeen := true, fwu := some ⟨false, none, 0, [], false, 0⟩ } }
    let t := { wState with mgmt := { wState.mgmt with fwu := some ⟨false, none, 4, [1], false, 0⟩ } }
    s.pldmUpdate = some ⟨false, none, 0, [], false, 0⟩ ∧ s.mgmt.tableSeen = true ∧ imageSizeOk 30016 = true ∧ imageSizeOk 0 = false ∧
    t.pldmUpdate = some ⟨false, none, 4, [1], false, 0⟩ ∧ 1 + [2, (3 : Byte), 4].length ≤ 4 ∧ wState.mgmt.pendingVersion = none ∧ wState.pwr.clocksStopped = false := by
  decide
/-- A requester over MCTP that is heard, at each stage; one over DOE on external port 0 with an established session. -/
def wQ (b : List Byte) : Spdm := ⟨1, none, b⟩
def wStage (n : Nat) : State := { wState with sec := ⟨[(1, ⟨n, true, true, 0⟩)], [], [7], []⟩ }
theorem test_w_spdm : (wStage 1).spdmUp 1 = true ∧ (wStage 1).spdmUp 256 = true ∧ (wStage 1).spdmUp 1024 = false ∧ ((wStage 1).conn 1).stage = 1 ∧
    ((wStage 2).conn 1).stage = 2 ∧ ((wStage 3).conn 1).stage = 3 ∧ (wStage 3).sec.sessions.length < 4 ∧ (wStage 3).sec.slot1 ≠ [] ∧
    (wStage 3).session (wQ []) = none := by decide +kernel
/-- A session that has fetched nothing, one that has fetched both, one that is established. -/
def wSess (x : Session) : State := { wState with sec := ⟨[(x.conn, ⟨3, true, true, 0⟩)], [x], [7], []⟩, atts := [(0, { Attach.dflt with up := true }), (2, { Attach.dflt with up := true })] }
theorem test_w_spdm_session : (wSess ⟨5, 1, true, false, false, 0, [], 0⟩).session ⟨1, some 5, []⟩ = some ⟨5, 1, true, false, false, 0, [], 0⟩ ∧
    (wSess ⟨5, 1, true, false, false, 2, [7], 0⟩).session ⟨1, some 5, []⟩ = some ⟨5, 1, true, false, false, 2, [7], 0⟩ ∧
    (wSess ⟨5, 768, false, true, false, 0, [], 0⟩).session ⟨768, some 5, []⟩ = some ⟨5, 768, false, true, false, 0, [], 0⟩ ∧
    doeOf 768 = some 2 ∧ (wSess ⟨5, 768, false, true, false, 0, [], 0⟩).spdmUp 768 = true ∧ doeOf 1 = none := by decide +kernel

/-! ## The whole machine (O1 to O8) -/

theorem test_w_sound : (wFlight wVec).sound ∧ wOwned.sound := by unfold State.sound; decide +kernel
theorem test_w_halted : ({ wState with halted := true }).halted = true ∧ wState.mayColdReset .kick = false ∧ wState.mayColdReset .cold = true ∧
    State.reset.hitsDebug (regBase + 0xD00000) 8 = false ∧
    ({ wState with mgmt := { wState.mgmt with dbgEn := true } }).hitsDebug (regBase + 0xD00000) 8 = true := by decide +kernel
/-- A queued command runs first in, first out. -/
theorem test_step_queue : step { State.reset with pending := [.refclk25Return, .refclk156Return] } =
    .next { State.reset with pins := { PinSt.reset with ref25 := true }, pending := [.refclk156Return] } := rfl

/-! ## Witnesses of further clauses (O21, O28, O43, O44, O49 to O59) -/

theorem test_w_seed_trap : (wFlight wRan).desc wRef = some wRan ∧ wRan.status ≠ some stNanTrap ∧ wRan.isWait = false ∧
    ((wFlight wRan).part 0).mirror.hold = false := by decide +kernel

/-- A packed tensor of `sz` in format `f` at `a`. -/
def wT (f : Nat) (sz : List Nat) (a : Nat) : TensorDesc :=
  ⟨f, 4, 0, false, false, false, 0, 0, 0, 0, sz, [a, sz.getD 0 1, sz.getD 0 1 * sz.getD 1 1, sz.getD 0 1 * sz.getD 1 1 * sz.getD 2 1], false⟩
/-- A descriptor whose one unit `u` runs. -/
def wUnit (l : List (Nat × Nat × Nat)) (tds : List (Nat × TensorDesc)) (u : Nat) : Desc := { wDesc l with
  phase := .running, started := true, units := u + 1, slice := some ⟨u, 1, [0], 0, 0, 10, 1000, false, none⟩, tds := tds }
theorem test_w_one_unit (l : List (Nat × Nat × Nat)) (tds : List (Nat × TensorDesc)) (u : Nat) :
    (wFlight (wUnit l tds u)).OneUnit wRef (wUnit l tds u) u :=
  ⟨rfl, rfl, ⟨_, rfl, rfl, rfl, rfl⟩, rfl, rfl⟩
/-- Tensors 0 to 8 of 4 × 4 FP32, as operands named at 0x40 on. -/
def wTds : List (Nat × TensorDesc) := (List.range 9).map fun i => (i, wT fFP32 [4, 4, 1, 1] (0x400000 + 0x1000 * i))
def wOps (op : Nat) : Desc := wUnit ((0, 2, op) :: (List.range 4).map fun i => (0x40 + 4 * i, 4, i)) wTds 0
theorem test_w_operands : ([0x100, 0x110, 0x111, 0x112, 0x118, 0x119, 0x11A].all fun op =>
      (wOps op).opcode == op && ([0x40, 0x44, 0x48, 0x4C].all fun o => ((wOps op).td ((wOps op).w32 o)).isSome)) = true ∧
    (wT fFP32 [4, 4, 1, 1] 0).format = fFP32 := by decide +kernel
/-- MATMUL of an infinity times zero: one element makes a NaN. -/
def wMatNan : State := (wFlight (wOps 0x100)).wrBytes 0x400000 (leBytes 4 inf32)
theorem test_w_mat_nan : let m := (wOps 0x100).matUnitOf (wT fFP32 [4, 4, 1, 1] 0x400000) (wT fFP32 [4, 4, 1, 1] 0x401000) 0
    (0, 0) ∈ (wOps 0x100).matCells m ∧ ((wOps 0x100).matMade wMatNan m (0, 0)).isSome = true ∧ (wMatNan.part 0).mirror.hold = false := by
  decide +kernel
/-- The attention passes over nine tensors, one of them BF16. -/
def wAttn (op : Nat) : Desc := wUnit ((0, 2, op) :: (List.range 9).map fun i => (0x40 + 4 * i, 4, i))
  ((2, wT fBF16 [4, 4, 1, 1] 0x402000) :: (8, wT fBF16 [4, 4, 1, 1] 0x408000) :: wTds) 0
theorem test_w_attn : ([0x300, 0x301, 0x302, 0x303].all fun op => (wAttn op).opcode == op &&
      (List.range 9).all fun k => ((wAttn op).attnTd k).isSome) = true ∧
    ((wAttn 0x303).attnTd 2).map (·.format) = some fBF16 ∧ ((wAttn 0x303).attnTd 8).map (·.format) = some fBF16 := by decide +kernel
/-- Sequence 0 with one page, one layer, one key head of 32 elements, one position; its context word is `w`, its swap area at 0x2000000.
A pool of 16 with one page. -/
def wSeq (w : Nat) (d : Desc) : State := (((wWith fun q => { q with
    descs := [d]
    page := { q.page with seqBase := 0x800000, culletBase := 0x810000, pageBase := 0x1000000, pageCount := 4 } }).wrBytes 0x800000
      (leBytes 4 (w + 2 ^ 16) ++ leBytes 4 0 ++ leBytes 8 1 ++ leBytes 8 0x820000 ++ leBytes 8 1 ++ leBytes 8 0x2000000)).wrBytes 0x810000
      (leBytes 4 0 ++ leBytes 4 1 ++ leBytes 4 4)).wrBytes 0x820000 (leBytes 4 (2 ^ 31))
def wDecode (append : Nat) : Desc := { wUnit [(0, 2, 0x310), (0x40, 4, 0), (0x44, 4, 1), (0x48, 4, 2), (0x4C, 4, 3), (0x64, 4, append)]
  ((List.range 4).map fun i => (i, wT fBF16 [32, 1, 1, 1] (0x400000 + 0x1000 * i))) 0 with seqStat := [(0, 4096 + 1)] }
theorem test_w_decode : ([0, 1].all fun x =>
      let d := wDecode x
      let s := wSeq 1 d
      let pt := s.part 0
      let c := s.seqCtx pt 0
      let n := c.length + x
      d.seqStat.find? (fun e => seqActive e.2) == some (0, 4097) && d.seqState 0 == 4097 && d.decAppend == decide (x = 1) &&
      pt.seqWaits == [] && s.poisonCells (s.ctxCells pt 0) == none && s.poisonCells (c.stepTable 0 n) == none && s.pagesOk pt c 0 n &&
      s.poisonCells (s.seqCells pt c 0 0 n) == none && !c.preempted && pt.swaps == [] && c.hk == 1 && c.valid &&
      d.seqAgrees c 1 32 && c.length != c.capacity && s.needEntries c 0 (c.length / c.tpp) == []) = true := by decide +kernel
def wRelease (mode : Nat) : Desc := { wUnit [(0, 2, 0x312), (0x40, 4, mode), (0x50, 4, 1)] [] 0 with list := leBytes 4 2 }
theorem test_w_release : ([0, 1, 2].all fun m =>
      let d := wRelease m
      let s := wSeq 1 d
      let pt := s.part 0
      d.relMode == m && d.relPages == [2] && pt.seqWaits == [] && d.units == 1 &&
      s.poisonCells (s.relCells pt d ++ s.poolCells pt (s.poolGiven pt) 1) == none) = true := by decide +kernel
def wResume : Desc := wUnit [(0, 2, 0x311)] [] 0
theorem test_w_resume_seq : let s := wSeq 3 wResume
    let pt := s.part 0
    let c := s.seqCtx pt 0
    wResume.units ≤ 1 ∧ pt.imageEntries 0 c = [0] ∧ s.tokenOk pt wResume = true ∧ 1 ≤ s.poolFor pt 0 ∧
    s.poisonCells (s.resCells pt wResume true 1) = none ∧ s.swapBad pt c 4096 65536 = none := by decide +kernel

/-- A binding whose working copy is BF16 at 0x480000, and a partition with it and neither exception ring nor registered buffers. -/
def wBindBf : Binding := { wBinding with wc := { wMaster with format := fBF16, word := [0x480000, 2, 0, 0] } }
def wBare (d : Desc) : State := wWith fun q => { q with descs := [d], binds := [(3, wBindBf)] }
theorem test_w_chunk_good : let x := wColl0.chunks.getD 0 (0, 0, 0)
    (wBare wChunk).collOf wRef = some (wChunk, wColl0) ∧ ((wBare wChunk).part 0).binding 3 = some wBindBf ∧
    (wBare wChunk).firstAtEngine ⟨0, 0, 1, List.replicate 4 0⟩ = true ∧ ((wBare wChunk).part 0).page.excBase = 0 ∧
    ((wBare wChunk).part 0).bufs = [] ∧ wBindBf.wc.format = fBF16 ∧ wBindBf.broken = none ∧
    (wBare wChunk).poisonCells (wBindBf.chunkCells (wBare wChunk) (x.2.1 - shardAt 16 2 x.1) x.2.2 true) = none := by decide +kernel
theorem test_w_regenerate : let d := wTree 0x601 0
    wMayU (wBare d) d = true ∧ d.opcode = 0x601 ∧ (wBare d).poison = [] ∧ d.slice = none ∧
    ((List.range (ceilDiv (wBindBf.master.sz 0) redLen)).all fun k => (wBare d).poisonCells
      (wBindBf.chunkCells (wBare d) (redLen * k) (min redLen (wBindBf.master.sz 0 - redLen * k)) false) == none) = true := by decide +kernel
/-- COMPUTE, SAVE and LOAD in unpoisoned assigned memory, and two images whose roots and first leaves differ. -/
theorem test_w_clean : let d := wTree 0x603 0
    let s := wBound d
    s.memServes = true ∧ s.assignEnd ≤ reserveBase ∧ s.poison = [] ∧
    d.addr 0x48 + 128 + dataLen (wBinding.annealPlanes (bitOf (d.w32 0x40) 11)) ≤ s.assignEnd ∧ wBinding.tree + 8 ≤ s.assignEnd ∧
    ((wBinding.annealPlanes (bitOf (d.w32 0x40) 11)).all fun q => q.1 + q.2 ≤ s.assignEnd) = true := by decide +kernel
theorem test_w_compare_roots : let s := ((wBound wCompare).wrBytes 0x600090 [9]).wrBytes 0x6000C0 [9]
    s.rdBytes 0x600090 16 ≠ s.rdBytes 0x600010 16 ∧ s.rdBytes 0x6000C0 16 ≠ s.rdBytes 0x600040 16 ∧
    0 < nLeaf (wBinding.annealPlanes false) ∧ s.rdN 0x600080 4 = s.rdN 0x600000 4 ∧ s.rdN 0x600088 4 = s.rdN 0x600008 4 := by decide +kernel
/-- The stream with its digest, and with poison behind its header. -/
theorem test_w_load_good : let n := dataLen (wBinding.streamPlanes wLoad.withState)
    let s := wStreamed.wrBytes (0x600040 + n) (shake256 (wStreamed.rdBytes 0x600000 (64 + n)))
    shake256 (s.rdBytes 0x600000 (64 + n)) = s.rdBytes (0x600040 + n) 32 ∧ s.rdBytes 0x600000 0x20 =
      (wBinding.streamHeader wLoad.withState (s.rdN 0x600008 8)).take 0x20 ∧
    ((wStreamed.setPoison 0x600040).poisonIn 0x600040 (64 + n)).isSome = true ∧ (wStreamed.setPoison 0x600040).poisonIn 0x600000 64 = none := by
  decide +kernel

theorem test_w_sets_up : State.reset.setsUp = false ∧ wState.setsUp = true ∧ (wJobs .locked 1000).setsUp = true ∧ (wTime true).setsUp = true ∧
    State.reset.halted = false := by decide +kernel
theorem test_w_announce : (⟨0, 0, 0, 0, 0, 1, 0, 1⟩ : Announce).identity ≠ (wTime true).clockIdentity := by decide +kernel
theorem test_w_lane_repair : let s := { wState with memc := { wState.memc with repairing := [(5, 9), (70, 9), (8, 3)] } }
    s.memc.repairing.filter (fun e => e.2 == 0 * 32 + 9) ≠ [] := by decide
/-- A driver's narrow write of a writable page register, and the firmware's; the page of partition 3. -/
theorem test_w_narrow : pageWritable (0x08C / 8 * 8) = true ∧ (0x08C : Nat) < 0x1000 ∧ wState.powered = true ∧
    (regBase + 0x100 - regBase) / 2 ^ 20 ≠ 2 ∧ regBase + 0xD00000 ≤ regBase + 0xDFFFF8 ∧ regBase + 0xDFFFF8 < regBase + 0xE00000 ∧
    (regBase + 0xDFFFF8) % 8 = 0 := by decide
theorem test_w_fwu_start : bitOf (BitVec.toNat (1 : W64)) 0 = true ∧ wState.mgmt.updatePart ≠ 0 ∧
    (let s := { wHost true with mgmt := { wState.mgmt with updatePart := 0 } }
     s.portPart wPort = some 0 ∧ s.firmware = true ∧ s.mgmt.updatePart = 0 ∧ s.mgmt.fwu = none ∧ s.fwuBuffer (s.part 0) = true) ∧
    ({ wHost true with mgmt := MgmtSt.reset }).firmware = false := by decide +kernel
theorem test_w_pads : wState.padsHeld 2 = false ∧ ({ wState with pwr := { wState.pwr with padHeld := 15 } }).padsHeld 2 = true ∧
    State.reset.setsUp = false ∧ ({ wState with pins := { wState.pins with aonReset := true } }).powered = false := by decide +kernel
theorem test_w_destroy_now : wIdle.setsUp = true ∧ (wIdle.part 0).ent.valid = true ∧ (wIdle.part 0).descs = [] ∧ (wIdle.part 0).cq = [] ∧
    (wWith fun q => { q with ent := { q.ent with chCount := 0 } }).setsUp = true := by decide +kernel
/-- Firmware runs and the memory has not begun to train. -/
def wBooted : State := { State.reset with mgmt := { MgmtSt.reset with boot := .running } }
theorem test_w_train_runs : wBooted.memc.started = false ∧ wBooted.halted = false ∧ wBooted.setsUp = true ∧ wBooted.mgmt.boot = .running ∧
    wBooted.mgmt.flash = [] ∧ MgmtSt.reset.loadPending = true := by decide
theorem test_w_diode : 4 * wState.pwr.tjCrit ≤ 460 ∧ (0x1FF : Nat) < 0x200 ∧ wState.pwr.state = 0 ∧
    tget 0 ({ wState with halted := true }).pwr.sensors 3 < 4 * wState.pwr.tjCrit ∧ ({ wState with halted := true }).halted = true := by decide
theorem test_w_image_bad : let s : State := { wAsleep id with image := some wImgBad }
    s.firmware = true ∧ s.goRefuse 0 = 0 ∧ s.pwr.state ≠ 0 ∧ s.image = some wImgBad ∧ s.pwr.busy = false :=
  ⟨by decide, by decide +kernel, by decide, rfl, rfl⟩
theorem test_w_entering_halted : let s : State := { wIdle with halted := true, pwr := { wIdle.pwr with busy := true, entering := some 2 } }
    s.pwr.entering = some 2 ∧ s.halted = true := by decide
theorem test_w_exit_unclocked : let s : State := { wIdle with
      pwr := { wIdle.pwr with busy := true, exiting := true }, pins := { wIdle.pins with ref100 := false } }
    s.pwr.exiting = true ∧ s.pins.mainPwrgd = true ∧ s.pins.ref100 = false ∧ s.pwr.state = 0 ∧ s.pins.heldInReset = false := by decide
theorem test_w_supply_lost : wIdle.pwr.state = 0 ∧ wIdle.pins.heldInReset = false ∧ wIdle.pwr.exiting = false ∧ wIdle.pins.mainPwrgd = true := by
  decide
theorem test_w_ecc_error : wState.pwr.clocksStopped = false ∧ wState.mgmt.boot ≠ .held ∧
    ({ wState with mgmt := { wState.mgmt with boot := .held } }).mgmt.boot = .held := by decide
theorem test_w_boot_loads : let s (b : Boot) : State := { wBoot wImage with mgmt := { (wBoot wImage).mgmt with boot := b } }
    (s .loading).mgmt.boot = .loading ∧ (s .loading).pwr.clocksStopped = false ∧ (s .loading).mgmt.flashBad = false ∧
    (s .restarting).mgmt.boot = .restarting ∧ (s .booting).powered = true ∧
    (⟨0, none, true, true⟩ : BootResult).badSram = none ∧ (s .loading).mgmt.flash = wImage :=
  ⟨rfl, rfl, rfl, rfl, by decide, rfl, rfl⟩
/-- Messages of the platform: each command with parameters of its length, and one with a byte too many. -/
def wMsg (cmd : Nat) (l : List Byte) : Msg := ⟨none, 1, cmd, l, []⟩
theorem test_w_lengths : ¬ LengthOk 0x24 11 ∧ ¬ LengthOk 0x22 72 ∧ readOk (wMsg 0x02 (leBytes 4 0 ++ [1])) = true ∧
    commandCodes.contains 0x7F = false ∧ commandCodes.contains 0x10 = true ∧ (wMsg 0x32 (List.replicate 81 1)).params.length = 81 ∧
    paramN (wMsg 0x32 (List.replicate 81 1)) 0 1 = 1 ∧ (wMsg 0x32 [0]).params = [0] := by
  refine ⟨fun h => absurd (h.2.2.2.2.2.2.2.2.1 rfl) (by decide), fun h => absurd (h.2.2.2.2.2.2.2.1 rfl) (by decide), ?_⟩
  decide +kernel
theorem test_w_recovery : let s : State := { wState with mgmt := { wState.mgmt with boot := .recovery } }
    s.mgmt.boot = .recovery ∧ s.pwr.clocksStopped = false ∧ s.firmware = false := by decide
/-- The wire entry of partition 1, with clusters 2 and without. -/
def wCarry (clusters : Nat) : Msg := wMsg 0x10 (leBytes 1 1 ++ leBytes 8 0 ++ leBytes 8 clusters ++ List.replicate 112 0)
def wFreeWith (e : PartEntry) (l : PartLife) : State := { wCreate e l with mgmt := wFree.mgmt }
theorem test_w_partition_set : (wCarry 4).params.length = 129 ∧ paramN (wCarry 4) 0 1 = 1 ∧ wFree.waits 0x10 = false ∧ wFree.pwr.busy = false ∧
    ((wFreeWith wEnt1 .absent).part 1).life = .absent ∧ ((wFreeWith wEnt1 .ready).part 1).life = .ready ∧
    (wFreeWith wEnt1 .absent).createError 1 (((wFreeWith wEnt1 .absent).part 1).ent.carried (wCarry 0)) ≠ 0 ∧
    wFree.firmware = true ∧ wFree.powered = true ∧ wFree.mgmt.requireSession = false := by decide +kernel
theorem test_w_partition_clear : let s : State := { wIdle with mgmt := wFree.mgmt, parts := [(0, { wPart with
      sq := [], cq := [], ent := { wEnt with chCount := 0 } })] }
    s.waits 0x12 = false ∧ s.waits 0x10 = false ∧ (s.part 0).ent.valid = true ∧ (s.part 0).descs = [] ∧ (s.part 0).cq = [] ∧
    (s.part 0).mirror.hold = false ∧ (s.part 0).ent.chCount = 0 ∧ (s.part 1).ent.valid = false ∧ (s.part 1).life ≠ .destroying := by
  decide +kernel
theorem test_w_job_bind : let m := wMsg 0x22 (leBytes 1 0 ++ leBytes 8 reserveBase ++ List.replicate 64 0)
    73 ≤ m.params.length ∧ paramN m 0 1 < 8 ∧ paramN m 1 8 < 2 ^ 44 ∧ wFree.fab.started = false ∧
    (wMsg 0x21 (List.replicate 88 0)).params.length = 88 ∧ (wFree.part 0).life = .ready := by decide +kernel
theorem test_w_sensor : sensorExists 0 = true ∧ sensorExists 0x1FFF = false ∧ wState.memServes = true ∧ State.reset.memServes = false := by
  decide +kernel
/-- A FLAG wait and a descriptor not started that a cancel completes at once; a ring with nothing left to fetch. -/
theorem test_w_cancel_now : ((wFlight wFlagWait).part 0).oldestTag 0 0 = some wFlagWait ∧ wFlagWait.status = none ∧ wFlagWait.isWait = true ∧
    wFlagWait.phase = .running ∧ ((wFlight (wDesc [])).part 0).oldestTag 0 0 = some (wDesc []) ∧ (wDesc []).started = false ∧
    wSub.fetched ≠ wSub.produced ∧ ({ wSub with fetched := 5 }).fetched = wSub.produced ∧ fld (BitVec.toNat (4 : W64)) 7 2 ≠ 0 := by
  decide +kernel

end Sys2Proof.Machine
end

section
/-!
SUPPORT. Where interleaved addresses are stored, and what a store of bytes over mapped addresses leaves in memory and of poison.
-/

namespace Sys2Proof.Machine

/-! ## Where an address is stored -/

/-- The map of local addresses depends on the memory controller alone. -/
theorem State.place_congr {s t : State} (h : t.memc = s.memc) (a : Nat) : t.place a = s.place a := by
  unfold State.place State.interOffset State.directToInter State.interAddr State.healthyIndex State.healthyOf State.memServes
    State.assignEnd State.nHealthy
  rw [h]

/-- Below the end of the reserve an address that is mapped names its own byte (R270). -/
theorem State.place_interleaved {s : State} {a p : Nat} (ha : a < reserveEnd) (h : s.place a = some p) : p = a := by
  rw [State.place, if_pos ha, Option.map_eq_some_iff] at h
  obtain ⟨d, hd, rfl⟩ := h
  unfold State.interOffset at hd
  unfold State.interAddr
  split at hd
  · cases hd
  · split at hd
    next low => cases hd; rw [if_pos low]
    next =>
      split at hd
      next reserve => obtain rfl := Option.some.inj hd; rw [if_neg (by omega)]; omega
      next => cases hd

/-- Every address of the `n` from `a` on is mapped, to the byte of its own number. -/
def State.PlacedHere (s : State) (a n : Nat) : Prop := ∀ b, a ≤ b → b < a + n → s.place b = some b

/-- The assigned interleaved range of memory that serves is stored where it is addressed (R268, R270). -/
theorem State.placedHere_of_assigned {s : State} {a n : Nat} (serves : s.memServes = true) (inRange : a + n ≤ s.assignEnd)
    (below : s.assignEnd ≤ reserveBase) : s.PlacedHere a n := by
  intro b _ hb
  have hlt : b < s.assignEnd := by omega
  have hres : b < reserveEnd := by simp only [reserveBase, reserveEnd] at *; omega
  rw [State.place, if_pos hres, State.interOffset, if_neg (by simp [serves]), if_pos hlt, Option.map_some, State.interAddr, if_pos hlt]

/-! ## Lists of cells -/

/-- Cells outside a run of bytes read as before it was written. -/
theorem tget_cellsWrite_outside {j : Nat} : ∀ (bs : List Byte) (m : List Host.Cell) (a : Nat),
    j < a ∨ a + bs.length ≤ j → tget 0 (cellsWrite m a bs) j = tget 0 m j
  | [], _, _, _ => rfl
  | b :: bs, m, a, h => by
    rw [List.length_cons] at h
    rw [cellsWrite, tget_cellsWrite_outside bs _ _ (by omega), tget_tset, if_neg (by omega)]

/-- A run of bytes reads back from the cells it was written to. -/
theorem cellsRead_cellsWrite : ∀ (bs : List Byte) (m : List Host.Cell) (a : Nat),
    cellsRead (cellsWrite m a bs) a bs.length = bs
  | [], _, _ => rfl
  | b :: bs, m, a => by
    have first : tget 0 (cellsWrite (tset 0 m a b) (a + 1) bs) a = b := by
      rw [tget_cellsWrite_outside bs _ _ (by omega), tget_tset, if_pos rfl]
    rw [List.length_cons, cellsWrite, cellsRead, first, cellsRead_cellsWrite bs]

/-! ## Loads and stores of mapped bytes -/

theorem State.PlacedHere.rest {s : State} {a n : Nat} (h : s.PlacedHere a (n + 1)) : s.PlacedHere (a + 1) n :=
  fun b hl hr => h b (by omega) (by omega)

theorem State.PlacedHere.congr {s t : State} {a n : Nat} (h : s.PlacedHere a n) (hm : t.memc = s.memc) : t.PlacedHere a n :=
  fun b hl hr => by rw [State.place_congr hm, h b hl hr]

/-- Bytes stored where they are addressed are read from the cells of those numbers. -/
theorem State.rdBytes_eq_cellsRead {s : State} : ∀ {n a : Nat}, s.PlacedHere a n → s.rdBytes a n = cellsRead s.mem a n
  | 0, _, _ => rfl
  | n + 1, a, h => by
    rw [State.rdBytes, cellsRead, State.rd, h a (by omega) (by omega), State.rdBytes_eq_cellsRead h.rest]

/-- Bytes stored where they are addressed change the cells of those numbers and nothing else. -/
theorem State.wrRaw_eq_cellsWrite : ∀ (bs : List Byte) {s : State} {a : Nat}, s.PlacedHere a bs.length →
    s.wrRaw a bs = { s with mem := cellsWrite s.mem a bs }
  | [], _, _, _ => rfl
  | b :: bs, s, a, h => by
    have first : s.wr a b = { s with mem := tset 0 s.mem a b } := by rw [State.wr, h a (by omega) (by simp)]
    have rest : (s.wr a b).PlacedHere (a + 1) bs.length := h.rest.congr (by rw [first])
    rw [State.wrRaw, State.wrRaw_eq_cellsWrite bs rest, first, cellsWrite]

/-! ## Poison -/

/-- Clearing the poison of mapped lines takes their sectors out of the list of poisoned ones and changes nothing else. -/
theorem State.foldS_unpoison : ∀ (ls : List Nat) {s : State}, (∀ l ∈ ls, s.place l = some l) →
    foldS State.unpoison s ls = { s with poison := s.poison.filter fun q => ls.all fun l => q != l / 64 }
  | [], s, _ => by
    have all : (s.poison.filter fun q => ([] : List Nat).all fun l => q != l / 64) = s.poison :=
      List.filter_eq_self.2 fun _ _ => rfl
    rw [foldS, all]
  | l :: ls, s, h => by
    have first : s.unpoison l = { s with poison := serase s.poison (l / 64) } := by rw [State.unpoison, h l (by simp)]
    have rest : ∀ k ∈ ls, (s.unpoison l).place k = some k := fun k hk =>
      (State.place_congr (by rw [first]) k).trans (h k (by simp [hk]))
    rw [foldS, State.foldS_unpoison ls rest, first]
    simp only [serase, List.filter_filter, List.all_cons, Bool.and_comm]

/-- The lines a range covers whole. -/
theorem mem_wholeLines {a n l : Nat} : l ∈ wholeLines a n ↔ l % 64 = 0 ∧ a ≤ l ∧ l + 64 ≤ a + n := by
  unfold wholeLines linesOf
  split
  · simp; omega
  · simp only [List.mem_filter, List.mem_map, List.mem_range, decide_eq_true_eq]
    constructor
    · rintro ⟨⟨i, _, rfl⟩, hl, hr⟩; omega
    · rintro ⟨aligned, hl, hr⟩
      exact ⟨⟨l / 64 - a / 64, by omega, by omega⟩, hl, hr⟩

/-! ## A store of bytes -/

/-- What a store of bytes leaves where they are stored as addressed: the bytes in their cells, the sectors covered whole no longer poisoned,
and all else as it was (R266, R283). -/
theorem State.wrBytes_eq {s : State} {a : Nat} {bs : List Byte} (h : s.PlacedHere a bs.length) :
    s.wrBytes a bs = { s with
      mem := cellsWrite s.mem a bs
      poison := s.poison.filter fun q => (wholeLines a bs.length).all fun l => q != l / 64 } := by
  have lines : ∀ l ∈ wholeLines a bs.length, (s.wrRaw a bs).place l = some l := fun l hl => by
    obtain ⟨_, ha, hn⟩ := mem_wholeLines.1 hl
    exact h.congr (by rw [State.wrRaw_eq_cellsWrite bs h]) l ha (by omega)
  rw [State.wrBytes, State.foldS_unpoison _ lines, State.wrRaw_eq_cellsWrite bs h]

theorem State.memc_wrBytes {s : State} {a : Nat} {bs : List Byte} (h : s.PlacedHere a bs.length) : (s.wrBytes a bs).memc = s.memc := by
  rw [State.wrBytes_eq h]

/-- The bytes of a store read back. -/
theorem State.rdBytes_wrBytes {s : State} {a : Nat} {bs : List Byte} (h : s.PlacedHere a bs.length) :
    (s.wrBytes a bs).rdBytes a bs.length = bs := by
  rw [State.rdBytes_eq_cellsRead (h.congr (State.memc_wrBytes h)), State.wrBytes_eq h]
  exact cellsRead_cellsWrite bs s.mem a

/-- An interleaved address outside a store reads as before. -/
theorem State.rd_wrBytes_outside {s : State} {a b : Nat} {bs : List Byte} (h : s.PlacedHere a bs.length) (hb : b < reserveEnd)
    (outside : b < a ∨ a + bs.length ≤ b) : (s.wrBytes a bs).rd b = s.rd b := by
  unfold State.rd
  rw [State.place_congr (State.memc_wrBytes h)]
  cases hp : s.place b with
  | none => rfl
  | some p =>
    cases State.place_interleaved hb hp
    rw [State.wrBytes_eq h]
    exact tget_cellsWrite_outside bs s.mem a outside

/-- A sector that a store covers whole is not poisoned after it. -/
theorem State.isPoison_wrBytes_whole {s : State} {a l : Nat} {bs : List Byte} (h : s.PlacedHere a bs.length) (aligned : l % 64 = 0)
    (hl : a ≤ l) (hr : l + 64 ≤ a + bs.length) : (s.wrBytes a bs).isPoison l = false := by
  have whole : l ∈ wholeLines a bs.length := mem_wholeLines.2 ⟨aligned, hl, hr⟩
  rw [State.isPoison, State.place_congr (State.memc_wrBytes h), h l hl (by omega), State.wrBytes_eq h]
  simp only [List.contains_eq_mem, List.mem_filter, List.all_eq_true, bne_iff_ne, decide_eq_false_iff_not]
  exact fun ⟨_, kept⟩ => kept l whole rfl

/-- A sector that a store does not touch keeps its mark. -/
theorem State.isPoison_wrBytes_apart {s : State} {a l : Nat} {bs : List Byte} (h : s.PlacedHere a bs.length) (aligned : l % 64 = 0)
    (hl : l < reserveEnd) (apart : l + 64 ≤ a ∨ a + bs.length ≤ l) : (s.wrBytes a bs).isPoison l = s.isPoison l := by
  unfold State.isPoison
  rw [State.place_congr (State.memc_wrBytes h)]
  cases hp : s.place l with
  | none => rfl
  | some p =>
    cases State.place_interleaved hl hp
    have kept : ∀ k ∈ wholeLines a bs.length, l / 64 ≠ k / 64 := fun k hk => by
      have := mem_wholeLines.1 hk; omega
    rw [State.wrBytes_eq h]
    simp only [List.contains_eq_mem, List.mem_filter, List.all_eq_true, bne_iff_ne]
    rw [decide_eq_decide]
    exact and_iff_left kept

end Sys2Proof.Machine
end

section
/-!
SUPPORT. What every command keeps: the laws of the commands (`exec…_keeps`) joined into one law of `exec`.
-/

namespace Sys2Proof.Machine

/-! ## The parts outside a list -/

/-- The set of the parts that are not listed. -/
def without (fs : List Field) (f : Field) : Bool := !fs.contains f

theorem spares_without_head (f : Field) (fs : List Field) : Spares (without (f :: fs)) f := ⟨by simp [without]⟩

theorem spares_without_tail (f g : Field) (fs : List Field) [h : Spares (without fs) f] : Spares (without (g :: fs)) f :=
  ⟨by have listed := h.eq; simp_all [without]⟩

theorem spares_without_everything (f : Field) : Spares (without everything) f := ⟨by cases f <;> rfl⟩

/-! ## Every command -/

/-- The commands that in some state reset the package or its domains cold, by which a halt ends (R486, R514, R570). -/
def mayResetCold : Instr → Bool
  | .coldResetN | .alwaysOnRailLoss | .aonResetN _ | .cold | .registerWrite _ _ _ _ | .go _ | .powerState _ | .mainPwrgd _
  | .refclk100Loss | .refclk100Return | .packageStateExitComplete | .requestFirmwareData _ _ => true
  | _ => false

/-- `mayResetCold` lists every command that `State.mayColdReset` names in some state. -/
theorem mayResetCold_of_mayColdReset {c : Instr} {s : State} (h : s.mayColdReset c = true) : mayResetCold c = true := by
  cases c
  any_goals rfl
  all_goals cases h

/-- Whatever command runs keeps the parts that `touched` does not list for it, the queue, the fuses but for a rising SVN, the
canonical forms and what has left the package; and a command that never resets cold keeps a halt. Each case is the law of its
own command; `head`, `tail` and `all` find that the parts it changes are listed. -/
theorem exec_keeps (c : Instr) (s : State) : OutKeeps (!mayResetCold c) (without (touched c)) s (exec c s) := by
  have head := spares_without_head
  have tail := spares_without_tail
  have all := spares_without_everything
  cases c <;> dsimp only [touched]
  case registerWrite src addr size value => exact execRegisterWrite_keeps src addr size value s (.refl ..)
  case sqProducer h ring value => exact execSqProducer_keeps h ring value s (.refl ..)
  case cqConsumer h ring value => exact execCqConsumer_keeps h ring value s (.refl ..)
  case ringCtlSubmission h value => exact execRingCtlSubmission_keeps h value s (.refl ..)
  case ringCtlCompletion h value => exact execRingCtlCompletion_keeps h value s (.refl ..)
  case resume h value => exact execResume_keeps h value s (.refl ..)
  case cancelTag h value => exact execCancelTag_keeps h value s (.refl ..)
  case cancelFromTag h value => exact execCancelFromTag_keeps h value s (.refl ..)
  case cancelRing h value => exact execCancelRing_keeps h value s (.refl ..)
  case cancelPartition h value => exact execCancelPartition_keeps h value s (.refl ..)
  case descriptorFetch part ring => exact execDescriptorFetch_keeps part ring s (.refl ..)
  case descriptorAdmit r => exact execDescriptorAdmit_keeps r s (.refl ..)
  case sliceIssue r t => exact execSliceIssue_keeps r t s (.refl ..)
  case sliceEnd r t stall => exact execSliceEnd_keeps r t stall s (.refl ..)
  case descriptorComplete r => exact execDescriptorComplete_keeps r s (.refl ..)
  case completionEntryWrite part cq => exact execCompletionEntryWrite_keeps part cq s (.refl ..)
  case msixTableWrite h vec word value => exact execMsixTableWrite_keeps h vec word value s (.refl ..)
  case nop r => exact execNop_keeps r s (.refl ..)
  case waitGe r => exact execWaitGe_keeps r s (.refl ..)
  case waitEq r => exact execWaitEq_keeps r s (.refl ..)
  case set r => exact execSet_keeps r s (.refl ..)
  case add r => exact execAdd_keeps r s (.refl ..)
  case copy r => exact execCopy_keeps r s (.refl ..)
  case stateDump r => exact execStateDump_keeps r s (.refl ..)
  case accSave r => exact execAccSave_keeps r s (.refl ..)
  case accRestore r => exact execAccRestore_keeps r s (.refl ..)
  case matmul r => exact execMatmul_keeps r s (.refl ..)
  case convFwd r => exact execConvFwd_keeps r s (.refl ..)
  case convDgrad r => exact execConvDgrad_keeps r s (.refl ..)
  case convWgrad r => exact execConvWgrad_keeps r s (.refl ..)
  case poolMax r => exact execPoolMax_keeps r s (.refl ..)
  case poolAvgIncl r => exact execPoolAvgIncl_keeps r s (.refl ..)
  case poolAvgExcl r => exact execPoolAvgExcl_keeps r s (.refl ..)
  case poolMaxBwd r => exact execPoolMaxBwd_keeps r s (.refl ..)
  case poolAvgInclBwd r => exact execPoolAvgInclBwd_keeps r s (.refl ..)
  case poolAvgExclBwd r => exact execPoolAvgExclBwd_keeps r s (.refl ..)
  case boxDecode r => exact execBoxDecode_keeps r s (.refl ..)
  case overlapSuppress r => exact execOverlapSuppress_keeps r s (.refl ..)
  case vec r => exact execVec_keeps r s (.refl ..)
  case xc16Encode r => exact execXc16Encode_keeps r s (.refl ..)
  case xc16Decode r => exact execXc16Decode_keeps r s (.refl ..)
  case attnScore r => exact execAttnScore_keeps r s (.refl ..)
  case attnNorm r => exact execAttnNorm_keeps r s (.refl ..)
  case attnPv r => exact execAttnPv_keeps r s (.refl ..)
  case attnBwd r => exact execAttnBwd_keeps r s (.refl ..)
  case decodeStep r => exact execDecodeStep_keeps r s (.refl ..)
  case seqResume r => exact execSeqResume_keeps r s (.refl ..)
  case give r => exact execGive_keeps r s (.refl ..)
  case truncate r => exact execTruncate_keeps r s (.refl ..)
  case free r => exact execFree_keeps r s (.refl ..)
  case mediaSample r => exact execMediaSample_keeps r s (.refl ..)
  case streamOpen r found => exact execStreamOpen_keeps r found s (.refl ..)
  case streamClose r => exact execStreamClose_keeps r s (.refl ..)
  case sampleStart r x engine => exact execSampleStart_keeps r x engine s (.refl ..)
  case sampleDecodeEnd r k found => exact execSampleDecodeEnd_keeps r k found s (.refl ..)
  case sampleCommit r x => exact execSampleCommit_keeps r x s (.refl ..)
  case gather r => exact execGather_keeps r s (.refl ..)
  case reduceScatter r => exact execReduceScatter_keeps r s (.refl ..)
  case allReduce r => exact execAllReduce_keeps r s (.refl ..)
  case broadcast r => exact execBroadcast_keeps r s (.refl ..)
  case barrier r => exact execBarrier_keeps r s (.refl ..)
  case permute r => exact execPermute_keeps r s (.refl ..)
  case chunkSend r => exact execChunkSend_keeps r s (.refl ..)
  case permuteMove r round => exact execPermuteMove_keeps r round s (.refl ..)
  case updateBind r => exact execUpdateBind_keeps r s (.refl ..)
  case updateUnbind r => exact execUpdateUnbind_keeps r s (.refl ..)
  case updateChunk r c => exact execUpdateChunk_keeps r c s (.refl ..)
  case regenerate r => exact execRegenerate_keeps r s (.refl ..)
  case compute r => exact execCompute_keeps r s (.refl ..)
  case compare r => exact execCompare_keeps r s (.refl ..)
  case save r => exact execSave_keeps r s (.refl ..)
  case load r => exact execLoad_keeps r s (.refl ..)
  case vecNop p x => exact execVecNop_keeps p x s (.refl ..)
  case vecLd p x => exact execVecLd_keeps p x s (.refl ..)
  case vecSt p x => exact execVecSt_keeps p x s (.refl ..)
  case vecMov p x => exact execVecMov_keeps p x s (.refl ..)
  case vecConst p x => exact execVecConst_keeps p x s (.refl ..)
  case vecIota p x => exact execVecIota_keeps p x s (.refl ..)
  case vecAdd p x => exact execVecAdd_keeps p x s (.refl ..)
  case vecSub p x => exact execVecSub_keeps p x s (.refl ..)
  case vecMul p x => exact execVecMul_keeps p x s (.refl ..)
  case vecFma p x => exact execVecFma_keeps p x s (.refl ..)
  case vecMax p x => exact execVecMax_keeps p x s (.refl ..)
  case vecMin p x => exact execVecMin_keeps p x s (.refl ..)
  case vecAbs p x => exact execVecAbs_keeps p x s (.refl ..)
  case vecNeg p x => exact execVecNeg_keeps p x s (.refl ..)
  case vecDiv p x => exact execVecDiv_keeps p x s (.refl ..)
  case vecSqrt p x => exact execVecSqrt_keeps p x s (.refl ..)
  case vecRcp p x => exact execVecRcp_keeps p x s (.refl ..)
  case vecRsqrt p x => exact execVecRsqrt_keeps p x s (.refl ..)
  case vecExp p x => exact execVecExp_keeps p x s (.refl ..)
  case vecExp2 p x => exact execVecExp2_keeps p x s (.refl ..)
  case vecLog p x => exact execVecLog_keeps p x s (.refl ..)
  case vecLog2 p x => exact execVecLog2_keeps p x s (.refl ..)
  case vecSin p x => exact execVecSin_keeps p x s (.refl ..)
  case vecCos p x => exact execVecCos_keeps p x s (.refl ..)
  case vecTanh p x => exact execVecTanh_keeps p x s (.refl ..)
  case vecSigmoid p x => exact execVecSigmoid_keeps p x s (.refl ..)
  case vecErf p x => exact execVecErf_keeps p x s (.refl ..)
  case vecCmp p x => exact execVecCmp_keeps p x s (.refl ..)
  case vecSel p x => exact execVecSel_keeps p x s (.refl ..)
  case vecKop p x => exact execVecKop_keeps p x s (.refl ..)
  case vecAnd p x => exact execVecAnd_keeps p x s (.refl ..)
  case vecOr p x => exact execVecOr_keeps p x s (.refl ..)
  case vecXor p x => exact execVecXor_keeps p x s (.refl ..)
  case vecShl p x => exact execVecShl_keeps p x s (.refl ..)
  case vecShr p x => exact execVecShr_keeps p x s (.refl ..)
  case vecSra p x => exact execVecSra_keeps p x s (.refl ..)
  case vecCvt p x => exact execVecCvt_keeps p x s (.refl ..)
  case vecPack p x => exact execVecPack_keeps p x s (.refl ..)
  case vecUnpk p x => exact execVecUnpk_keeps p x s (.refl ..)
  case vecTrn p x => exact execVecTrn_keeps p x s (.refl ..)
  case vecPerm p x => exact execVecPerm_keeps p x s (.refl ..)
  case vecShuf p x => exact execVecShuf_keeps p x s (.refl ..)
  case vecBcst p x => exact execVecBcst_keeps p x s (.refl ..)
  case vecRsum p x => exact execVecRsum_keeps p x s (.refl ..)
  case vecRmax p x => exact execVecRmax_keeps p x s (.refl ..)
  case vecRmin p x => exact execVecRmin_keeps p x s (.refl ..)
  case vecRargmax p x => exact execVecRargmax_keeps p x s (.refl ..)
  case vecRand p x => exact execVecRand_keeps p x s (.refl ..)
  case updNop p x => exact execUpdNop_keeps p x s (.refl ..)
  case updMov p x => exact execUpdMov_keeps p x s (.refl ..)
  case updAdd p x => exact execUpdAdd_keeps p x s (.refl ..)
  case updSub p x => exact execUpdSub_keeps p x s (.refl ..)
  case updMul p x => exact execUpdMul_keeps p x s (.refl ..)
  case updFma p x => exact execUpdFma_keeps p x s (.refl ..)
  case updDiv p x => exact execUpdDiv_keeps p x s (.refl ..)
  case updSqrt p x => exact execUpdSqrt_keeps p x s (.refl ..)
  case updRsqrt p x => exact execUpdRsqrt_keeps p x s (.refl ..)
  case updRcp p x => exact execUpdRcp_keeps p x s (.refl ..)
  case updMax p x => exact execUpdMax_keeps p x s (.refl ..)
  case updMin p x => exact execUpdMin_keeps p x s (.refl ..)
  case updAbs p x => exact execUpdAbs_keeps p x s (.refl ..)
  case updNeg p x => exact execUpdNeg_keeps p x s (.refl ..)
  case updCmp p x => exact execUpdCmp_keeps p x s (.refl ..)
  case updSel p x => exact execUpdSel_keeps p x s (.refl ..)
  case updMrd p x => exact execUpdMrd_keeps p x s (.refl ..)
  case updMadd p x => exact execUpdMadd_keeps p x s (.refl ..)
  case updExp2 p x => exact execUpdExp2_keeps p x s (.refl ..)
  case updLog2 p x => exact execUpdLog2_keeps p x s (.refl ..)
  case updBsum p x => exact execUpdBsum_keeps p x s (.refl ..)
  case updBmax p x => exact execUpdBmax_keeps p x s (.refl ..)
  case tickBoundary input => exact execTickBoundary_keeps input s (.refl ..)
  case laneRepairEnd stack ch => exact execLaneRepairEnd_keeps stack ch s (.refl ..)
  case snapshotPublish => exact execSnapshotPublish_keeps s (.refl ..)
  case waitCycleReport part => exact execWaitCycleReport_keeps part s (.refl ..)
  case lateReport r => exact execLateReport_keeps r s (.refl ..)
  case tickStageAt value => exact execTickStageAt_keeps value s (.refl ..)
  case tickEpoch value t => exact execTickEpoch_keeps value t s (.refl ..)
  case sync f t offset gm twoStep seq => exact execSync_keeps f t offset gm twoStep seq s (.refl ..)
  case followUp f t offset gm seq => exact execFollowUp_keeps f t offset gm seq s (.refl ..)
  case announce f a => exact execAnnounce_keeps f a s (.refl ..)
  case delayReq f requester seq rxTime => exact execDelayReq_keeps f requester seq rxTime s (.refl ..)
  case delayResp f seq delay => exact execDelayResp_keeps f seq delay s (.refl ..)
  case ptpIgnoredMessage f typ => exact execPtpIgnoredMessage_keeps f typ s (.refl ..)
  case syncInterval => exact execSyncInterval_keeps s (.refl ..)
  case announceInterval => exact execAnnounceInterval_keeps s (.refl ..)
  case delayReqInterval => exact execDelayReqInterval_keeps s (.refl ..)
  case announceReceiptTimeout mac => exact execAnnounceReceiptTimeout_keeps mac s (.refl ..)
  case data f => exact execData_keeps f s (.refl ..)
  case ack f => exact execAck_keeps f s (.refl ..)
  case hello f => exact execHello_keeps f s (.refl ..)
  case census f t => exact execCensus_keeps f t s (.refl ..)
  case chReset f => exact execChReset_keeps f s (.refl ..)
  case chResetAck f => exact execChResetAck_keeps f s (.refl ..)
  case trailer f => exact execTrailer_keeps f s (.refl ..)
  case bases f => exact execBases_keeps f s (.refl ..)
  case token f => exact execToken_keeps f s (.refl ..)
  case grant f => exact execGrant_keeps f s (.refl ..)
  case ackTimer ch => exact execAckTimer_keeps ch s (.refl ..)
  case rtoExpiry ch seq => exact execRtoExpiry_keeps ch seq s (.refl ..)
  case channelFailTimeout ch => exact execChannelFailTimeout_keeps ch s (.refl ..)
  case chResetRetry ch => exact execChResetRetry_keeps ch s (.refl ..)
  case chResetTimeout ch => exact execChResetTimeout_keeps ch s (.refl ..)
  case helloTimer => exact execHelloTimer_keeps s (.refl ..)
  case helloWaitExpiry mac => exact execHelloWaitExpiry_keeps mac s (.refl ..)
  case censusResend pkg => exact execCensusResend_keeps pkg s (.refl ..)
  case censusPeriodic => exact execCensusPeriodic_keeps s (.refl ..)
  case censusQuiet => exact execCensusQuiet_keeps s (.refl ..)
  case censusLimit => exact execCensusLimit_keeps s (.refl ..)
  case fabricLinkTimeout => exact execFabricLinkTimeout_keeps s (.refl ..)
  case macLinkChange mac up => exact execMacLinkChange_keeps mac up s (.refl ..)
  case pfcFrame mac prio pause => exact execPfcFrame_keeps mac prio pause s (.refl ..)
  case pause mac => exact execPause_keeps mac s (.refl ..)
  case start => exact execStart_keeps s (.refl ..)
  case bind value t => exact execBind_keeps value t s (.refl ..)
  case unbind value => exact execUnbind_keeps value s (.refl ..)
  case cxlMemRead h addr ecc => exact execCxlMemRead_keeps h addr ecc s (.refl ..)
  case cxlMemWrite h addr line => exact execCxlMemWrite_keeps h addr line s (.refl ..)
  case hdmDecoderCommit h base => exact execHdmDecoderCommit_keeps h base s (.refl ..)
  case functionLevelReset h => exact execFunctionLevelReset_keeps h s (.refl ..)
  case flrWaitExpiry part => exact execFlrWaitExpiry_keeps part s (.refl ..)
  case linkReset att => exact execLinkReset_keeps att s (.refl ..)
  case attachmentLinkChange att up cxl mld => exact execAttachmentLinkChange_keeps att up cxl mld s (.refl ..)
  case perstN q => exact execPerstN_keeps q s (.refl ..)
  case partitionCreate p => exact execPartitionCreate_keeps p s (.refl ..)
  case partitionReady p => exact execPartitionReady_keeps p s (.refl ..)
  case partitionDestroy p => exact execPartitionDestroy_keeps p s (.refl ..)
  case partitionDestroyExpiry p => exact execPartitionDestroyExpiry_keeps p s (.refl ..)
  case modeWrite p mode => exact execModeWrite_keeps p mode s (.refl ..)
  case partBufCommit h value => exact execPartBufCommit_keeps h value s (.refl ..)
  case partExcBase h value => exact execPartExcBase_keeps h value s (.refl ..)
  case partDrowse h hi value => exact execPartDrowse_keeps h hi value s (.refl ..)
  case partFwuCmd h value => exact execPartFwuCmd_keeps h value s (.refl ..)
  case firmwareUpdateComplete code erased => exact execFirmwareUpdateComplete_keeps code erased s (.refl ..)
  case train => exact execTrain_keeps s (.refl ..)
  case trainingComplete faults => exact execTrainingComplete_keeps faults s (.refl ..)
  case patrolScrub addr ecc => exact execPatrolScrub_keeps addr ecc s (.refl ..)
  case stackTempSample stack temp => exact execStackTempSample_keeps stack temp s (.refl ..)
  case dieSensorSample diode temp4 => exact execDieSensorSample_keeps diode temp4 s (.refl ..)
  case dieLinkFailure link => exact execDieLinkFailure_keeps link s (.refl ..)
  case dieLinkRetrain link degraded => exact execDieLinkRetrain_keeps link degraded s (.refl ..)
  case swapComplete part seq => exact execSwapComplete_keeps part seq s (.refl ..)
  case go value => exact execGo_keeps value s (.refl ..)
  case packageStateEntered => exact execPackageStateEntered_keeps s (.refl ..)
  case wakeAddressMatch addr => exact execWakeAddressMatch_keeps addr s (.refl ..)
  case thermalAlert temp => exact execThermalAlert_keeps temp s (.refl ..)
  case release value => exact execRelease_keeps value s (.refl ..)
  case aonResetN release => exact execAonResetN_keeps release s (.refl ..)
  case bootComplete b => exact execBootComplete_keeps b s (.refl ..)
  case coldResetN => exact execColdResetN_keeps s (.refl ..)
  case warmResetN => exact execWarmResetN_keeps s (.refl ..)
  case cold => exact execCold_keeps s (.refl ..)
  case warm => exact execWarm_keeps s (.refl ..)
  case mainPwrgd up => exact execMainPwrgd_keeps up s (.refl ..)
  case refclk100Loss => exact execRefclk100Loss_keeps s (.refl ..)
  case refclk156Loss => exact execRefclk156Loss_keeps s (.refl ..)
  case refclk25Loss => exact execRefclk25Loss_keeps s (.refl ..)
  case freeze => exact execFreeze_keeps s (.refl ..)
  case unfreeze => exact execUnfreeze_keeps s (.refl ..)
  case kick => exact execKick_keeps s (.refl ..)
  case watchdogExpiry t => exact execWatchdogExpiry_keeps t s (.refl ..)
  case lock => exact execLock_keeps s (.refl ..)
  case nonceExpiry => exact execNonceExpiry_keeps s (.refl ..)
  case getInfo m => exact execGetInfo_keeps m s (.refl ..)
  case recorderRead m => exact execRecorderRead_keeps m s (.refl ..)
  case recorderFreeze m => exact execRecorderFreeze_keeps m s (.refl ..)
  case recorderUnfreeze m => exact execRecorderUnfreeze_keeps m s (.refl ..)
  case logRead m => exact execLogRead_keeps m s (.refl ..)
  case partitionSet m => exact execPartitionSet_keeps m s (.refl ..)
  case partitionMode m => exact execPartitionMode_keeps m s (.refl ..)
  case partitionClear m => exact execPartitionClear_keeps m s (.refl ..)
  case policySet m => exact execPolicySet_keeps m s (.refl ..)
  case fabricId m => exact execFabricId_keeps m s (.refl ..)
  case fabricSetup m => exact execFabricSetup_keeps m s (.refl ..)
  case jobBind m t => exact execJobBind_keeps m t s (.refl ..)
  case jobUnbind m => exact execJobUnbind_keeps m s (.refl ..)
  case tickStage m => exact execTickStage_keeps m s (.refl ..)
  case powerState m => exact execPowerState_keeps m s (.refl ..)
  case governorSet m => exact execGovernorSet_keeps m s (.refl ..)
  case retireRecord m => exact execRetireRecord_keeps m s (.refl ..)
  case debugUnlock m => exact execDebugUnlock_keeps m s (.refl ..)
  case policy m => exact execPolicy_keeps m s (.refl ..)
  case setEndpointId eid => exact execSetEndpointId_keeps eid s (.refl ..)
  case getEndpointId => exact execGetEndpointId_keeps s (.refl ..)
  case getMctpVersionSupport typ => exact execGetMctpVersionSupport_keeps typ s (.refl ..)
  case getMessageTypeSupport => exact execGetMessageTypeSupport_keeps s (.refl ..)
  case getSensorReading sensor => exact execGetSensorReading_keeps sensor s (.refl ..)
  case getPdr record => exact execGetPdr_keeps record s (.refl ..)
  case getPdrRepositoryInfo => exact execGetPdrRepositoryInfo_keeps s (.refl ..)
  case requestUpdate => exact execRequestUpdate_keeps s (.refl ..)
  case passComponentTable comps => exact execPassComponentTable_keeps comps s (.refl ..)
  case updateComponent size => exact execUpdateComponent_keeps size s (.refl ..)
  case requestFirmwareData offset piece => exact execRequestFirmwareData_keeps offset piece s (.refl ..)
  case activateFirmware selfContained => exact execActivateFirmware_keeps selfContained s (.refl ..)
  case getVersion q => exact execGetVersion_keeps q s (.refl ..)
  case getCapabilities q => exact execGetCapabilities_keeps q s (.refl ..)
  case negotiateAlgorithms q => exact execNegotiateAlgorithms_keeps q s (.refl ..)
  case getDigests q => exact execGetDigests_keeps q s (.refl ..)
  case getCertificate q => exact execGetCertificate_keeps q s (.refl ..)
  case challenge q => exact execChallenge_keeps q s (.refl ..)
  case getMeasurements q => exact execGetMeasurements_keeps q s (.refl ..)
  case keyExchange q => exact execKeyExchange_keeps q s (.refl ..)
  case finish q => exact execFinish_keeps q s (.refl ..)
  case keyUpdate q => exact execKeyUpdate_keeps q s (.refl ..)
  case heartbeat q => exact execHeartbeat_keeps q s (.refl ..)
  case endSession q => exact execEndSession_keeps q s (.refl ..)
  case getEncapsulatedRequest q => exact execGetEncapsulatedRequest_keeps q s (.refl ..)
  case deliverEncapsulatedResponse q => exact execDeliverEncapsulatedResponse_keeps q s (.refl ..)
  case setCertificate q => exact execSetCertificate_keeps q s (.refl ..)
  case cxlIdeKm q => exact execCxlIdeKm_keeps q s (.refl ..)
  case dieLinkTrainingComplete trained degraded => exact execDieLinkTrainingComplete_keeps trained degraded s (.refl ..)
  case refclk100Return => exact execRefclk100Return_keeps s (.refl ..)
  case refclk156Return => exact execRefclk156Return_keeps s (.refl ..)
  case refclk25Return => exact execRefclk25Return_keeps s (.refl ..)
  case alwaysOnRailLoss => exact execAlwaysOnRailLoss_keeps s (.refl ..)
  case recorderDrain count => exact execRecorderDrain_keeps count s (.refl ..)
  case managementEccError uncorrectable t => exact execManagementEccError_keeps uncorrectable t s (.refl ..)
  case dynamicAddressAssignment addr => exact execDynamicAddressAssignment_keeps addr s (.refl ..)
  case packageStateExitComplete => exact execPackageStateExitComplete_keeps s (.refl ..)
  case doorbellReservedSlot h offset whole => exact execDoorbellReservedSlot_keeps h offset whole s (.refl ..)

end Sys2Proof.Machine
end

section
/-!
SUPPORT. The obligations of the scope: fuses, memory as it is addressed, units of the grades.
-/

open Sys2Proof Sys2Proof.Machine

/-- Settles O6: that the fuses stay, but for a rising SVN, is part of what every command keeps. -/
theorem fusesStayButForTheRisingSvn : Obligations.FusesStayButForTheRisingSvn := by
  intro c s t run
  have kept := exec_keeps c s t run
  exact ⟨kept.fuse, kept.svn⟩

/-- Settles O23: an assigned address is stored under its own number, so a store writes the cells it addresses and takes the
sectors it covers whole off the list of poisoned ones. -/
theorem storedBytesReadBackAndNoOthersChange : Obligations.StoredBytesReadBackAndNoOthersChange := by
  intro s a bs serves inRange below
  have here : s.PlacedHere a bs.length := State.placedHere_of_assigned serves inRange below
  exact ⟨State.rdBytes_wrBytes here, fun _ => State.rd_wrBytes_outside here, fun _ => State.isPoison_wrBytes_whole here,
    fun _ => State.isPoison_wrBytes_apart here⟩

/-- Settles O9, by the range tests on the unit's number within its die. -/
theorem presentUnitsFollowTheGrade : Obligations.PresentUnitsFollowTheGrade := by
  intro s d hd
  constructor
  · intro i hi
    have number : 20 * d + i < 80 ∧ (20 * d + i) % 20 = i := by omega
    simp only [State.clusterPresent, number]
    cases s.fuse.gradeB with
    | false => simp
    | true => simp; omega
  · intro i hi
    have number : 16 * d + i < 64 ∧ (16 * d + i) % 16 = i := by omega
    simp only [State.videoPresent, number]
    cases s.fuse.gradeB <;> simp
end

section
/-!
SUPPORT. Tick periods keep to R24, function by function: what each function that writes the tick or the retention image does to the
periods of a state. Whatever else a command calls holds no period, and its own law (`…_keeps`) says so.
-/

namespace Sys2Proof.Machine

/-! ## The periods of a state -/

/-- A period of R24, in µs. -/
def LegalPeriod (p : Nat) : Prop := 50 ≤ p ∧ p ≤ 50000

/-- Every period of the state is one of R24. -/
def State.LegalPeriods (s : State) : Prop := s.periodsAre LegalPeriod

/-- The parts that hold no period. -/
abbrev periodFree : List Field :=
  [.now, .ptp, .rec', .mgmt, .sec, .pwr, .pins, .links, .scratch, .media, .collInject, .updInject, .memc, .mem, .poison, .fab, .macs,
    .chans, .acc, .accGen, .res, .clbuf, .opbuf, .chipFixed, .vec, .upd, .atts, .parts, .served, .halted, .fresh, .out]

/-- `periodOk` decides R24's range. -/
theorem periodOk_iff (p : Nat) : periodOk p = true ↔ LegalPeriod p := decide_eq_true_iff

variable {s t : State}

/-- The periods of a state are those of another with the same period, stage, pending RESYNC and image. -/
theorem State.LegalPeriods.congr (h : s.LegalPeriods) (period : t.tick.period = s.tick.period) (stage : t.tick.stage = s.tick.stage)
    (resync : t.tick.pendingResync = s.tick.pendingResync) (image : t.image = s.image) : t.LegalPeriods := by
  unfold State.LegalPeriods State.periodsAre at *
  rwa [period, stage, resync, image]

/-- A tick with nothing staged or pending. -/
theorem State.legalPeriods_unstaged (period : LegalPeriod t.tick.period) (stage : t.tick.stage = none)
    (resync : t.tick.pendingResync = none) (image : ∀ i, t.image = some i → LegalPeriod i.period) : t.LegalPeriods :=
  ⟨period, by simp [stage], by simp [resync], image⟩

/-- The period after reset is one of R24. -/
theorem legalPeriod_reset : LegalPeriod TickSt.reset.period := ⟨by decide, by decide⟩

/-- The tick as reset leaves it, and no image. -/
theorem State.legalPeriods_fresh (period : t.tick.period = TickSt.reset.period) (stage : t.tick.stage = none)
    (resync : t.tick.pendingResync = none) (image : t.image = none) : t.LegalPeriods :=
  State.legalPeriods_unstaged (period ▸ legalPeriod_reset) stage resync (by simp [image])

/-- A law that spares only parts without a period keeps the periods legal; it may use that the set it speaks of leaves out each of
those parts. -/
theorem State.LegalPeriods.kept (h : s.LegalPeriods)
    (law : (∀ f fs, Spares (without (f :: fs)) f) → (∀ f g fs [Spares (without fs) f], Spares (without (g :: fs)) f) →
      Keeps true (without periodFree) s t) : t.LegalPeriods := by
  have kept := law spares_without_head (fun f g fs => spares_without_tail f g fs)
  have tick : t.tick = s.tick := kept.same .tick rfl
  exact h.congr (by rw [tick]) (by rw [tick]) (by rw [tick]) (kept.same .image rfl)

theorem State.LegalPeriods.withRec (h : s.LegalPeriods) (rec' : Recorder) : State.LegalPeriods { s with rec' } := h.congr rfl rfl rfl rfl
theorem State.LegalPeriods.withMgmt (h : s.LegalPeriods) (mgmt : MgmtSt) : State.LegalPeriods { s with mgmt } := h.congr rfl rfl rfl rfl
theorem State.LegalPeriods.withPwr (h : s.LegalPeriods) (pwr : PwrSt) : State.LegalPeriods { s with pwr } := h.congr rfl rfl rfl rfl
theorem State.LegalPeriods.withPins (h : s.LegalPeriods) (pins : PinSt) : State.LegalPeriods { s with pins } := h.congr rfl rfl rfl rfl
theorem State.LegalPeriods.withPending (h : s.LegalPeriods) (pending : List Instr) : State.LegalPeriods { s with pending } :=
  h.congr rfl rfl rfl rfl

theorem State.LegalPeriods.ite {c : Prop} [Decidable c] (hs : s.LegalPeriods) (ht : t.LegalPeriods) :
    (if c then s else t).LegalPeriods := by
  split
  · exact hs
  · exact ht

/-- The same of how a command of the platform ends. -/
theorem State.LegalPeriods.iteEnd {c : Prop} [Decidable c] {a b : CmdEnd × State} (ha : a.2.LegalPeriods) (hb : b.2.LegalPeriods) :
    (if c then a else b).2.LegalPeriods := by
  split
  · exact ha
  · exact hb

theorem State.LegalPeriods.fold {α : Type} {f : State → α → State} {l : List α} (h : s.LegalPeriods)
    (step : ∀ {u : State}, u.LegalPeriods → ∀ a, (f u a).LegalPeriods) : (foldS f s l).LegalPeriods := by
  induction l generalizing s with
  | nil => exact h
  | cons a l ih => exact ih (step h a)

theorem State.LegalPeriods.advance (h : s.LegalPeriods) (n : Nat) : (s.advance n).LegalPeriods :=
  h.kept fun _ _ => State.advance_keeps _ _ (.refl ..)

theorem State.LegalPeriods.record (h : s.LegalPeriods) (src code sev : Nat) (part : Option Nat) (die : Nat) (payload : List Byte) :
    (s.record src code sev part die payload).LegalPeriods :=
  h.kept fun _ _ => State.record_keeps _ _ _ _ _ _ _ (.refl ..)

theorem State.LegalPeriods.findAll (h : s.LegalPeriods) (finder tag : Nat) (l : List Found) :
    (s.findAll finder tag l).LegalPeriods :=
  h.kept fun _ _ => State.findAll_keeps _ _ _ _ (.refl ..)

/-! ## The boundary of a tick -/

/-- The next tick's period is one of the periods the state holds. -/
theorem State.LegalPeriods.nextPeriod (h : s.LegalPeriods) : LegalPeriod s.nextPeriod := by
  obtain ⟨period, stage, resync, -⟩ := h
  unfold State.nextPeriod
  split
  · exact resync _ ‹_›
  · split
    · split
      · exact stage _ ‹_›
      · exact period
    · exact period

theorem State.LegalPeriods.openTick (h : s.LegalPeriods) : s.openTick.LegalPeriods := by
  have next := h.nextPeriod
  obtain ⟨-, stage, -, image⟩ := h
  unfold State.openTick
  cases staged : s.tick.stage with
  | none => exact ⟨next, by simp, by simp, image⟩
  | some x =>
    have legal := stage x staged
    by_cases due : x.2 ≤ s.nextNum
    · simp only [due, if_true]
      exact ⟨legal, by simp, by simp, image⟩
    · simp only [due, if_false]
      exact ⟨next, by rintro _ ⟨⟩; exact legal, by simp, image⟩

theorem State.LegalPeriods.stepFreeze (h : s.LegalPeriods) (n start : Nat) (old : State) : (s.stepFreeze n start old).LegalPeriods := by
  rw [State.stepFreeze]
  exact .fold (h.congr rfl rfl rfl rfl) fun hu _ => hu.kept fun _ _ => State.addSentries_keeps _ _ _ _ (.refl ..)

theorem State.LegalPeriods.stepOverrun (h : s.LegalPeriods) (counted : Bool) : (s.stepOverrun counted).LegalPeriods := by
  refine h.congr ?_ ?_ ?_ rfl <;> (rw [State.stepOverrun]; dsimp only; split <;> rfl)

theorem State.LegalPeriods.boundarySteps (h : s.LegalPeriods) (x : TickInput) : (s.boundarySteps x).LegalPeriods := by
  rw [State.boundarySteps]
  have met : (s.findAll 4 0 x.found).keepFinds.LegalPeriods :=
    (h.findAll 4 0 x.found).kept fun _ _ => State.keepFinds_keeps _ (.refl ..)
  have overrun := (met.openTick.stepFreeze s.tick.count s.tick.start s).stepOverrun s.tick.pendingResync.isNone
  refine overrun.kept fun _ _ => State.stepIssue_keeps _ (State.refreshBoundary_keeps _ (State.laneBoundary_keeps _ ?_))
  exact keeps_foldS (fun _ _ kept => State.chargeSamples_keeps _ _ kept) (State.stepHalts_keeps _
    (keeps_foldS (fun _ _ kept => State.stepLend_keeps _ _ kept) (keeps_foldS (fun _ _ kept => State.stepDrowse_keeps _ _ kept)
      (keeps_foldS (fun _ _ kept => State.resolveWaits_keeps _ _ kept) (State.stepGovern_keeps _ _ (.refl ..))))))

theorem State.LegalPeriods.publish (h : s.LegalPeriods) : s.publish.LegalPeriods := by
  unfold State.publish
  split
  · exact h
  · exact .fold (h.congr rfl rfl rfl rfl) fun hu _ => hu.kept fun _ _ =>
      State.testWaits_keeps _ _ (State.publishPart_keeps _ _ _ (.refl ..))

theorem State.LegalPeriods.reachBoundary (h : s.LegalPeriods) : s.reachBoundary.LegalPeriods :=
  h.kept fun _ _ => State.reachBoundary_keeps _ (.refl ..)

/-! ## Stages, epochs and the time protocol -/

theorem State.LegalPeriods.stageAt (h : s.LegalPeriods) (a : Nat) : (s.stageAt a).LegalPeriods := by
  rw [State.stageAt]
  dsimp only
  split
  · obtain ⟨period, -, resync, image⟩ := h
    have ok : periodOk s.tick.stagePeriod = true := (Bool.and_eq_true_iff.1 ‹_›).1
    exact ⟨period, by rintro _ ⟨⟩; exact (periodOk_iff _).1 ok, resync, image⟩
  · exact h.congr rfl rfl rfl rfl

theorem State.LegalPeriods.setStagePeriod (h : s.LegalPeriods) (v : Nat) : (s.setStagePeriod v).LegalPeriods :=
  h.congr rfl rfl rfl rfl

/-- Dropping the stage keeps the periods legal. -/
theorem State.LegalPeriods.unstage (h : s.LegalPeriods) :
    State.LegalPeriods { s with tick := { s.tick with stage := none } } := by
  obtain ⟨period, -, resync, image⟩ := h
  exact ⟨period, by simp, resync, image⟩

theorem State.LegalPeriods.commitEpoch (h : s.LegalPeriods) {p : Nat} (legal : LegalPeriod p) (epoch n : Nat) :
    (s.commitEpoch epoch p n).LegalPeriods := by
  obtain ⟨period, stage, -, image⟩ := h
  exact ⟨period, stage, by rintro _ ⟨⟩; exact legal, image⟩

theorem State.LegalPeriods.writeEpoch (h : s.LegalPeriods) (epoch n : Nat) : (s.writeEpoch epoch n).LegalPeriods :=
  have reached := h.advance n
  .ite (reached.congr rfl rfl rfl rfl) (reached.commitEpoch reached.nextPeriod _ _)

theorem State.LegalPeriods.stepTime (h : s.LegalPeriods) (gm : Nat) : (s.stepTime gm).LegalPeriods := by
  rw [State.stepTime]
  refine State.LegalPeriods.commitEpoch ?_ (State.LegalPeriods.nextPeriod ?_) _ _ <;> exact h.congr rfl rfl rfl rfl

theorem State.LegalPeriods.lockTime (h : s.LegalPeriods) (gm : Nat) : (s.lockTime gm).LegalPeriods := by
  rw [State.lockTime]
  have stepped : (if !s.ptp.lockedOnce || !s.jobBound then s.stepTime gm else s).LegalPeriods := .ite (h.stepTime gm) h
  refine State.LegalPeriods.kept ?_ fun _ _ => State.settleLock_keeps _ (.refl ..)
  exact stepped.congr rfl rfl rfl rfl

theorem State.LegalPeriods.measure (h : s.LegalPeriods) (offset : Int) (gm : Nat) : (s.measure offset gm).LegalPeriods := by
  rw [State.measure]
  have counted : ∀ n, State.LegalPeriods { s with ptp := { s.ptp with good := n } } := fun _ => h.congr rfl rfl rfl rfl
  exact .ite ((counted _).congr rfl rfl rfl rfl) (.ite ((counted _).lockTime gm) (counted _))

/-- What a PTP frame does to the periods is what its message does. -/
theorem State.LegalPeriods.ptpFrame (h : s.LegalPeriods) (f : PtpFrame) {act : State → State}
    (acts : ∀ {u : State}, u.LegalPeriods → (act u).LegalPeriods) : (s.ptpFrame f act).LegalPeriods :=
  have counted : (s.countVerdict f.mac (s.ptpVerdict f)).LegalPeriods := h.kept fun _ _ => State.countVerdict_keeps _ _ _ (.refl ..)
  .ite (acts counted) counted

theorem State.LegalPeriods.rxSync (h : s.LegalPeriods) (m n : Nat) (offset : Int) (gm : Nat) (twoStep : Bool) (seq : Nat) :
    (s.rxSync m n offset gm twoStep seq).LegalPeriods :=
  .ite h (.ite (h.congr rfl rfl rfl rfl) ((h.advance n).measure offset gm))

theorem State.LegalPeriods.rxFollowUp (h : s.LegalPeriods) (m n : Nat) (offset : Int) (gm seq : Nat) :
    (s.rxFollowUp m n offset gm seq).LegalPeriods :=
  have heard : State.LegalPeriods { s with ptp := { s.ptp with twoStep := tdel s.ptp.twoStep m } } := h.congr rfl rfl rfl rfl
  .ite h ((heard.advance n).measure offset gm)

theorem State.LegalPeriods.announceTimeout (h : s.LegalPeriods) (m : Nat) : (s.announceTimeout m).LegalPeriods := by
  rw [State.announceTimeout]
  have decided : (State.decideMaster { s with ptp := { s.ptp with best := tdel s.ptp.best m } }).LegalPeriods :=
    h.kept fun _ _ => State.decideMaster_keeps _ (keeps_mk_ptp (.refl ..))
  exact .ite h (.ite (decided.congr rfl rfl rfl rfl) decided)

theorem State.LegalPeriods.syncTick (h : s.LegalPeriods) : s.syncTick.LegalPeriods := by
  unfold State.syncTick
  refine .ite (State.LegalPeriods.measure ?_ _ _) h
  exact h.kept fun _ _ => keeps_mk_ptp (State.sendPtp_keeps _ _ _ _ _ _ (.refl ..))

/-! ## Rank binding -/

/-- A binding that succeeds names a period of R24. -/
theorem State.legalPeriod_of_bindCheck {p a : Nat} (ok : s.bindCheck p a = 1) : LegalPeriod (s.readJob a).period := by
  cases formed : s.jobWellFormed a (s.readJob a) with
  | false => simp [State.bindCheck, formed] at ok
  | true =>
    simp only [State.jobWellFormed, Bool.and_eq_true] at formed
    exact (periodOk_iff _).1 formed.1.2

theorem State.LegalPeriods.bindJob (h : s.LegalPeriods) (p a : Nat) : (s.bindJob p a).LegalPeriods := by
  rw [State.bindJob]
  have noted : (s.noteAccess a 64 false).LegalPeriods := h.kept fun _ _ => State.noteAccess_keeps _ _ _ _ (.refl ..)
  have bound : ∀ fab parts, State.LegalPeriods { s.noteAccess a 64 false with fab, parts } := fun _ _ => noted.congr rfl rfl rfl rfl
  by_cases ok : s.bindCheck p a = 1
  · have legal := State.legalPeriod_of_bindCheck ok
    simp only [ok, ne_eq, not_true_eq_false, if_false]
    exact .ite (.ite (bound _ _) (bound _ _)) (State.LegalPeriods.commitEpoch (.unstage (.ite (bound _ _) (bound _ _))) legal _ _)
  · simp only [ne_eq, ok, not_false_eq_true, if_true]
    exact bound _ (s.noteAccess a 64 false).parts

theorem State.LegalPeriods.bindWrite (h : s.LegalPeriods) (v n : Nat) : (s.bindWrite v n).LegalPeriods := by
  rw [State.bindWrite]
  have reached : ∀ fab, State.LegalPeriods { s.advance n with fab } := fun _ => (h.advance n).congr rfl rfl rfl rfl
  exact .ite (reached _) ((reached _).bindJob _ _)

/-! ## Resets and supplies -/

theorem State.legalPeriods_coldReset (s : State) : s.coldReset.LegalPeriods := State.legalPeriods_fresh rfl rfl rfl rfl
theorem State.legalPeriods_warmReset (s : State) : s.warmReset.LegalPeriods := State.legalPeriods_fresh rfl rfl rfl rfl

theorem State.LegalPeriods.aonReset (h : s.LegalPeriods) (release : Bool) : (s.aonReset release).LegalPeriods :=
  .ite (h.congr rfl rfl rfl rfl) (State.legalPeriods_fresh rfl rfl rfl rfl)

theorem State.LegalPeriods.holdDomains (h : s.LegalPeriods) : s.holdDomains.LegalPeriods :=
  .ite h (State.legalPeriods_fresh rfl rfl rfl rfl)

theorem State.LegalPeriods.freeDomains (h : s.LegalPeriods) : s.freeDomains.LegalPeriods :=
  .ite (State.legalPeriods_fresh rfl rfl rfl rfl) h

/-! ## Package states -/

/-- An exit restores the period its image holds. -/
theorem State.LegalPeriods.restoreImage (h : s.LegalPeriods) {i : RetImage} (legal : LegalPeriod i.period) :
    (s.restoreImage i).LegalPeriods := by
  rw [State.restoreImage]
  have restored : (foldS (fun (u : State) (e : Nat × PartPage) => u.updPart e.1 fun (q : Part) => { q with page := e.2 })
      (foldS (fun (u : State) (e : Nat × PartEntry) => u.updPart e.1 fun (q : Part) => { q with
        ent := { e.2 with ready := false, error := 0 } }) s i.entries) i.pages).LegalPeriods :=
    .fold (.fold h fun hu _ => hu.congr rfl rfl rfl rfl) fun hu _ => hu.congr rfl rfl rfl rfl
  obtain ⟨-, stage, resync, -⟩ := restored
  exact ⟨legal, stage, resync, by simp⟩

/-- An entry saves the period in effect. -/
theorem State.LegalPeriods.enter (h : s.LegalPeriods) (target : Nat) : (s.enter target).LegalPeriods := by
  rw [State.enter]
  have dropped : (foldS State.dropLink s (List.range 4)).LegalPeriods :=
    .fold h fun hu _ => hu.kept fun _ _ => State.dropLink_keeps _ _ (.refl ..)
  obtain ⟨period, stage, resync, -⟩ := dropped
  exact ⟨period, stage, resync, by rintro _ ⟨⟩; exact period⟩

theorem State.LegalPeriods.beginExit (h : s.LegalPeriods) : s.beginExit.LegalPeriods := by
  rw [State.beginExit]
  split
  · exact s.legalPeriods_coldReset
  case h_2 i kept => exact .ite ((h.restoreImage (h.2.2.2 i kept)).congr rfl rfl rfl rfl) s.legalPeriods_coldReset

theorem State.LegalPeriods.goWrite (h : s.LegalPeriods) (v : Nat) : (s.goWrite v).LegalPeriods := by
  rw [State.goWrite]
  have asked : ∀ pwr, State.LegalPeriods { s with pwr } := fun _ => h.congr rfl rfl rfl rfl
  exact .ite (asked _) (.ite (asked _) (.ite ((asked _).enter _) (asked _).beginExit))

/-- The domains are off: the tick is as after reset, and the image stays. -/
theorem State.LegalPeriods.switchOff (h : s.LegalPeriods) (target : Nat) : (s.switchOff target).LegalPeriods :=
  State.legalPeriods_unstaged legalPeriod_reset rfl rfl h.2.2.2

/-- The image that goes to sleep may lose its CRC, not its period. -/
theorem State.LegalPeriods.sleepNow (h : s.LegalPeriods) (target : Nat) : (s.sleepNow target).LegalPeriods := by
  refine State.legalPeriods_unstaged legalPeriod_reset rfl rfl fun i saved => ?_
  obtain ⟨j, kept, rfl⟩ := Option.map_eq_some_iff.1 saved
  exact h.2.2.2 j kept

theorem State.LegalPeriods.sleepHalted (h : s.LegalPeriods) : s.sleepHalted.LegalPeriods :=
  (h.switchOff 2).congr rfl rfl rfl rfl

theorem State.LegalPeriods.exitDone (h : s.LegalPeriods) : s.exitDone.LegalPeriods := by
  rw [State.exitDone]
  have woken : ∀ fab parts pwr, State.LegalPeriods { s with
      tick := { TickSt.reset with period := s.tick.period, start := s.now }, fab, parts, pwr } := fun _ _ _ =>
    ⟨h.1, by simp [TickSt.reset], by simp [TickSt.reset], h.2.2.2⟩
  exact .ite h (.ite ((woken _ _ _).record _ _ _ _ _ _) ((woken _ _ _).record _ _ _ _ _ _).holdDomains)

/-! ## Halt, watchdog, boot and updates -/

theorem State.LegalPeriods.packageHalt (h : s.LegalPeriods) : s.packageHalt.LegalPeriods :=
  .ite h (.fold (h.congr rfl rfl rfl rfl) fun hu _ => hu.kept fun _ _ => State.reportAer_keeps _ _ (.refl ..))

theorem State.LegalPeriods.shutStack (h : s.LegalPeriods) (st temp : Nat) : (s.shutStack st temp).LegalPeriods := by
  rw [State.shutStack]
  refine State.LegalPeriods.packageHalt (State.LegalPeriods.record ?_ _ _ _ _ _ _)
  exact h.congr rfl rfl rfl rfl

theorem State.LegalPeriods.stackTemp (h : s.LegalPeriods) (st temp : Nat) : (s.stackTemp st temp).LegalPeriods := by
  rw [State.stackTemp]
  refine .ite (State.LegalPeriods.shutStack ?_ _ _) ?_ <;> exact h.congr rfl rfl rfl rfl

theorem State.LegalPeriods.dieSensor (h : s.LegalPeriods) (diode temp4 : Nat) : (s.dieSensor diode temp4).LegalPeriods := by
  rw [State.dieSensor]
  refine .ite (State.LegalPeriods.packageHalt (State.LegalPeriods.record ?_ _ _ _ _ _ _)) ?_ <;> exact h.congr rfl rfl rfl rfl

theorem State.LegalPeriods.recover (h : s.LegalPeriods) : s.recover.LegalPeriods := h.congr rfl rfl rfl rfl

theorem State.LegalPeriods.expire (h : s.LegalPeriods) (n : Nat) : (s.expire n).LegalPeriods := by
  rw [State.expire]
  have abandoned : ((s.advance n).record srcManagement 0x0002 sevError none 0 []).abandonUpdate.LegalPeriods :=
    ((h.advance n).record _ _ _ _ _ _).kept fun _ _ => State.abandonUpdate_keeps _ (.refl ..)
  exact .withMgmt (.ite abandoned.recover (abandoned.withMgmt _)) _

theorem State.LegalPeriods.boot (h : s.LegalPeriods) (b : BootResult) : (s.boot b).LegalPeriods := by
  rw [State.boot]
  have read : (s.bootImage b).2.LegalPeriods := h.kept fun _ _ => State.bootImage_keeps _ _ (.refl ..)
  refine .ite h (.ite ?_ (.ite ?_ ?_))
  · exact read.kept fun _ _ => State.loadOrWait_keeps _ _ _ (.refl ..)
  · exact (read.record _ _ _ _ _ _).recover
  · exact read.kept fun _ _ => State.resumeUpdates_keeps _ (State.stageGoes_keeps _ _ _ (State.stageRuns_keeps _ _ (.refl ..)))

theorem State.LegalPeriods.recoveryDone (h : s.LegalPeriods) : s.recoveryDone.LegalPeriods :=
  .ite (State.legalPeriods_coldReset _) (h.congr rfl rfl rfl rfl)

theorem State.LegalPeriods.takePiece (h : s.LegalPeriods) (offset : Nat) (piece : List Byte) : (s.takePiece offset piece).LegalPeriods := by
  rw [State.takePiece]
  split
  · exact h
  case h_2 f _ =>
    have stored : (s.storePiece f piece).LegalPeriods := h.kept fun _ _ => State.storePiece_keeps _ _ _ (.refl ..)
    exact .ite h (.ite stored.recoveryDone stored)

/-! ## Commands of the platform -/

theorem State.LegalPeriods.answer (h : s.LegalPeriods) (m : Msg) (cmd : Nat) (e : CmdEnd) : (s.answer m cmd e).LegalPeriods :=
  h.kept fun _ _ => State.answer_keeps _ _ _ _ (.refl ..)

/-- Beside carrying it out, a command only answers and records. -/
theorem State.LegalPeriods.command (h : s.LegalPeriods) (m : Msg) (cmd : Nat) (secured : Bool) {f : State → CmdEnd × State}
    (carried : (f s).2.LegalPeriods) : (s.command m cmd secured f).LegalPeriods := by
  rw [State.command]
  refine .ite h (.ite ?_ (.ite (h.answer ..) (.ite ?_ (carried.answer ..))))
  · exact h.kept fun _ _ => State.otherCommand_keeps _ _ (.refl ..)
  · exact h.kept fun _ _ => State.respond_keeps _ _ _ _ _ (.refl ..)

theorem State.LegalPeriods.noteCommand (h : s.LegalPeriods) (cmd : Nat) (part : Option Nat) : (s.noteCommand cmd part).LegalPeriods :=
  h.record _ _ _ _ _ _

theorem State.legalPeriods_change (h : s.LegalPeriods) (cmd : Nat) (part : Option Nat) (ok : Bool) {f : State → State}
    (changed : (f s).LegalPeriods) : (change cmd part ok f s).2.LegalPeriods := by
  rw [change]
  exact .iteEnd (changed.noteCommand _ _) h

theorem State.legalPeriods_bindCommand (h : s.LegalPeriods) (m : Msg) (n : Nat) : (bindCommand m n s).2.LegalPeriods := by
  rw [bindCommand]
  have bound : ∀ a desc b table v,
      ((((s.placeReserve a desc).placeReserve b table).findAll 0 0 m.found).bindWrite v n).LegalPeriods := fun _ _ _ _ v =>
    .bindWrite (h.kept fun _ _ => State.findAll_keeps _ _ _ _ (State.placeReserve_keeps _ _ _ (State.placeReserve_keeps _ _ _ (.refl ..)))) v n
  exact .iteEnd h (.ite ((bound _ _ _ _ _).noteCommand _ _) ((bound _ _ _ _ _).record _ _ _ _ _ _))

theorem State.legalPeriods_powerCommand (h : s.LegalPeriods) (m : Msg) : (powerCommand m s).2.LegalPeriods :=
  have gone := h.goWrite (paramN m 0 1 + 4)
  .iteEnd h (.iteEnd h (.iteEnd h (.iteEnd gone (gone.noteCommand _ _))))

/-! ## Registers -/

theorem State.LegalPeriods.writeDevcfg (h : s.LegalPeriods) (off v : Nat) : (s.writeDevcfg off v).LegalPeriods :=
  .ite (.ite s.legalPeriods_coldReset (.ite s.legalPeriods_warmReset h)) (.ite (h.congr rfl rfl rfl rfl) h)

theorem State.LegalPeriods.writeTick (h : s.LegalPeriods) (off v : Nat) : (s.writeTick off v).LegalPeriods := by
  unfold State.writeTick
  split
  · exact h.setStagePeriod v
  · exact h.stageAt v
  · exact h.writeEpoch v s.now
  · exact h.congr rfl rfl rfl rfl
  · exact h

theorem State.LegalPeriods.writeFab (h : s.LegalPeriods) (off v : Nat) : (s.writeFab off v).LegalPeriods := by
  unfold State.writeFab
  split
  · exact h.kept fun _ _ => State.setFabId_keeps _ _ (.refl ..)
  · exact .ite (h.kept fun _ _ => State.startFabric_keeps _ (.refl ..)) h
  · exact h.kept fun _ _ => State.setFabFrame_keeps _ _ (.refl ..)
  · exact h.kept fun _ _ => State.setFabPtp_keeps _ _ (.refl ..)
  · exact h.kept fun _ _ => State.setFabCensus_keeps _ _ (.refl ..)
  · exact .ite (h.bindWrite v s.now) (.ite (h.kept fun _ _ => State.unbindWrite_keeps _ _ (.refl ..)) (h.congr rfl rfl rfl rfl))
  · exact .ite (h.kept fun _ _ => State.setFabPort_keeps _ _ _ (.refl ..)) h

theorem State.LegalPeriods.writePwr (h : s.LegalPeriods) (off v : Nat) : (s.writePwr off v).LegalPeriods := by
  unfold State.writePwr
  split
  · exact h.goWrite v
  · exact h.kept fun _ _ => State.clearWake_keeps _ _ (.refl ..)
  · exact h.congr rfl rfl rfl rfl
  · exact h.kept fun _ _ => State.setPwrGov_keeps _ _ (.refl ..)
  · exact h.kept fun _ _ => State.setPwrTherm_keeps _ _ (.refl ..)
  · exact h.kept fun _ _ => State.setPwrWake_keeps _ _ (.refl ..)
  · exact h

theorem State.LegalPeriods.writeBlock (h : s.LegalPeriods) (b off v : Nat) : (s.writeBlock b off v).LegalPeriods := by
  unfold State.writeBlock
  split
  · exact h.writeDevcfg off v
  · exact h.kept fun _ _ => State.writePart_keeps _ _ _ (.refl ..)
  · exact h.writeTick off v
  · exact h.kept fun _ _ => State.writeMemc_keeps _ _ _ (.refl ..)
  · exact .ite (h.kept fun _ _ => State.setVideoOff_keeps _ _ (.refl ..))
      (.ite (h.kept fun _ _ => State.setOtherOff_keeps _ _ (.refl ..)) h)
  · exact h.writeFab off v
  · exact .ite (h.kept fun _ _ => State.setCollInject_keeps _ _ (.refl ..)) h
  · exact .ite (h.kept fun _ _ => State.setUpdInject_keeps _ _ (.refl ..)) h
  · exact h.writePwr off v
  · exact h.kept fun _ _ => State.writeMgmt_keeps _ _ _ (.refl ..)
  · exact h

theorem State.LegalPeriods.mgmtWrite (h : s.LegalPeriods) (addr size v : Nat) : (s.mgmtWrite addr size v).LegalPeriods := by
  rw [State.mgmtWrite]
  exact .ite h (.ite (h.kept fun _ _ => State.badWrite_keeps _ _ _ (.refl ..)) (h.writeBlock _ _ _))

/-- A write by a driver reaches its page alone. -/
theorem State.LegalPeriods.pageWrite (h : s.LegalPeriods) (hp : Port) (addr size : Nat) (v : Written) :
    (s.pageWrite hp fun u p => if addr < 0x1000 then (u.findAll 0 0 v.found).pageWriteAt p addr size v.value.toNat else u).LegalPeriods :=
  h.kept fun _ _ => State.pageWrite_keeps _ _ _ (fun _ _ kept => keeps_ite
    (State.pageWriteAt_keeps _ _ _ _ _ (State.findAll_keeps _ _ _ _ kept)) kept) (.refl ..)

/-! ## Every command -/

/-- A command that answers the state `u` keeps the periods legal where `u`'s are. -/
theorem State.LegalPeriods.answered {u : State} (legal : u.LegalPeriods)
    (run : (Host.Outcome.next u : Host.Outcome State Fault Refusal) = .next t) : t.LegalPeriods :=
  Host.Outcome.next.inj run ▸ legal

/-- A command that touches neither the tick nor the retention image keeps every period. -/
theorem State.LegalPeriods.untouched (h : s.LegalPeriods) {c : Instr} (run : exec c s = .next t)
    (tick : (touched c).contains .tick = false) (image : (touched c).contains .image = false) : t.LegalPeriods := by
  have kept := exec_keeps c s t run
  have same : t.tick = s.tick := kept.same .tick (by rw [without, tick]; rfl)
  exact h.congr (by rw [same]) (by rw [same]) (by rw [same]) (kept.same .image (by rw [without, image]; rfl))

/-- Every command keeps the periods legal: those that touch the tick or the image by what they do with them, the others by their
frame. -/
theorem exec_legalPeriods (c : Instr) (h : s.LegalPeriods) (run : exec c s = .next t) : t.LegalPeriods := by
  cases c
  case registerWrite src addr size v =>
    cases src with
    | page hp => exact (h.pageWrite hp addr size v).answered run
    | mgmt =>
      change (if s.hitsDebug addr size then Host.Outcome.refused Refusal.debugBlock else Host.Outcome.next _) = _ at run
      split at run
      · cases run
      · exact (State.LegalPeriods.mgmtWrite (.ite (h.findAll 0 0 v.found) h) addr size v.value.toNat).answered run
  case tickBoundary x => exact (State.LegalPeriods.ite h (h.publish.reachBoundary.boundarySteps x)).answered run
  case snapshotPublish => exact (State.LegalPeriods.ite h (h.advance _).publish).answered run
  case tickStageAt v => exact (State.LegalPeriods.ite (h.stageAt v.toNat) h).answered run
  case tickEpoch v n => exact (State.LegalPeriods.ite (h.writeEpoch v.toNat n) h).answered run
  case sync f n offset gm two seq => exact (h.ptpFrame f fun hu => hu.rxSync f.mac n offset gm two seq).answered run
  case followUp f n offset gm seq => exact (h.ptpFrame f fun hu => hu.rxFollowUp f.mac n offset gm seq).answered run
  case announceReceiptTimeout m => exact (h.announceTimeout m).answered run
  case syncInterval => exact h.syncTick.answered run
  case bind v n => exact (State.LegalPeriods.ite ((h.findAll 0 0 v.found).bindWrite v.value.toNat n) h).answered run
  case coldResetN => exact s.legalPeriods_coldReset.answered run
  case warmResetN => exact s.legalPeriods_warmReset.answered run
  case cold => exact (State.LegalPeriods.ite s.legalPeriods_coldReset h).answered run
  case warm => exact (State.LegalPeriods.ite s.legalPeriods_warmReset h).answered run
  case aonResetN release => exact (h.aonReset release).answered run
  case alwaysOnRailLoss => exact ((h.aonReset false).withRec _).answered run
  case mainPwrgd up =>
    have set := h.withPins { s.pins with mainPwrgd := up }
    exact (State.LegalPeriods.ite set.freeDomains (.ite set.holdDomains set)).answered run
  case refclk100Loss => exact (h.withPins _).holdDomains.answered run
  case refclk100Return => exact (h.withPins _).freeDomains.answered run
  case go v => exact (State.LegalPeriods.ite (h.goWrite v.toNat) h).answered run
  case packageStateEntered =>
    change Host.Outcome.next (match s.pwr.entering with | none => s | some u => if s.halted then s.sleepHalted else s.sleepNow u) = _ at run
    split at run
    · exact h.answered run
    · exact (State.LegalPeriods.ite h.sleepHalted (h.sleepNow _)).answered run
  case packageStateExitComplete => exact h.exitDone.answered run
  case dieLinkFailure l =>
    have failed : (s.updLink l fun (x : DieLink) => { x with trained := false }).LegalPeriods := h.congr rfl rfl rfl rfl
    exact (State.LegalPeriods.ite h (failed.record _ _ _ _ _ _).packageHalt).answered run
  case stackTempSample st temp => exact (State.LegalPeriods.ite h (h.stackTemp st temp)).answered run
  case dieSensorSample diode temp4 =>
    exact (State.LegalPeriods.ite h (.ite (h.withPwr _) (h.dieSensor diode temp4))).answered run
  case watchdogExpiry n => exact (State.LegalPeriods.ite (h.expire n) h).answered run
  case managementEccError bad n =>
    exact (State.LegalPeriods.ite h (.ite (h.expire n) ((h.advance n).record _ _ _ _ _ _))).answered run
  case bootComplete b => exact (h.boot b).answered run
  case requestFirmwareData offset piece => exact (State.LegalPeriods.ite (h.takePiece offset piece) h).answered run
  case jobBind m n => exact (h.command m 0x22 true (State.legalPeriods_bindCommand h m n)).answered run
  case tickStage m =>
    exact (h.command m 0x24 true (State.legalPeriods_change h _ _ _ ((h.setStagePeriod _).stageAt _))).answered run
  case powerState m => exact (h.command m 0x30 true (State.legalPeriods_powerCommand h m)).answered run
  all_goals exact h.untouched run rfl rfl

/-- The empty queue leaves the state as it is; the front command runs on the state without it, whose periods are the same. -/
theorem step_legalPeriods (h : s.LegalPeriods) (run : step s = .next t) : t.LegalPeriods := by
  unfold step at run
  split at run
  · exact h.answered run
  · exact exec_legalPeriods _ (h.withPending _) run

end Sys2Proof.Machine
end

section
/-!
SUPPORT. The obligations of the package and its ticks.
-/

open Sys2Proof Sys2Proof.Machine

/-- Settles O51, by the law of each command: `exec_legalPeriods` is the case analysis over the commands. -/
theorem tickPeriodsStayBetween50And50000Microseconds : Obligations.TickPeriodsStayBetween50And50000Microseconds :=
  ⟨fun _ _ legal run => step_legalPeriods legal run, rfl, State.legalPeriods_fresh rfl rfl rfl rfl,
    fun s => ⟨⟨s.coldReset, rfl, rfl⟩, ⟨s.warmReset, rfl, rfl⟩⟩⟩

/-- Settles O8: each register of the reset state holds the value of its table, and no partition is listed. -/
theorem resetLeavesTheValuesTheSpecGives : Obligations.ResetLeavesTheValuesTheSpecGives := by
  unfold Obligations.ResetLeavesTheValuesTheSpecGives
  repeat refine ⟨rfl, ?_⟩
  exact ⟨fun _ => ⟨rfl, rfl⟩, rfl⟩
end

section
/-!
SUPPORT. Two states of the package that the statements on time messages and on the tick's commands do not allow for.
-/

namespace Sys2Proof.Machine

/-! ## The SLAVE port goes down before another port times out -/

/-- A grandmaster of the best class, heard at MAC 1. -/
def otherMaster : Announce := ⟨0, 6, 0x20, 0, 0, 9, 1, 9⟩

/-- Start-up is complete and the tick LOCKED to the grandmaster heard at MAC 1, the SLAVE port; its link is down now, as every MAC's. -/
def slaveLinkDown : State := { State.reset with
  tick := { TickSt.reset with lock := .locked }
  ptp := { PtpSt.reset with slave := some 1, grandmaster := some otherMaster, best := [(1, otherMaster)], lockedOnce := true }
  fab := { FabSt.reset with started := true, step := 7 } }

theorem ptpOn_slaveLinkDown : slaveLinkDown.ptpOn = true := by decide

/-- The receipt timeout of MAC 0 puts the LOCKED tick into HOLDOVER, though MAC 1 is the SLAVE port: no port is SLAVE any more. -/
theorem announceTimeout_slaveLinkDown : (slaveLinkDown.announceTimeout 0).tick.lock = .holdover := by decide +kernel

/-! ## A wait on the count of the exception ring -/

/-- 128 bytes of a FLAG descriptor: the word it names, its value, its mask and its mode. -/
def flagBytes (addr value mask mode : Nat) : List Byte :=
  padTo 0x40 (leBytes 2 1) ++ leBytes 8 addr ++ leBytes 8 value ++ leBytes 8 mask ++ padTo 0x28 (leBytes 4 mode)

/-- A FLAG descriptor of ring `ring` with number `num`. -/
def flagDesc (ring num : Nat) (raw : List Byte) : Desc := { Part.dflt.newDesc ring num raw with phase := .running, started := true }

/-- Partition 0 of a package of 11 channels has its exception ring at 0x8000. On ring 0 a wait for the word at 0x4000 stands before
the SET of that word, which depends on it: a wait cycle. On ring 1 a wait stands for the count of records at the head of the exception ring. -/
def cycleAndRecordWait : State := { State.reset with
  memc := { MemcSt.reset with trained := true, started := true, healthy := (List.range 11).map fun i => (i, 0) }
  parts := [(0, { Part.dflt with
    ent := { PartEntry.dflt with valid := true, ready := true, hbmSize := GiB }
    life := .ready
    page := { PartPage.dflt with excBase := 0x8000 }
    excLog2 := 6
    descs := [
      flagDesc 0 0 (flagBytes 0x4000 5 (2 ^ 64 - 1) 0),
      { flagDesc 0 1 (flagBytes 0x4000 5 0 2) with phase := .waiting, started := false, deps := [⟨0, 0, none⟩] },
      flagDesc 1 0 (flagBytes 0x8000 1 (2 ^ 64 - 1) 0)] })] }

theorem recordWait_waits : (cycleAndRecordWait.desc ⟨0, 1, 0⟩).map (·.status) = some none := by decide +kernel

/-- The report's own record is counted at the head of the ring, and ends the wait that stands for it. -/
theorem recordWait_ends_at_report :
    ((cycleAndRecordWait.reportCycle 0).desc ⟨0, 1, 0⟩).map (·.status) = some (some stOk) := by decide +kernel

end Sys2Proof.Machine
end

section
/-!
SUPPORT. The obligations of the time protocol and of the tick's commands, refuted.
-/

open Sys2Proof Sys2Proof.Machine

/-- Refutes O50: the statement keeps the tick at the receipt timeout of a port that is not the SLAVE port. Where the SLAVE port's link
is down at that moment, no port is SLAVE after it and the LOCKED tick falls to HOLDOVER, as the model reads R398 and R576. -/
theorem not_timeMessagesMeasureLockAndElect : ¬ Obligations.TimeMessagesMeasureLockAndElect := by
  intro holds
  obtain ⟨-, -, timeout, -⟩ := holds slaveLinkDown ptpOn_slaveLinkDown
  obtain ⟨t, run, -, -, tick⟩ := timeout 0
  obtain rfl : slaveLinkDown.announceTimeout 0 = t := Host.Outcome.next.inj run
  have kept : (slaveLinkDown.announceTimeout 0).tick = slaveLinkDown.tick := tick.trans (if_neg (by decide))
  have fallen := announceTimeout_slaveLinkDown
  rw [kept] at fallen
  cases fallen

/-- Refutes O52: the statement has WAIT_CYCLE_REPORT change no descriptor. Its record lies on the exception ring, whose count is a word
that waits test (R182): the wait for that word (WRITTEN, R527) ends OK. -/
theorem not_theTickAdvancesAndItsCommandsTakeEffect : ¬ Obligations.TheTickAdvancesAndItsCommandsTakeEffect := by
  intro holds
  obtain ⟨-, -, -, -, -, report, -⟩ := holds cycleAndRecordWait rfl
  obtain ⟨t, run, descs, -⟩ := report 0
  obtain rfl : cycleAndRecordWait.reportCycle 0 = t := Host.Outcome.next.inj run
  have kept : (cycleAndRecordWait.reportCycle 0).desc ⟨0, 1, 0⟩ = cycleAndRecordWait.desc ⟨0, 1, 0⟩ := by
    rw [State.desc, State.desc, descs]
  have ended := recordWait_ends_at_report
  rw [kept, recordWait_waits] at ended
  cases ended
end

section
/-!
SUPPORT. Runs of ACC_SAVE and ACC_RESTORE over one unit past the header, and what a slice leaves when its run met no poison, no NaN and
no registered buffer.
-/

namespace Sys2Proof.Machine

/-! ## Memory -/

/-- Whether two ranges share a byte depends on the memory controller alone. -/
theorem State.sharesByte_congr {s t : State} (h : t.memc = s.memc) (a n b m : Nat) : t.sharesByte a n b m = s.sharesByte a n b m := by
  unfold State.sharesByte
  simp only [State.place_congr h]

/-- A byte below the end of the reserve, outside the cells written, reads as before. -/
theorem State.rd_of_cellsWrite {s t : State} {a b : Nat} {bs : List Byte} (memc : t.memc = s.memc) (mem : t.mem = cellsWrite s.mem a bs)
    (hb : b < reserveEnd) (outside : b < a ∨ a + bs.length ≤ b) : t.rd b = s.rd b := by
  unfold State.rd
  rw [State.place_congr memc]
  cases hp : s.place b with
  | none => rfl
  | some p =>
    cases State.place_interleaved hb hp
    rw [mem]
    exact tget_cellsWrite_outside bs s.mem a outside

theorem length_leBytes : ∀ n x : Nat, (leBytes n x).length = n
  | 0, _ => rfl
  | n + 1, x => by rw [leBytes, List.length_cons, length_leBytes n]

/-- Containers of `w` bytes take `w` bytes each. -/
theorem length_flatMap_leBytes (w : Nat) : ∀ l : List Nat, (l.flatMap (leBytes w)).length = l.length * w
  | [] => (Nat.zero_mul w).symm
  | x :: l => by
    rw [List.flatMap_cons, List.length_append, length_leBytes, length_flatMap_leBytes w l, List.length_cons, Nat.succ_mul, Nat.add_comm]

/-! ## The end of a run -/

/-- A fold whose step changes nothing at any element changes nothing. -/
theorem foldS_eq_self {σ α : Type} {f : σ → α → σ} {s : σ} : ∀ {l : List α}, (∀ a ∈ l, f s a = s) → foldS f s l = s
  | [], _ => rfl
  | a :: l, h => by rw [foldS, h a (by simp)]; exact foldS_eq_self fun b hb => h b (by simp [hb])

/-- Writes outside every registered buffer are late in none (R249). -/
theorem State.lateWrites_apart {s : State} {p : Nat} {wrote : List (Nat × Nat)}
    (apart : ∀ e ∈ (s.part p).bufs, ∀ w ∈ wrote, s.sharesByte w.1 w.2 e.2.base e.2.len = false) : s.lateWrites p wrote = s := by
  refine foldS_eq_self fun e he => ?_
  have noHits : (wrote.filter fun w => s.sharesByte w.1 w.2 e.2.base e.2.len) = [] :=
    List.filter_eq_nil_iff.2 fun w hw => by simp [apart e he w hw]
  simp [noHits]

/-- A run in memory without poison that met no NaN and wrote outside every registered buffer ends with what it stored: at most the
decision on an uncorrectable word of on-chip storage follows, in the poison and the descriptor. -/
theorem Run.finish_keeps_stored {k : Bool} {m : Field → Bool} {s0 : State} [Spares m .poison] [Spares m .parts] {w : Run} (ref : DRef)
    (h : Keeps k m s0 w.s) (clean : w.s.poison = []) (noNan : w.nan = none) (noNans : w.nans = [])
    (apart : ∀ e ∈ (w.s.part w.part).bufs, ∀ x ∈ w.wrote, w.s.sharesByte x.1 x.2 e.2.base e.2.len = false) :
    Keeps k m s0 (w.finish ref) := by
  have unit : w.endUnit = w := by rw [Run.endUnit, noNan]
  have settled : w.settlePoison = w := by
    have bad : (w.bad <|> none) = w.bad := by cases w.bad <;> rfl
    simp [Run.settlePoison, clean, foldS, bad]
  unfold Run.finish
  simp only [unit, settled, State.lateWrites_apart apart, noNans, State.seedTraps, State.firstNan, foldS]
  split
  · exact h
  · exact State.updDesc_keeps _ _ _ (keeps_foldS (fun _ a => State.setPoison_keeps _ a) h)

/-- The same of a run that stores once: its bytes stand in the cells of their addresses. -/
theorem Run.finish_wr_keeps_stored {k : Bool} {m : Field → Bool} {s0 : State} [Spares m .poison] [Spares m .parts] {w : Run} (ref : DRef)
    {a : Nat} {bs : List Byte} (h : Keeps k m s0 { w.s with mem := cellsWrite w.s.mem a bs }) (clean : w.s.poison = [])
    (noNan : w.nan = none) (noNans : w.nans = []) (first : w.wrote = []) (here : w.s.PlacedHere a bs.length)
    (apart : ∀ e ∈ (w.s.part w.part).bufs, w.s.sharesByte a bs.length e.2.base e.2.len = false) :
    Keeps k m s0 ((w.wr a bs).finish ref) := by
  have stored : (w.wr a bs).s = { w.s with mem := cellsWrite w.s.mem a bs } := State.wrRaw_eq_cellsWrite bs here
  have wrote : (w.wr a bs).wrote = [(a, bs.length)] := by rw [Run.wr, first]
  refine Run.finish_keeps_stored ref (stored ▸ h) (by rw [stored]; exact clean) noNan noNans ?_
  rw [stored, wrote]
  rintro e he x hx
  obtain rfl := List.mem_singleton.1 hx
  exact (State.sharesByte_congr (s := w.s) rfl ..).trans (apart e he)

/-- A running slice not yet carried out leaves what its units' meaning leaves, but for the clusters' buffers, the slice's mark and the
waits that test their words (R182). -/
theorem State.runSlice_keeps_run {k : Bool} {m : Field → Bool} [Spares m .clbuf] [Spares m .opbuf] [Spares m .fresh] [Spares m .parts]
    {s : State} {r : DRef} {op : Nat} {f : State → Desc → Slice → State} {d : Desc} {sl : Slice} (hd : s.desc r = some d)
    (hsl : d.slice = some sl) (hop : d.opcode = op) (fresh : sl.ran = false) (on : s.halted = false) :
    Keeps k m (f s d sl) (s.runSlice r op f) := by
  have runs : ¬ (d.opcode ≠ op ∨ sl.ran = true ∨ s.halted = true) := by simp [hop, fresh, on]
  simp only [State.runSlice, hd, hsl, if_neg runs]
  exact State.testWaits_keeps _ _ (State.updDesc_keeps _ _ _ (State.touchClusters_keeps _ _ (.refl k m _)))

/-! ## One unit past the header -/

/-- Slots within the bounds of a core and a cluster have keys of their own. -/
theorem accKey_inj {c k j c' k' j' : Nat} (hk : k < 128) (hj : j < 32) (hk' : k' < 128) (hj' : j' < 32)
    (h : accKey c k j = accKey c' k' j') : (c, k, j) = (c', k', j') := by
  simp only [accKey, coresPerCluster] at h
  simp only [Prod.mk.injEq]
  omega

/-- A slot reads as it was set; a slot of another key reads as before. -/
theorem State.accTile_of_tput {s t : State} {cluster core slot : Nat} {l : List Nat} (acc : t.acc = tput s.acc (accKey cluster core slot) l)
    (gen : t.accGen = s.accGen) (c k j : Nat) :
    t.accTile c k j = if accKey cluster core slot = accKey c k j then l else s.accTile c k j := by
  unfold State.accTile
  rw [acc, gen, tlook_tput]
  by_cases same : accKey cluster core slot = accKey c k j
  · simp only [if_pos same]
  · simp only [if_neg same]

theorem Run.reads_s (w : Run) (l : List (Nat × Nat)) : (w.reads l).s = w.s := by unfold Run.reads; split <;> rfl
theorem Run.reads_wrote (w : Run) (l : List (Nat × Nat)) : (w.reads l).wrote = w.wrote := by unfold Run.reads; split <;> rfl
theorem Run.reads_nan (w : Run) (l : List (Nat × Nat)) : (w.reads l).nan = w.nan := by unfold Run.reads; split <;> rfl
theorem Run.reads_nans (w : Run) (l : List (Nat × Nat)) : (w.reads l).nans = w.nans := by unfold Run.reads; split <;> rfl

/-- The one unit of a slice past the header of a save or restore: where its 8 KiB lie, and the tile they belong to (R108). -/
structure AccUnit (s : State) (r : DRef) (d : Desc) (sl : Slice) (o : TensorDesc) (a cluster core slot : Nat) : Prop where
  tensor : d.td (d.w32 0x40) = some o
  one : sl.count = 1
  past : sl.first ≠ 0
  offset : o.wd 0 + d.accOffset sl.first = a
  tile : d.accUnit sl.first = (cluster, core, slot)
  clean : s.poison = []
  apart : ∀ e ∈ (s.part r.part).bufs, s.sharesByte a 8192 e.2.base e.2.len = false

section
variable {k : Bool} {m : Field → Bool} {s : State} {r : DRef} {d : Desc} {sl : Slice} {o : TensorDesc} {a cluster core slot : Nat}

/-- The run of ACC_SAVE over one unit stores the tile's containers at the unit's place (R108). -/
theorem AccUnit.save (u : AccUnit s r d sl o a cluster core slot) (whole : (s.accTile cluster core slot).length = 1024)
    (here : s.PlacedHere a 8192) [Spares m .poison] [Spares m .parts] [Spares m .fresh] :
    Keeps k m { s with mem := cellsWrite s.mem a ((s.accTile cluster core slot).flatMap (leBytes 8)) } (runAccSave s d sl r) := by
  have len : ((s.accTile cluster core slot).flatMap (leBytes 8)).length = 8192 := by rw [length_flatMap_leBytes, whole]
  have drawn : ({ s with fresh := s.fresh + 1 + 1 } : State).accTile cluster core slot = s.accTile cluster core slot := rfl
  simp only [runAccSave, u.tensor, u.one, u.past, u.tile, u.offset, State.free, List.range_one, List.map_cons, List.map_nil,
    Nat.add_zero, foldS, if_false, Run.start, drawn]
  refine Run.finish_wr_keeps_stored r (keeps_mk_fresh (keeps_mk_fresh (.refl ..))) u.clean rfl rfl rfl ?_ ?_
  · exact (len ▸ here).congr rfl
  · exact fun e he => by rw [len]; exact (State.sharesByte_congr (s := s) rfl ..).trans (u.apart e he)

/-- The run of ACC_RESTORE over one unit sets the tile to bits [47:0] of the unit's containers (R109). -/
theorem AccUnit.restore (u : AccUnit s r d sl o a cluster core slot) [Spares m .poison] [Spares m .parts] :
    Keeps k m (s.setAccTile cluster core slot ((List.range 1024).map fun e => s.rdN (a + 8 * e) 8 % 2 ^ 48))
      (runAccRestore s d sl r) := by
  simp only [runAccRestore, u.tensor, u.one, u.past, u.tile, u.offset, List.range_one, List.map_cons, List.map_nil, Nat.add_zero,
    foldS, false_and, if_false, Run.accRestoreUnit, Run.reads_s]
  refine Run.finish_keeps_stored r (.refl ..) u.clean (Run.reads_nan ..) (Run.reads_nans ..) ?_
  intro e _ x hx
  simp only [Run.reads_wrote, Run.start] at hx
  cases hx

end

end Sys2Proof.Machine
end

section
/-!
SUPPORT. The obligation of ACC_SAVE and ACC_RESTORE.
-/

open Sys2Proof Sys2Proof.Machine

/-- Settles O29: the run of one unit past the header stores its containers, or sets its tile, and the end of the run and of the slice
leave memory and the tiles as the run left them. -/
theorem savedAccumulatorsRestoreExactly : Obligations.SavedAccumulatorsRestoreExactly := by
  intro s r d sl o hd hsl fresh on serves below clean tensor one past n a cluster core slot hn inRange apart
  have unit : AccUnit s r d sl o a cluster core slot := {
    tensor, one, clean
    past := by omega
    offset := (Nat.add_assoc ..).symm
    tile := by
      have slots : max 1 (bitsOf 32 (d.w32 0x44)).length = n := Nat.max_eq_right hn
      simp only [Desc.accUnit, slots]
      rfl
    apart := by simpa using apart }
  have here : s.PlacedHere a 8192 := State.placedHere_of_assigned serves inRange below
  have head := spares_without_head
  have tail := spares_without_tail
  constructor
  · intro hop whole
    have len : ((s.accTile cluster core slot).flatMap (leBytes 8)).length = 8192 := by rw [length_flatMap_leBytes, whole]
    have kept : Keeps true (without [.poison, .parts, .fresh, .clbuf, .opbuf])
        { s with mem := cellsWrite s.mem a ((s.accTile cluster core slot).flatMap (leBytes 8)) }
        (s.runSlice r 0x0004 fun t d sl => runAccSave t d sl r) :=
      (unit.save whole here).trans (State.runSlice_keeps_run (f := fun t d sl => runAccSave t d sl r) hd hsl hop fresh on)
    have memc := kept.same .memc rfl
    have mem := kept.same .mem rfl
    refine ⟨_, rfl, ?_, fun b hb outside => State.rd_of_cellsWrite memc mem hb (len ▸ outside), kept.same .acc rfl, kept.same .accGen rfl,
      kept.same .res rfl⟩
    rw [State.rdBytes_eq_cellsRead (here.congr memc), mem, ← len]
    exact cellsRead_cellsWrite ..
  · intro hop
    have kept : Keeps true (without [.poison, .parts, .fresh, .clbuf, .opbuf])
        (s.setAccTile cluster core slot ((List.range 1024).map fun e => s.rdN (a + 8 * e) 8 % 2 ^ 48))
        (s.runSlice r 0x0005 fun t d sl => runAccRestore t d sl r) :=
      unit.restore.trans (State.runSlice_keeps_run (f := fun t d sl => runAccRestore t d sl r) hd hsl hop fresh on)
    have tile := State.accTile_of_tput (kept.same .acc rfl) (kept.same .accGen rfl)
    refine ⟨_, rfl, ?_, fun c k j hk hj hcore hslot other => ?_, kept.same .res rfl, kept.same .mem rfl⟩
    · rw [tile, if_pos rfl]
    · rw [tile, if_neg fun same => other (accKey_inj hcore hslot hk hj same).symm]
end

section
/-!
SUPPORT. A state of the package that the statement on creation, destruction and resets does not allow for.
-/

namespace Sys2Proof.Machine

/-- Partition 0 is ready behind attachment 0 and idle: no descriptor, no ring, no hold. Update engine 0 still names a descriptor of
the partition as the last it worked for (R452). -/
def idleWithEngine : State := { State.reset with
  atts := [(0, { Attach.dflt with up := true })]
  parts := [(0, { Part.dflt with ent := { PartEntry.dflt with ready := true }, life := .ready })]
  upd := [(0, { UpdEngine.dflt with at' := some (⟨0, 0, 0⟩, 0) })] }

theorem portPart_idleWithEngine : idleWithEngine.portPart ⟨0, 0⟩ = some 0 := by decide

/-- The reset frees the engine: it names no descriptor any more. -/
theorem startFlr_frees_engine : ((idleWithEngine.startFlr 0).engine 0).at' = none := by decide +kernel

end Sys2Proof.Machine
end

section
/-!
SUPPORT. The obligation of creation, destruction and resets, refuted.
-/

open Sys2Proof Sys2Proof.Machine

/-- Refutes O54: the statement has a Function Level Reset of an idle partition change the partitions and the vector engines only. The
reset also frees the update engines that name a descriptor of the partition (`State.freeEngines`; R262, R452), so that in a state with
such an engine its record changes. The statement is of every state, and does not rule such an engine out. -/
theorem not_partitionsAreCreatedEndedAndReset : ¬ Obligations.PartitionsAreCreatedEndedAndReset := by
  intro holds
  obtain ⟨-, -, -, -, -, -, reset, -⟩ := holds idleWithEngine rfl
  obtain ⟨-, idle, -⟩ := reset ⟨0, 0⟩ 0 portPart_idleWithEngine
  obtain ⟨t, run, -, ⟨same, -, -⟩, -⟩ := idle rfl rfl (by decide) rfl
  have runs : execFunctionLevelReset ⟨0, 0⟩ idleWithEngine = .next (idleWithEngine.startFlr 0) := by
    rw [execFunctionLevelReset, portPart_idleWithEngine]
  obtain rfl : idleWithEngine.startFlr 0 = t := Host.Outcome.next.inj (runs.symm.trans run)
  have kept : (idleWithEngine.startFlr 0).engine 0 = idleWithEngine.engine 0 := congrArg (tget UpdEngine.dflt · 0) (same .upd (by decide))
  have freed := startFlr_frees_engine
  rw [kept] at freed
  cases freed
end

section
/-!
SUPPORT. The bits of numbers, byte lists and bit strings, and that the decoder of an XC16 slot reads back each field the encoder
writes.
-/

namespace Sys2Proof.Machine

/-! ## Two lists one after the other -/

theorem getD_append_of_lt {α : Type} {l : List α} (m : List α) {i : Nat} (d : α) (h : i < l.length) : (l ++ m).getD i d = l.getD i d := by
  rw [List.getD_eq_getElem?_getD, List.getElem?_append_left h, ← List.getD_eq_getElem?_getD]

theorem getD_append_length_add {α : Type} (l m : List α) (i : Nat) (d : α) : (l ++ m).getD (l.length + i) d = m.getD i d := by
  rw [List.getD_eq_getElem?_getD, List.getElem?_append_right (Nat.le_add_right ..), Nat.add_sub_cancel_left,
    ← List.getD_eq_getElem?_getD]

/-! ## Bits -/

theorem bitOf_eq_testBit (x i : Nat) : bitOf x i = x.testBit i := by
  rw [bitOf, Nat.testBit_eq_decide_div_mod_eq]
  exact (Bool.beq_eq_decide_eq ..)

/-- Bit `i` of the number a bit string spells is its place `i`; above the string there is no bit. -/
theorem bitOf_bitsNat : ∀ (l : List Bool) (i : Nat), bitOf (bitsNat l) i = l.getD i false
  | [], i => by simp [bitOf_eq_testBit, bitsNat]
  | b :: l, 0 => by cases b <;> simp [bitOf, bitsNat]
  | b :: l, i + 1 => by
    have half : bitsNat (b :: l) / 2 = bitsNat l := by
      change ((if b then 1 else 0) + 2 * bitsNat l) / 2 = bitsNat l
      split <;> omega
    rw [bitOf_eq_testBit, Nat.testBit_succ, half, ← bitOf_eq_testBit, bitOf_bitsNat l i, List.getD_cons_succ]

theorem bitAt_cons_of_lt (b : Byte) (l : List Byte) {i : Nat} (h : i < 8) : bitAt (b :: l) i = bitOf b.toNat i := by
  rw [bitAt, Nat.div_eq_of_lt h, Nat.mod_eq_of_lt h, List.getD_cons_zero]

theorem bitAt_cons_add_eight (b : Byte) (l : List Byte) (i : Nat) : bitAt (b :: l) (i + 8) = bitAt l i := by
  rw [bitAt, Nat.add_div_right i (by decide), Nat.add_mod_right, List.getD_cons_succ, bitAt]

theorem bitAt_append_left {l : List Byte} (m : List Byte) {i : Nat} (h : i < 8 * l.length) : bitAt (l ++ m) i = bitAt l i := by
  rw [bitAt, getD_append_of_lt _ _ (by omega), bitAt]

/-- Little-endian bytes keep the order of the bits (R8). -/
theorem bitAt_leBytes : ∀ (n x : Nat) {i : Nat}, i < 8 * n → bitAt (leBytes n x) i = bitOf x i
  | n + 1, x, i, h => by
    rw [leBytes]
    by_cases low : i < 8
    · rw [bitAt_cons_of_lt _ _ low, BitVec.toNat_ofNat, bitOf_eq_testBit, Nat.testBit_mod_two_pow, bitOf_eq_testBit]
      simp [low]
    · obtain ⟨j, rfl⟩ := Nat.exists_eq_add_of_le' (Nat.le_of_not_lt low)
      rw [bitAt_cons_add_eight, bitAt_leBytes n _ (by omega), bitOf_eq_testBit, bitOf_eq_testBit,
        show (256 : Nat) = 2 ^ 8 from rfl, Nat.testBit_div_two_pow, Nat.add_comm]

/-- A bit string stored in `n` bytes is read back at each of its places. -/
theorem bitAt_leBytes_bitsNat {n : Nat} (l : List Bool) {i : Nat} (h : i < 8 * n) :
    bitAt (leBytes n (bitsNat l)) i = l.getD i false :=
  (bitAt_leBytes n _ h).trans (bitOf_bitsNat l i)

/-- The sum of the powers of 2 at the bits of `w` below `n` is the low `n` bits of `w`. -/
theorem foldl_powers_eq_mod (w : Nat) {p : Nat → Bool} : ∀ n : Nat, (∀ k < n, p k = bitOf w k) →
    (List.range n).foldl (fun x k => if p k then x + 2 ^ k else x) 0 = w % 2 ^ n
  | 0, _ => by rw [Nat.pow_zero, Nat.mod_one]; rfl
  | n + 1, h => by
    rw [List.range_succ, List.foldl_append, foldl_powers_eq_mod w n fun k hk => h k (by omega), List.foldl_cons, List.foldl_nil,
      h n (by omega), Nat.mod_pow_succ, bitOf]
    rcases Nat.mod_two_eq_zero_or_one (w / 2 ^ n) with bit | bit <;> simp [bit]

theorem getD_natBits {n k : Nat} (x : Nat) (h : k < n) : (natBits n x).getD k false = bitOf x k := by
  simp [natBits, h]

@[simp] theorem length_natBits (n x : Nat) : (natBits n x).length = n := by simp [natBits]

/-- Where the fields of a list of numbers stand one after the other, `n` bits each, field `i` begins at bit `n * i`. -/
theorem getD_flatMap_natBits (n : Nat) {k : Nat} (hk : k < n) : ∀ (ws : List Nat) {i : Nat} (h : i < ws.length),
    (ws.flatMap (natBits n)).getD (n * i + k) false = bitOf ws[i] k
  | w :: ws, 0, _ => by
    rw [List.flatMap_cons, Nat.mul_zero, Nat.zero_add, getD_append_of_lt _ _ (by rwa [length_natBits]), getD_natBits w hk]; rfl
  | w :: ws, i + 1, h => by
    have next : n * (i + 1) + k = (natBits n w).length + (n * i + k) := by rw [length_natBits, Nat.mul_succ]; omega
    rw [List.flatMap_cons, next, getD_append_length_add, getD_flatMap_natBits n hk ws (Nat.lt_of_succ_lt_succ h)]; rfl

/-! ## The exponents of a block (R113) -/

theorem bfExp_lt (w : Nat) : bfExp w < 256 := Nat.mod_lt _ (by decide)

/-- A BF16 word is its sign, its exponent and its fraction. -/
theorem bf16_fields {w : Nat} (h : w < 65536) : (if bitOf w 15 then 0x8000 else 0) + bfExp w * 128 + w % 2 ^ 7 = w := by
  simp only [bitOf, bfExp, fld, beq_iff_eq]
  split <;> omega

theorem xcEmax_lt (ws : List Nat) : xcEmax ws < 256 :=
  List.foldlRecOn (motive := (· < 256)) ws _ (by decide) fun _ hm w _ => Nat.max_lt.2 ⟨hm, bfExp_lt w⟩

theorem le_foldl_max_bfExp : ∀ (ws : List Nat) (m : Nat), m ≤ ws.foldl (fun m w => max m (bfExp w)) m
  | [], m => m.le_refl
  | w :: ws, m => Nat.le_trans (Nat.le_max_left m (bfExp w)) (le_foldl_max_bfExp ws _)

theorem bfExp_le_foldl_max {w : Nat} : ∀ (ws : List Nat) (m : Nat), w ∈ ws → bfExp w ≤ ws.foldl (fun m w => max m (bfExp w)) m
  | _ :: ws, m, .head _ => Nat.le_trans (Nat.le_max_right m (bfExp w)) (le_foldl_max_bfExp ws _)
  | _ :: ws, _, .tail _ h => bfExp_le_foldl_max ws _ h

theorem bfExp_le_xcEmax {ws : List Nat} {w : Nat} (h : w ∈ ws) : bfExp w ≤ xcEmax ws := bfExp_le_foldl_max ws 0 h

/-! ## The code stream (R114, R116) -/

/-- The stream `l` holds the bits of `code` from bit `i` on. -/
def HoldsBits (l : List Byte) (i : Nat) (code : List Bool) : Prop := ∀ k < code.length, bitAt l (i + k) = code.getD k false

theorem HoldsBits.append {l : List Byte} {i : Nat} {a b : List Bool} (h : HoldsBits l i (a ++ b)) :
    HoldsBits l i a ∧ HoldsBits l (i + a.length) b := by
  refine ⟨fun k hk => ?_, fun k hk => ?_⟩
  · rw [h k (by rw [List.length_append]; omega), getD_append_of_lt _ _ hk]
  · rw [Nat.add_assoc, h _ (by rw [List.length_append]; omega), getD_append_length_add]

@[simp] theorem holdsBits_nil (l : List Byte) (i : Nat) : HoldsBits l i [] := fun _ h => absurd h (Nat.not_lt_zero _)

@[simp] theorem holdsBits_cons {l : List Byte} {i : Nat} {b : Bool} {code : List Bool} :
    HoldsBits l i (b :: code) ↔ bitAt l i = b ∧ HoldsBits l (i + 1) code := by
  refine ⟨fun h => ⟨h 0 (Nat.succ_pos _), HoldsBits.append (a := [b]) h |>.2⟩, fun ⟨first, rest⟩ k hk => ?_⟩
  cases k with
  | zero => exact first
  | succ k => rw [List.getD_cons_succ, ← rest k (Nat.lt_of_succ_lt_succ hk), Nat.add_assoc, Nat.add_comm 1 k]

/-- An offset below 7 is read back from its row of the table. -/
theorem xcCode_of_offset {l : List Byte} {n e d i : Nat} (hd : d < 7) (code : HoldsBits l i (xcBits (e + d) e))
    (fits : i + (xcBits (e + d) e).length ≤ n) : xcCode l n (e + d) i = some (some e, (xcBits (e + d) e).length) := by
  obtain rfl | rfl | rfl | rfl | rfl | rfl | rfl : d = 0 ∨ d = 1 ∨ d = 2 ∨ d = 3 ∨ d = 4 ∨ d = 5 ∨ d = 6 := by omega
  all_goals
    simp only [xcBits, Nat.add_sub_cancel_left, holdsBits_cons, List.length_cons, List.length_nil, Nat.add_assoc, Nat.reduceAdd]
      at code fits ⊢
    simp [xcCode, code, fits]

/-- From offset 7 on the code is the escape with the exponent itself. -/
theorem xcBits_escape {emax e : Nat} (h : 7 ≤ emax - e) : xcBits emax e = [true, true, true] ++ natBits 8 e := by
  obtain ⟨k, hk⟩ := Nat.exists_eq_add_of_le' h
  rw [xcBits, hk]
  rfl

theorem xcCode_of_escape {l : List Byte} {n emax e i : Nat} (small : e < 256)
    (code : HoldsBits l i ([true, true, true] ++ natBits 8 e)) (fits : i + 11 ≤ n) : xcCode l n emax i = some (some e, 11) := by
  obtain ⟨mark, bits⟩ := code.append
  have exponent : (List.range 8).foldl (fun x k => if bitAt l (i + (3 + k)) then x + 2 ^ k else x) 0 = e := by
    refine (foldl_powers_eq_mod e 8 fun k hk => ?_).trans (Nat.mod_eq_of_lt small)
    rw [← getD_natBits e hk, ← bits k (by simpa using hk), List.length_cons, Nat.add_assoc]; rfl
  simp only [holdsBits_cons, Nat.add_assoc, Nat.reduceAdd] at mark
  simp [xcCode, mark, exponent, Nat.not_lt.2 fits]

/-- The decoder reads back the code of an exponent, whichever row of the table it has. -/
theorem xcCode_of_holdsBits {l : List Byte} {n emax e i : Nat} (he : e ≤ emax) (small : e < 256)
    (code : HoldsBits l i (xcBits emax e)) (fits : i + (xcBits emax e).length ≤ n) :
    xcCode l n emax i = some (some e, (xcBits emax e).length) := by
  obtain ⟨d, rfl⟩ := Nat.exists_eq_add_of_le he
  rcases Nat.lt_or_ge d 7 with hd | hd
  · exact xcCode_of_offset hd code fits
  · have escape : xcBits (e + d) e = [true, true, true] ++ natBits 8 e := xcBits_escape (by omega)
    rw [escape] at code fits ⊢
    exact xcCode_of_escape small code fits

/-- The decoder reads back a whole stream, code after code. -/
theorem xcExps_of_holdsBits {l : List Byte} {emax : Nat} : ∀ (es : List Nat) (i : Nat), (∀ e ∈ es, e ≤ emax ∧ e < 256) →
    HoldsBits l i (es.flatMap (xcBits emax)) → i + (es.flatMap (xcBits emax)).length ≤ 368 → xcExps l emax es.length i = some es
  | [], _, _, _, _ => rfl
  | e :: es, i, bound, stream, fits => by
    obtain ⟨code, rest⟩ := HoldsBits.append stream
    rw [List.flatMap_cons, List.length_append] at fits
    obtain ⟨he, small⟩ := bound e (by simp)
    have tail := xcExps_of_holdsBits es _ (fun x hx => bound x (by simp [hx])) rest (by omega)
    rw [List.length_cons, xcExps, xcCode_of_holdsBits he small code (by omega)]
    simp only [tail, Option.map_some]

/-! ## The fields of a slot (R113) -/

section
variable (ws : List Nat)

theorem length_xcSlotBytes : (xcSlotBytes ws).length = 176 := by simp [xcSlotBytes, length_leBytes]

/-- From byte 128 on the slot holds EMAX, the reserved byte and the code stream. -/
theorem getD_xcSlotBytes_tail (k : Nat) (b : Byte) : (xcSlotBytes ws).getD (128 + k) b =
    ([BitVec.ofNat 8 (xcEmax ws), 0] ++ leBytes 46 (bitsNat (xcStream ws))).getD k b := by
  have planes : (leBytes 16 (bitsNat (ws.map fun w => bitOf w 15)) ++
      leBytes 112 (bitsNat (ws.flatMap fun w => natBits 7 w))).length = 128 := by simp [length_leBytes]
  rw [xcSlotBytes, List.append_assoc, ← planes, getD_append_length_add]

theorem xcSlotBytes_emax : ((xcSlotBytes ws).getD 128 0).toNat = xcEmax ws :=
  (congrArg BitVec.toNat (getD_xcSlotBytes_tail ws 0 0)).trans (Nat.mod_eq_of_lt (xcEmax_lt ws))

/-- Byte 129 is written zero, whatever a read past the end would give. -/
theorem xcSlotBytes_reserved (b : Byte) : (xcSlotBytes ws).getD 129 b = 0 := getD_xcSlotBytes_tail ws 1 b

theorem bitAt_xcSlotBytes_sign {i : Nat} (h : i < ws.length) (full : ws.length ≤ 128) : bitAt (xcSlotBytes ws) i = bitOf ws[i] 15 := by
  have inField : i < 128 := Nat.lt_of_lt_of_le h full
  rw [xcSlotBytes, List.append_assoc, List.append_assoc, bitAt_append_left _ (by rw [length_leBytes]; exact inField),
    bitAt_leBytes_bitsNat _ inField]
  simp [h]

theorem xcSlotBytes_mant : sliceList (xcSlotBytes ws) 16 112 = leBytes 112 (bitsNat (ws.flatMap fun w => natBits 7 w)) := by
  rw [sliceList, xcSlotBytes, List.append_assoc, List.append_assoc, List.drop_left' (length_leBytes ..), List.take_left' (length_leBytes ..)]

theorem xcSlotBytes_codes : (xcSlotBytes ws).drop 130 = leBytes 46 (bitsNat (xcStream ws)) := by
  rw [xcSlotBytes, List.drop_left' (by simp [length_leBytes])]

end

/-- The fraction bits of element `i`, read from the mantissa field. -/
theorem xcSlotBytes_fraction {ws : List Nat} {i : Nat} (h : i < ws.length) (full : ws.length ≤ 128) :
    (List.range 7).foldl (fun x k => if bitAt (sliceList (xcSlotBytes ws) 16 112) (7 * i + k) then x + 2 ^ k else x) 0 =
      ws[i] % 2 ^ 7 := by
  refine foldl_powers_eq_mod ws[i] 7 fun k hk => ?_
  rw [xcSlotBytes_mant, bitAt_leBytes_bitsNat _ (by omega), getD_flatMap_natBits 7 hk ws h]

/-- The exponents of a block that fits, read from the code stream. -/
theorem xcSlotBytes_exps {ws : List Nat} (fits : xcFits ws = true) :
    xcExps ((xcSlotBytes ws).drop 130) ((xcSlotBytes ws).getD 128 0).toNat ws.length 0 = some (ws.map bfExp) := by
  have short : (xcStream ws).length ≤ 368 := of_decide_eq_true fits
  have stream : (ws.map bfExp).flatMap (xcBits (xcEmax ws)) = xcStream ws := List.flatMap_map ..
  rw [xcSlotBytes_codes, xcSlotBytes_emax, ← List.length_map (as := ws) bfExp]
  refine xcExps_of_holdsBits _ 0 (fun e he => ?_) ?_ (by rw [stream]; omega)
  · obtain ⟨w, hw, rfl⟩ := List.mem_map.1 he
    exact ⟨bfExp_le_xcEmax hw, bfExp_lt w⟩
  · rw [stream]
    intro k hk
    rw [Nat.zero_add, bitAt_leBytes_bitsNat _ (by omega)]

/-- The decoder puts sign, exponent and fraction of each element together again. -/
theorem xcSlot_xcSlotBytes {ws : List Nat} (full : ws.length ≤ 128) (bf : ∀ w ∈ ws, w < 65536) (fits : xcFits ws = true) :
    xcSlot (xcSlotBytes ws) ws.length = some ws := by
  rw [xcSlot, if_neg (fun h => h (xcSlotBytes_reserved ws 0)), xcSlotBytes_exps fits, Option.map_some, Option.some_inj]
  refine List.ext_getElem (by simp) fun i _ h => ?_
  rw [List.getElem_map, List.getElem_zipIdx, List.getElem_map, Nat.zero_add]
  dsimp only
  rw [bitAt_xcSlotBytes_sign ws h full, xcSlotBytes_fraction h full, bf16_fields (bf _ (List.getElem_mem h))]

end Sys2Proof.Machine
end

section
/-!
SUPPORT. The obligation of the slot codec.
-/

open Sys2Proof Sys2Proof.Machine

/-- Settles O30: the decoder reads back every field of the slot; the exponents by induction over the code stream
(`xcExps_of_holdsBits`). -/
theorem codedSlotsDecodeToTheSameWords : Obligations.CodedSlotsDecodeToTheSameWords := fun ws _ full bf fits =>
  ⟨length_xcSlotBytes ws, xcSlotBytes_reserved ws 1, xcSlot_xcSlotBytes full bf fits⟩
end
